-- ==== Sys2Proof/Word.lean ====
section
/-! DEFINITION. The plain words and small index types of the GV-4800 (00_scope: lanterns, ports,
partitions, functions; 15: functions; R2, R3). -/

namespace Sys2Proof

/-- A byte of any memory. -/
abbrev Byte := BitVec 8
/-- A 32-bit word. -/
abbrev W32 := BitVec 32
/-- A 64-bit word (a register, a parameter word, a pointer field). -/
abbrev W64 := BitVec 64
/-- A node number (R271). -/
abbrev Node := BitVec 16
/-- One of the four partitions. -/
abbrev Part := Fin 4
/-- A PCI Express function: 0 is the PF, f = p + 1 serves partition p (R417). -/
abbrev Func := Fin 5
/-- A lantern, L0 to L7. -/
abbrev Lan := Fin 8
/-- A fabric port, P0 to P63. -/
abbrev Port := Fin 64
/-- A global matrix-engine index, 12 x lantern + engine (00_scope, Numbering). -/
abbrev MeIx := Fin 96
/-- A lantern-major vector-engine index, 2 x lantern + engine. -/
abbrev VeIx := Fin 16
/-- A ring of a function page: 0 is the work ring (the PF's ring), 1 the control ring (R423). -/
abbrev RingIx := Fin 2

end Sys2Proof
end

