-- ==== Sys2Proof/Syntax.lean ====
section
/-! DEFINITION. The commands of the block: one constructor of `Instr` for each row of
spec/opcode_table.json, with the operands the row's rule names, and the operand types. -/

namespace Sys2Proof

/-- Names one command of a ring: its function, its ring and the SEQ of its packet (R427). -/
structure CmdId where
  func : Func
  ring : RingIx
  seq  : W32
  deriving DecidableEq, Repr

/-- A fabric packet: the header fields of R321 less CHECK, and the LEN payload bytes. -/
structure Packet where
  dst     : Node
  src     : Node
  op      : BitVec 6
  tc      : Fin 4
  part    : Part
  age     : BitVec 10
  hops    : BitVec 5
  epoch   : Bool
  fog     : Bool
  echo    : Bool
  code    : BitVec 4
  ctx     : BitVec 20
  seq     : BitVec 24
  offset  : BitVec 48
  len     : BitVec 8
  mcg     : BitVec 14
  poison  : BitVec 4
  ver     : BitVec 16
  rop     : BitVec 3
  rtype   : BitVec 4
  rsvd    : BitVec 19
  payload : List Byte
  deriving DecidableEq, Repr

/-- One frame arriving on a port in a slot (R314): its 168 bytes as received, which of the two
copies of its header failed parity inside the router datapath and which payload sectors failed it (R254). -/
structure Arrival where
  port      : Port
  bytes     : List Byte
  hdrParity : BitVec 2
  secParity : BitVec 4
  deriving DecidableEq, Repr

/-- A region whose ownership can change: a gallery region of a lantern (R242) or an HBM granule of a
lantern (R243). -/
inductive RegionId where
  | gallery (lan : Lan) (region : Fin 12)
  | granule (lan : Lan) (gran : Fin 96)
  deriving DecidableEq, Repr

/-- Names one flow-context send half by its 20-bit number (R277), and the sequence of a request. -/
structure ReqId where
  ctx : BitVec 20
  seq : BitVec 24
  deriving DecidableEq, Repr

/-- A clock island (R463). -/
inductive Island where
  | matrix (e : MeIx)
  | vector (v : VeIx)
  | gallery (lan : Lan)
  | network
  | fabric (die : Fin 2)
  | host
  deriving DecidableEq, Repr

/-- A patrol unit: one per HBM controller, one per gallery slice (R260). -/
inductive PatrolUnit where
  | hbm (lan : Lan) (ctl : Fin 2)
  | gallery (lan : Lan)
  deriving DecidableEq, Repr

/-- A resource with bandwidth regulators (R231). -/
inductive Resource where
  | hbm (lan : Lan) (ctl : Fin 2)
  | crossLantern (lan : Lan)
  | injection (lan : Lan)
  | pcieOut
  | pcieIn
  deriving DecidableEq, Repr

/-- An engine the command controller grants (R356). -/
inductive EngineId where
  | matrix (e : MeIx)
  | vector (v : VeIx)
  | sector (lan : Lan)
  | dma (d : Fin 32)
  | channel (ch : Fin 4)
  deriving DecidableEq, Repr

/-- One regulator sample of a rail over 10 us (R469): mean voltage in mV, current in 10 mA, power in mW. -/
structure RailSample where
  milliVolt : Nat
  current10 : Nat
  milliWatt : Nat
  deriving DecidableEq, Repr

/-- What the power controller measures and estimates in one 10 us interval (R469, R480): the rails,
the measured input energy in uJ, the model's estimates, and for R481 the per-partition counts on each
rail group with the energy measured on it. -/
structure CapSample where
  rails      : List RailSample
  inputUj    : Nat
  estPart    : List Nat
  estStatic  : Nat
  railShares : List (Nat × List Nat × Nat)
  deriving DecidableEq, Repr

/-- A PCI Express configuration write the module acts on (R417, R418). -/
inductive CfgWrite where
  | powerD0 (f : Func)
  | powerD3hot (f : Func)
  | bar2Size (f : Func) (log2 : Nat)
  | sriovVfEnable (on : Bool)
  | msixEnable (f : Func) (on : Bool)
  | msixFunctionMask (f : Func) (on : Bool)
  deriving DecidableEq, Repr

/-- Which notice reaches the Keeper controller (R405). -/
inductive KeeperNotice where
  | poison (sector : W64)
  | updateFault (shard : Nat) (sector : W64)
  | datapath
  deriving DecidableEq, Repr

/-- The register fields of a micro-op word beyond its opcode (R102). -/
structure MicroOp where
  t   : BitVec 2
  d   : Fin 16
  a   : Fin 16
  b   : Fin 16
  c   : Fin 16
  ovr : Bool
  rnd : BitVec 3
  s   : Fin 8
  imm : W32
  deriving DecidableEq, Repr

/-- The MCTP transport a management message arrives on (R454). -/
inductive Transport where
  | pcie
  | smbus
  deriving DecidableEq, Repr

/-- A stream of an exchange at its receiver (R192): its direction (0 FWD, 1 RET, 2 GFWD, 3 GRET), the
source node, and the source lantern for FWD and GFWD. -/
structure StreamId where
  dir     : Fin 4
  node    : Node
  lantern : Lan
  deriving DecidableEq, Repr

/-- The commands, one constructor for each row of the table, in its order. -/
inductive Instr where
  /-- NOP (R435). -/
  | nop (c : CmdId)
  /-- READ_REGS (R448). -/
  | readRegs (c : CmdId)
  /-- STEP_REPORT (R449). -/
  | stepReport (c : CmdId)
  /-- OPEN_JOB (R442). -/
  | openJob (c : CmdId)
  /-- CLOSE_JOB (R442). -/
  | closeJob (c : CmdId)
  /-- HOLD_JOB (R442). -/
  | holdJob (c : CmdId)
  /-- RELEASE_JOB (R442). -/
  | releaseJob (c : CmdId)
  /-- KEEPER_RESUME (R392). -/
  | keeperResume (c : CmdId)
  /-- REPLAY_STEP (R404). -/
  | replayStep (c : CmdId)
  /-- ENTER_READY (R441). -/
  | enterReady (c : CmdId)
  /-- ENTER_STANDBY (R441). -/
  | enterStandby (c : CmdId)
  /-- SET_POWER_STATE (R466). -/
  | setPowerState (c : CmdId)
  /-- POWER_STATE_CHANGE_DONE (R466). -/
  | powerStateChangeDone
  /-- STEP_PLAN (R436). -/
  | stepPlan (c : CmdId)
  /-- STEP_CLOSE (R129). -/
  | stepClose (p : Part)
  /-- WAIT_FLAG (R437). -/
  | waitFlag (c : CmdId)
  /-- WAIT_FLAG_TEST (R437). -/
  | waitFlagTest (c : CmdId)
  /-- FLAG_TIMEOUT (R437). -/
  | flagTimeout (c : CmdId)
  /-- SIGNAL (R437). -/
  | signal (c : CmdId)
  /-- DMA_COPY (R438). -/
  | dmaCopy (c : CmdId)
  /-- DMA_CONVERT (R439). -/
  | dmaConvert (c : CmdId)
  /-- RUN_GROUPED (R69). -/
  | runGrouped (c : CmdId)
  /-- PASS_START (R57). -/
  | passStart (e : MeIx)
  /-- VERSION_RECHECK (R158). -/
  | versionRecheck (e : MeIx)
  /-- VERSION_TIMEOUT (R158). -/
  | versionTimeout (e : MeIx)
  /-- TILELIST_JOIN (R92). -/
  | tilelistJoin (c : CmdId) (rowBlock : Nat)
  /-- RUN_VECTOR (R99). -/
  | runVector (c : CmdId)
  /-- SPLIT_REDUCE (R113). -/
  | splitReduce (c : CmdId)
  /-- SPLIT_COLLECT (R115). -/
  | splitCollect (c : CmdId)
  /-- CHAIN_RECORD_ARRIVAL (R116). -/
  | chainRecordArrival (c : CmdId) (index : Nat) (recs : List (List Byte × Bool))
  /-- SPLIT_TIMEOUT (R119). -/
  | splitTimeout (c : CmdId)
  /-- LOAD_WEIGHTS (R163). -/
  | loadWeights (c : CmdId)
  /-- DERIVE_WORKING (R162). -/
  | deriveWorking (c : CmdId)
  /-- REDUCE_SCATTER (R297). -/
  | reduceScatter (c : CmdId)
  /-- GRADIENT_CHUNK (R299). -/
  | gradientChunk (ch : Fin 4)
  /-- GC_CHUNK_TIMEOUT (R300). -/
  | gcChunkTimeout (ch : Fin 4)
  /-- UPDATE_GATE (R136). -/
  | updateGate (c : CmdId)
  /-- UPDATE_SHARDS (R165). -/
  | updateShards (c : CmdId)
  /-- UPDATE_PROGRAM_START (R138). -/
  | updateProgramStart (c : CmdId)
  /-- MIRROR_CONFIG (R381). -/
  | mirrorConfig (c : CmdId)
  /-- ROUTE_TOKENS (R193). -/
  | routeTokens (c : CmdId)
  /-- RETURN_RESULTS (R194). -/
  | returnResults (c : CmdId)
  /-- ROUTE_GRADIENTS (R195). -/
  | routeGradients (c : CmdId)
  /-- RETURN_GRADIENTS (R197). -/
  | returnGradients (c : CmdId)
  /-- EXCHANGE_PACK (R193). -/
  | exchangePack (c : CmdId) (st : StreamId)
  /-- COMBINE_RESULTS (R194). -/
  | combineResults (c : CmdId)
  /-- SUM_GRADIENTS (R197). -/
  | sumGradients (c : CmdId)
  /-- EXCHANGE_TIMEOUT (R203). -/
  | exchangeTimeout (c : CmdId)
  /-- DOORBELL_WRITE (R425). -/
  | doorbellWrite (by_ : Func) (page : Func) (ring : RingIx) (v : W32)
  /-- RING_FETCH (R426). -/
  | ringFetch (page : Func) (ring : RingIx)
  /-- SEQ_ERR_CLEAR (R426). -/
  | seqErrClear (by_ : Func) (page : Func) (ring : RingIx)
  /-- RING_ENABLE (R424). -/
  | ringEnable (by_ : Func) (page : Func) (ring : RingIx) (v : W32)
  /-- COMMAND_START (R429). -/
  | commandStart (c : CmdId)
  /-- COMMAND_COMPLETE (R432). -/
  | commandComplete (c : CmdId)
  /-- LAYER_REPLAY (R131). -/
  | layerReplay (p : Part)
  /-- MAILBOX_ACK (R447). -/
  | mailboxAck (by_ : Func) (page : Func) (v : W32)
  /-- MAILBOX_READY_READ (R447). -/
  | mailboxReadyRead (by_ : Func) (page : Func) (b : Fin 16)
  /-- EVENT_RING_ENABLE (R453). -/
  | eventRingEnable (by_ : Func) (page : Func) (v : W32)
  /-- EVENT_HEAD_WRITE (R451). -/
  | eventHeadWrite (by_ : Func) (page : Func) (v : W32)
  /-- MODULE_RESET_WRITE (R457). -/
  | moduleResetWrite (by_ : Func) (v : W32)
  /-- REGISTER_WRITE (R5). -/
  | registerWrite (by_ : Func) (off : BitVec 26) (wide : Bool) (v : W64)
  /-- BAR2_READ (R421). -/
  | bar2Read (by_ : Func) (off : BitVec 40) (n : Nat)
  /-- BAR2_WRITE (R421). -/
  | bar2Write (by_ : Func) (off : BitVec 40) (bytes : List Byte) (ep : Bool)
  /-- FUNCTION_LEVEL_RESET (R417). -/
  | functionLevelReset (page : Func)
  /-- POOL_INIT (R235). -/
  | poolInit (by_ : Func) (p : Part) (q : Fin 4)
  /-- POOL_INIT_END (R235). -/
  | poolInitEnd (p : Part) (q : Fin 4)
  /-- POOL_REQUEST (R237). -/
  | poolRequest (by_ : Func) (p : Part) (q : Fin 4) (cls : Fin 4)
  /-- POOL_GRANT_READ (R246). -/
  | poolGrantRead (by_ : Func) (p : Part) (q : Fin 4)
  /-- POOL_RELEASE (R239). -/
  | poolRelease (by_ : Func) (p : Part) (q : Fin 4) (v : W64)
  /-- POOL_COUNT_WRITE (R241). -/
  | poolCountWrite (by_ : Func) (p : Part) (q : Fin 4) (cls : Fin 4) (v : W64)
  /-- POOL_COUNT_APPLY (R241). -/
  | poolCountApply (p : Part) (q : Fin 4)
  /-- REGION_OWNERSHIP_WRITE (R216). -/
  | regionOwnershipWrite (by_ : Func) (r : RegionId) (v : W32)
  /-- REGION_CHANGE_APPLY (R216). -/
  | regionChangeApply (r : RegionId)
  /-- WRITE_RAW (R263). -/
  | writeRaw (by_ : Func) (v : W32)
  /-- READ_RAW (R263). -/
  | readRaw (by_ : Func) (v : W32)
  /-- FAB_REOPEN (R290). -/
  | fabReopen (by_ : Func) (v : W32)
  /-- LIGHT_LIST_SWAP (R338). -/
  | lightListSwap (by_ : Func)
  /-- NODE_NUMBER_WRITE (R353). -/
  | nodeNumberWrite (by_ : Func) (v : W32)
  /-- PORT_ENABLE (R320). -/
  | portEnable (by_ : Func) (port : Port) (v : W32)
  /-- PORT_DISABLE (R319). -/
  | portDisable (by_ : Func) (port : Port) (v : W32)
  /-- PORT_TRAIN_ATTEMPT (R320). -/
  | portTrainAttempt (port : Port)
  /-- PORT_TRAINING_DONE (R320). -/
  | portTrainingDone (port : Port) (charge : BitVec 8)
  /-- PORT_ENTER_UP (R320). -/
  | portEnterUp (port : Port)
  /-- PORT_LOSS_OF_SIGNAL (R319). -/
  | portLossOfSignal (port : Port)
  /-- PORT_ALIGN_LOST (R319). -/
  | portAlignLost (port : Port)
  /-- PORT_ERROR_LIMIT (R319). -/
  | portErrorLimit (port : Port)
  /-- ROUTER_SLOT (R326). -/
  | routerSlot (arr : List Arrival)
  /-- FORCED_LINK_FRAME (R318). -/
  | forcedLinkFrame (port : Port)
  /-- MULTICAST_FORCED_INJECT (R345). -/
  | multicastForcedInject (lan : Lan)
  /-- FAB_LOAD (R286). -/
  | fabLoad (pk : Packet)
  /-- FAB_LOADT (R286). -/
  | fabLoadt (pk : Packet)
  /-- FAB_STORE (R285). -/
  | fabStore (pk : Packet)
  /-- VSTORE (R157). -/
  | vstore (pk : Packet)
  /-- RED (R229). -/
  | red (pk : Packet)
  /-- FETCH (R225). -/
  | fetch (pk : Packet)
  /-- MSTORE (R293). -/
  | mstore (pk : Packet)
  /-- MVSTORE (R293). -/
  | mvstore (pk : Packet)
  /-- MFLUSH (R294). -/
  | mflush (pk : Packet)
  /-- MFLUSH_SHORT_TIMEOUT (R294). -/
  | mflushShortTimeout (src : Node) (grp : BitVec 14) (p : Part)
  /-- XALLOC (R296). -/
  | xalloc (pk : Packet)
  /-- XCOMMIT (R296). -/
  | xcommit (pk : Packet)
  /-- GCOMMIT (R544). -/
  | gcommit (pk : Packet)
  /-- CLOSE (R279). -/
  | close (pk : Packet)
  /-- RESERVED_OP_ARRIVAL (R274). -/
  | reservedOpArrival (pk : Packet)
  /-- LOAD_REPLY (R286). -/
  | loadReply (pk : Packet)
  /-- FETCH_REPLY (R282). -/
  | fetchReply (pk : Packet)
  /-- ACK (R276). -/
  | ack (pk : Packet)
  /-- XALLOC_REPLY (R296). -/
  | xallocReply (pk : Packet)
  /-- MFLUSH_REPLY (R295). -/
  | mflushReply (pk : Packet)
  /-- RESEND_TIMEOUT (R287). -/
  | resendTimeout (rq : ReqId)
  /-- TARGET_LOST_TIMEOUT (R288). -/
  | targetLostTimeout (rq : ReqId)
  /-- BOUNCE_BACKOFF_EXPIRY (R292). -/
  | bounceBackoffExpiry (rq : ReqId)
  /-- BOUNCE_LIMIT_EXPIRY (R292). -/
  | bounceLimitExpiry (rq : ReqId)
  /-- SEND_HALF_IDLE_CLOSE (R279). -/
  | sendHalfIdleClose (ctx : BitVec 20)
  /-- GCOMMIT_HOLD_TIMEOUT (R544). -/
  | gcommitHoldTimeout (p : Part) (shard : W32) (step : W32) (chunk : W32)
  /-- XALLOC_BUFFER_TIMEOUT (R296). -/
  | xallocBufferTimeout (p : Part) (buf : BitVec 48)
  /-- REGULATOR_GRANT (R232). -/
  | regulatorGrant (res : Resource) (pending : List (Part × Nat))
  /-- PATROL_READ (R260). -/
  | patrolRead (u : PatrolUnit)
  /-- SUPPLY_ON (R521). -/
  | supplyOn
  /-- SUPPLY_LOSS (R523). -/
  | supplyLoss
  /-- OVERVOLTAGE_SHUTDOWN (R523). -/
  | overvoltageShutdown
  /-- INPUT_RANGE_CHANGE (R482). -/
  | inputRangeChange (milliVolt : Nat) (out : Bool)
  /-- PERST_ASSERT (R441). -/
  | perstAssert
  /-- PERST_DEASSERT (R493). -/
  | perstDeassert (fingerprint : List Byte)
  /-- BOOT_COMPLETE (R493). -/
  | bootComplete (trained : Bool)
  /-- COOLANT_STOP (R479). -/
  | coolantStop
  /-- PPS_EDGE (R537). -/
  | ppsEdge
  /-- PPS_LOCK_LOSS (R537). -/
  | ppsLockLoss
  /-- DROOP_DETECT (R475). -/
  | droopDetect (isl : Island)
  /-- DROOP_END (R475). -/
  | droopEnd (isl : Island)
  /-- CAP_INTERVAL (R472). -/
  | capInterval (sample : CapSample)
  /-- CALIBRATION_CHECK (R481). -/
  | calibrationCheck (estUj : Nat) (measuredUj : Nat)
  /-- THERMAL_READING (R477). -/
  | thermalReading (temps : List Int)
  /-- HEARTBEAT_SEND (R382). -/
  | heartbeatSend
  /-- HEARTBEAT_MISS (R382). -/
  | heartbeatMiss (node : Node)
  /-- PROBE_TIMEOUT (R384). -/
  | probeTimeout (node : Node)
  /-- TARGET_LOST_NOTICE (R383). -/
  | targetLostNotice (p : Part) (node : Node)
  /-- KEEPER_FAULT_NOTICE (R405). -/
  | keeperFaultNotice (p : Part) (notice : KeeperNotice)
  /-- HEARTBEAT (R407). -/
  | heartbeat (pk : Packet)
  /-- SUSPECT (R383). -/
  | suspect (pk : Packet)
  /-- PROBE (R384). -/
  | probe (pk : Packet)
  /-- PROBE_RELAY (R384). -/
  | probeRelay (pk : Packet)
  /-- HOLD (R386). -/
  | hold (pk : Packet)
  /-- HOLD_COMPLETE (R386). -/
  | holdComplete (p : Part)
  /-- HELD_ACK (R386). -/
  | heldAck (pk : Packet)
  /-- TAKE (R388). -/
  | take (pk : Packet)
  /-- RING_RESET (R390). -/
  | ringReset (pk : Packet)
  /-- SPARE_READY (R391). -/
  | spareReady (pk : Packet)
  /-- SPARE_JOIN_TIMEOUT (R391). -/
  | spareJoinTimeout (p : Part)
  /-- RESUME_TIMEOUT (R392). -/
  | resumeTimeout (p : Part)
  /-- REPLAY (R398). -/
  | replay (pk : Packet)
  /-- MIR_COMMIT (R379). -/
  | mirCommit (pk : Packet)
  /-- MIR_STEP (R380). -/
  | mirStep (pk : Packet)
  /-- MIR_RESTORE (R405). -/
  | mirRestore (pk : Packet)
  /-- KCTL_REPLY (R407). -/
  | kctlReply (pk : Packet)
  /-- SLOW_TIME (R366). -/
  | slowTime (pk : Packet)
  /-- RETIRE (R406). -/
  | retire (pk : Packet)
  /-- RETIRE_MODULE (R406). -/
  | retireModule (p : Part)
  /-- ABORT (R384). -/
  | abort (pk : Packet)
  /-- REG_READ (R407). -/
  | regRead (pk : Packet)
  /-- REG_WRITE (R407). -/
  | regWrite (pk : Packet)
  /-- FW_UPDATE_START (R507). -/
  | fwUpdateStart (by_ : Func)
  /-- FW_UPDATE_END (R507). -/
  | fwUpdateEnd (flashOk : Bool)
  /-- RAISE (R508). -/
  | raise (by_ : Func) (v : W32)
  /-- DAYMARK_DATA_READ (R519). -/
  | daymarkDataRead (by_ : Func)
  /-- MCTP_CONTROL (R454). -/
  | mctpControl (tp : Transport) (bytes : List Byte)
  /-- PLDM_REQUEST (R455). -/
  | pldmRequest (tp : Transport) (bytes : List Byte)
  /-- VENDOR_MANAGEMENT_REQUEST (R454). -/
  | vendorManagementRequest (tp : Transport) (bytes : List Byte)
  /-- GET_VERSION (R511). -/
  | getVersion (tp : Transport) (bytes : List Byte)
  /-- GET_CAPABILITIES (R511). -/
  | getCapabilities (tp : Transport) (bytes : List Byte)
  /-- NEGOTIATE_ALGORITHMS (R511). -/
  | negotiateAlgorithms (tp : Transport) (bytes : List Byte)
  /-- GET_DIGESTS (R511). -/
  | getDigests (tp : Transport) (bytes : List Byte)
  /-- GET_CERTIFICATE (R511). -/
  | getCertificate (tp : Transport) (bytes : List Byte)
  /-- CHALLENGE (R511). -/
  | challenge (tp : Transport) (bytes : List Byte)
  /-- GET_MEASUREMENTS (R512). -/
  | getMeasurements (tp : Transport) (bytes : List Byte)
  /-- KEY_EXCHANGE (R511). -/
  | keyExchange (tp : Transport) (bytes : List Byte)
  /-- FINISH (R511). -/
  | finish (tp : Transport) (bytes : List Byte)
  /-- END_SESSION (R511). -/
  | endSession (tp : Transport) (bytes : List Byte)
  /-- SPDM_UNSUPPORTED_REQUEST (R511). -/
  | spdmUnsupportedRequest (tp : Transport) (bytes : List Byte) (busy : Bool)
  /-- VE_NOP (R106). -/
  | veNop (v : VeIx) (u : MicroOp)
  /-- LOAD (R104). -/
  | load (v : VeIx) (u : MicroOp)
  /-- STORE (R104). -/
  | store (v : VeIx) (u : MicroOp)
  /-- MOV (R106). -/
  | mov (v : VeIx) (u : MicroOp)
  /-- CONST (R106). -/
  | const (v : VeIx) (u : MicroOp)
  /-- BCAST (R106). -/
  | bcast (v : VeIx) (u : MicroOp)
  /-- IDX (R106). -/
  | idx (v : VeIx) (u : MicroOp)
  /-- ADD (R96). -/
  | add (v : VeIx) (u : MicroOp)
  /-- SUB (R96). -/
  | sub (v : VeIx) (u : MicroOp)
  /-- MUL (R96). -/
  | mul (v : VeIx) (u : MicroOp)
  /-- DIV (R96). -/
  | div (v : VeIx) (u : MicroOp)
  /-- FMA (R106). -/
  | fma (v : VeIx) (u : MicroOp)
  /-- FMS (R106). -/
  | fms (v : VeIx) (u : MicroOp)
  /-- FNMA (R106). -/
  | fnma (v : VeIx) (u : MicroOp)
  /-- SQRT (R106). -/
  | sqrt (v : VeIx) (u : MicroOp)
  /-- RSQRT (R106). -/
  | rsqrt (v : VeIx) (u : MicroOp)
  /-- ABS (R106). -/
  | abs (v : VeIx) (u : MicroOp)
  /-- NEG (R106). -/
  | neg (v : VeIx) (u : MicroOp)
  /-- COPYSIGN (R106). -/
  | copysign (v : VeIx) (u : MicroOp)
  /-- MIN (R106). -/
  | min (v : VeIx) (u : MicroOp)
  /-- MAX (R106). -/
  | max (v : VeIx) (u : MicroOp)
  /-- MINNUM (R106). -/
  | minnum (v : VeIx) (u : MicroOp)
  /-- MAXNUM (R106). -/
  | maxnum (v : VeIx) (u : MicroOp)
  /-- SCALEB (R106). -/
  | scaleb (v : VeIx) (u : MicroOp)
  /-- RINT (R106). -/
  | rint (v : VeIx) (u : MicroOp)
  /-- CMP (R108). -/
  | cmp (v : VeIx) (u : MicroOp)
  /-- SEL (R106). -/
  | sel (v : VeIx) (u : MicroOp)
  /-- EXP (R107). -/
  | exp (v : VeIx) (u : MicroOp)
  /-- EXP2 (R107). -/
  | exp2 (v : VeIx) (u : MicroOp)
  /-- LOG (R107). -/
  | log (v : VeIx) (u : MicroOp)
  /-- LOG2 (R107). -/
  | log2 (v : VeIx) (u : MicroOp)
  /-- SIN (R107). -/
  | sin (v : VeIx) (u : MicroOp)
  /-- COS (R107). -/
  | cos (v : VeIx) (u : MicroOp)
  /-- TANH (R107). -/
  | tanh (v : VeIx) (u : MicroOp)
  /-- SIGMOID (R107). -/
  | sigmoid (v : VeIx) (u : MicroOp)
  /-- ERF (R107). -/
  | erf (v : VeIx) (u : MicroOp)
  /-- IADD (R106). -/
  | iadd (v : VeIx) (u : MicroOp)
  /-- ISUB (R106). -/
  | isub (v : VeIx) (u : MicroOp)
  /-- IMUL (R106). -/
  | imul (v : VeIx) (u : MicroOp)
  /-- AND (R106). -/
  | and (v : VeIx) (u : MicroOp)
  /-- OR (R106). -/
  | or (v : VeIx) (u : MicroOp)
  /-- XOR (R106). -/
  | xor (v : VeIx) (u : MicroOp)
  /-- SHL (R106). -/
  | shl (v : VeIx) (u : MicroOp)
  /-- SHR (R106). -/
  | shr (v : VeIx) (u : MicroOp)
  /-- SAR (R106). -/
  | sar (v : VeIx) (u : MicroOp)
  /-- CVT (R108). -/
  | cvt (v : VeIx) (u : MicroOp)
  /-- RSUM (R110). -/
  | rsum (v : VeIx) (u : MicroOp)
  /-- RMAX (R110). -/
  | rmax (v : VeIx) (u : MicroOp)
  /-- RMIN (R110). -/
  | rmin (v : VeIx) (u : MicroOp)
  /-- RSSQ (R110). -/
  | rssq (v : VeIx) (u : MicroOp)
  /-- RMV (R110). -/
  | rmv (v : VeIx) (u : MicroOp)
  /-- RSMX (R110). -/
  | rsmx (v : VeIx) (u : MicroOp)
  /-- RESET_MINIMUM_ELAPSED (R525). -/
  | resetMinimumElapsed
  /-- INTERNAL_FAULT (R441). -/
  | internalFault
  /-- POOL_FREE_READ (R245). -/
  | poolFreeRead (by_ : Func) (p : Part) (q : Fin 4) (cls : Fin 4)
  /-- CONFIGURATION_REQUEST (R417). -/
  | configurationRequest (w : CfgWrite)
  /-- TAKEOVER_LIGHT_LIST_SWAP (R388). -/
  | takeoverLightListSwap (p : Part)
  /-- YIELD_POINT (R356). -/
  | yieldPoint (eng : EngineId)
  deriving DecidableEq, Repr

end Sys2Proof
end

