-- ==== Sys2Proof/Decode.lean ====
section
/-! DEFINITION. The command that a word of the opcode table spells. The table gives its 237 rows no bits: a
command of this block is not an instruction word but an event at its connectors, in its rings or on its
fabric (assumption 18). -/

namespace Sys2Proof

/-- The rows of the table that give bits: none, so no word spells a command. -/
def decodeTableWord (_nbits _w : Nat) : Option Instr := none

end Sys2Proof
end

