-- ==== Sys2Proof/Machine/State.lean ====
section
/-! DEFINITION. The state of the GV-4800 as plain data, the reasons a step stops, and the state after
reset. Registers live in ONE table keyed by BAR0 offset (R422), which holds only the registers that differ
from their reset value (R8); everything the spec gives the module outside its registers has a field
below. INVENTORY.md lists each with its rule. -/

namespace Sys2Proof.Machine

/-- Reasons a step can stop with a fault: none. The spec gives every command of the block an effect, and an access that
it refuses is answered, logged and counted, so no constructor is needed, which is safe. -/
inductive Fault where
  deriving DecidableEq, Repr

/-- Reasons a step can be refused. -/
inductive Refusal where
  /-- No meaning has been given to the command yet. Raised by arms of `exec` alone; safe. -/
  | notModelled (mnemonic : String)
  deriving DecidableEq, Repr

/-- Check metadata of one 32-byte sector (R248 to R253). `delta` is what the stored check bits differ by
from those the encoder would give the stored data: for HBM the four check symbols 32 to 35 (R249), for the
gallery the 32 parity bits. `poison` holds the gallery's two copies of the poison bit (R253). -/
structure SectorMeta where
  delta  : BitVec 32
  poison : BitVec 2
  deriving DecidableEq, Repr

/-- A 32 KiB granule's version tag (R156) and the fill that is in progress (R157): the version it is being
filled with and which of its 256 lines have been written with it since the tag last became 0xFFFF. `bad` says that the
stored tag fails its parity (R248). -/
structure TagState where
  tag     : BitVec 16
  filling : BitVec 16
  lines   : BitVec 256
  bad     : Bool
  deriving DecidableEq, Repr

/-- The memory of the module: bytes, sector metadata by sector number, tags by granule number. Keys are
local offsets; the spare rows of R261 have keys from 2^48 up. -/
structure Memory where
  cells   : List Host.Cell
  sectors : List (Nat × SectorMeta)
  tags    : List (Nat × TagState)
  deriving DecidableEq, Repr

/-- One set of a partition's cache in a slice (R221): 16 ways, the tree pseudo-LRU bits, and the ways whose line fails
its parity (R253). -/
structure CacheSet where
  ways : List (Option Nat)
  plru : BitVec 15
  bad  : BitVec 16
  deriving DecidableEq, Repr

/-- One tracker entry of a pseudo-channel (R261). -/
structure TrackEntry where
  row     : Nat
  count   : Nat
  written : Bool
  deriving DecidableEq, Repr

/-- A bit error on the on-package network, which the next transfer over it meets (R254): in the payload of one of the
transfer's sectors, or in the header, in one copy or in both. -/
inductive NetHit where
  | payload (sector : Nat)
  | header (both : Bool)
  deriving DecidableEq, Repr

/-- A bit error that strikes a store or a path which byte parity covers (R248): a line in a partition's cache, by its
HBM offset; a granule's version tag; a word of a matrix engine's accumulators, by its place in the tile; a flow context's
half; a transfer over the on-package network. Nothing commands one: the tick brings it (assumption 115). -/
inductive Upset where
  | cached (p a : Nat)
  | tag (granule : Nat)
  | acc (e word : Nat)
  | sendHalf (ctx : Nat)
  | recvHalf (key : Nat)
  | network (hit : NetHit)
  deriving DecidableEq, Repr

/-- The stored data of R248 to R270 beyond bytes and registers. `net` holds the errors that the next transfers over the
on-package network meet, and `netLost` says that a transfer has just lost its header (R254). -/
structure Protection where
  trackers   : List (Nat × List TrackEntry)
  remapFull  : List Nat
  patrolNext : List (Nat × Nat)
  cache      : List (Nat × CacheSet)
  net        : List NetHit
  netLost    : Bool
  deriving DecidableEq, Repr

/-- A record of the event ring (R450) before it is written. -/
structure EventRec where
  code   : Nat
  part   : Option Part
  step   : W32
  time   : W64
  arg0   : W64
  arg1   : W64
  deriving DecidableEq, Repr

/-- What the module sends out at its connectors. -/
inductive Output where
  | msix (f : Func) (vector : Nat)
  | readData (f : Func) (bytes : List Byte) (ep : Bool)
  | completerAbort (f : Func)
  | frame (p : Port) (bytes : List Byte)
  | mctp (tp : Transport) (bytes : List Byte)
  | thermTrip (asserted : Bool)
  deriving DecidableEq, Repr

/-- Phase of a consumed command (R426, R429, R432). -/
inductive Phase where
  | consumed
  | started
  | issued
  | ended
  deriving DecidableEq, Repr

/-- A failure noted against a command: its rank among the command's failures (lower first), the entry it
belongs to, the status and DETAIL (R63, R202, R300). -/
structure Failure where
  rank   : Nat
  index  : Nat
  status : Nat
  detail : W64
  dform  : Bool
  deriving DecidableEq, Repr

/-- A split row block of a tile list that waits to be joined (R92): the scratch slots of its pieces in engine rank
order, the lantern whose VE0 joins them, and the table entry. -/
structure Join where
  rb    : Nat
  slots : List Nat
  lan   : Nat
  entry : Nat × Nat
  deriving DecidableEq, Repr

/-- A command that the module has consumed and not yet completed. `replay` and `layer` say that it is re-issued by a
step or a layer replay, by a layer replay; `left` and `got` hold how many pieces of a copy to the host are still to
come, and those that have come, with their status. -/
structure Cmd where
  id      : CmdId
  words   : List W64
  phase   : Phase
  replay  : Bool
  energy  : Nat
  flags   : BitVec 5
  pending : Nat
  left    : Nat
  fails   : List Failure
  status  : Nat
  detail  : W64
  dform   : Bool
  slots   : List Nat
  layer   : Bool
  got     : List (Nat × Nat × List (Byte × Bool))
  joins   : List Join
  deriving DecidableEq, Repr

/-- A STEP_PLAN in force (R436). -/
structure Plan where
  step     : W32
  planId   : W32
  seed     : W64
  absurd   : W32
  clip     : W32
  ptr      : Nat
  bytes    : Nat
  versions : List (Nat × BitVec 16)
  deriving DecidableEq, Repr

/-- A valid STEP_PLAN that waits for the close of the step before it (R129, R436): whether it is re-issued by a replay,
the plan, its pool counts, and its command. -/
structure Closing where
  replay : Bool
  plan   : Plan
  counts : List Nat
  cmd    : CmdId
  deriving DecidableEq, Repr

/-- A gate outcome of the step in force (R138): outcome code, g, factor, the bits of S and the ring
sequence of the UPDATE_GATE that reached it. -/
structure GateRes where
  outcome : Nat
  g       : W32
  factor  : W32
  s       : W32
  seq     : W32
  deriving DecidableEq, Repr

/-- One partition's job beyond CMD_JOB_STATE (R442), with what its step has gathered: `marked` are the commands
issued from the latest mark on, `drain` the tripped LAYER slots of a layer replay that waits for the running
commands, `tripSeq` the last command that tripped one, `tripped` the slots above their threshold (R130, R131). -/
structure Job where
  holdByHost : Bool
  plan       : Option Plan
  closing    : Option Closing
  heldPlan   : Option Closing
  gate       : Option GateRes
  stepTrip   : Bool
  replayTry  : Bool
  marked     : List (List W64)
  overLimit  : Bool
  drain      : List Nat
  tripSeq    : Option W32
  tripped    : List Nat
  stepStart  : Nat
  waitStart  : List Nat
  poolSeen   : List Nat
  slotTabs   : List Nat
  lastPlan   : Option Plan
  lastGate   : W64
  lastNorm   : W64
  lastWait   : List Nat
  deriving DecidableEq, Repr

/-- One row block of a tile list on an engine (R89 to R92): the row block, its reduction blocks with their list
positions, how many of the row block's tiles come before these, how many it has in all, and the scratch slot for the
piece (none where the engine has the whole row block). -/
structure TilePiece where
  rb     : Nat
  js     : List (Nat × Nat)
  before : Nat
  total  : Nat
  slot   : Option Nat
  deriving DecidableEq, Repr

/-- A work item of a matrix engine (R76, R91): its command, its table entries by index with their 128 bytes as the
command controller read them (one, or the up to four of a QUAD group), output block, first row and rows of its chunk,
for a tile list its pieces, and the passes it had run when it yielded its engine (R356). -/
structure Item where
  cmd     : CmdId
  entries : List (Nat × Nat)
  ob      : Nat
  row0    : Nat
  rows    : Nat
  pieces  : List TilePiece
  start   : Nat
  deriving DecidableEq, Repr

/-- A matrix engine (chapter 03) beyond its registers: its items, the next pass of the front one, the active and the
shadow block with their scales (R41, R56), the accumulator words of the tile that goes on (R47), its words that fail
parity with whether a pass has met them (R248), its rounding mode (R50), the quadrants of a QUAD group that have ended
(R79), the lines of a remote block that have arrived with their tags, how many are still to come, what failed of them, and
while the engine waits for a version (R158) the DETAIL that its timeout would give. -/
structure MeState where
  queue   : List Item
  pass    : Nat
  active  : List Byte
  shadow  : List Byte
  acc     : List W32
  accBad  : List (Nat × Bool)
  mode    : Nat
  ended   : List Nat
  lines   : List (Nat × List (Byte × Bool) × BitVec 16)
  asked   : Nat
  fail    : Option (Nat × Nat)
  waiting : Option Nat
  deriving DecidableEq, Repr

/-- A stream descriptor of a micro-op list (R101). -/
structure VStream where
  ptr    : W64
  stride : Nat
  fmt    : Nat
  mode   : Nat
  out    : Bool
  inf    : Bool
  amax   : Bool
  rsvd   : Nat
  slot   : Nat
  scPtr  : W64
  deriving DecidableEq, Repr

/-- The header of a micro-op list (R100). -/
structure VHeader where
  n       : Nat
  seg     : Nat
  ops     : Nat
  rnd     : Nat
  update  : Bool
  stream  : Nat
  redPtr  : W64
  redInit : BitVec 8
  idxBase : W64
  streams : List VStream
  consts  : List W32
  rsvd    : Bool
  deriving DecidableEq, Repr

/-- One leaf a reduction op has contributed (R109, R110). -/
structure Leaf where
  acc : Nat
  op  : Nat
  fp64 : Bool
  v   : W64
  w   : W64
  n   : Nat
  deriving DecidableEq, Repr

/-- A STORE to a G4 stream that waits for the rest of its 32-element block (R112): the stream, the segment,
the position in the segment, the register value, whether it is FP64, the rounding code and the random value, and the
list position of the STORE. -/
structure G4Store where
  stream : Nat
  segm   : Nat
  pos    : Nat
  v      : W64
  fp64   : Bool
  mode   : Nat
  r      : Nat
  op     : Nat
  deriving DecidableEq, Repr

/-- The lane context a vector engine holds: the sixteen registers of the element in hand with their poison
marks, each with its sector's offset (R103, R112), the element index, segment and position, the list position, the list header, the
flags raised, the leaves of the segment so far, the value that each stream's last LOAD of this iteration decoded (none for
a NaN or an infinity) and the drift samples by slot and tensor index (R142), the G4 stores that wait for their block, whether an op consumed poison (and the sector's
offset), and whether a stream address was refused (and the first byte). -/
structure Lane where
  regs   : Vector W64 16
  marks  : List (Nat × Nat)
  elem   : Nat
  segm   : Nat
  pos    : Nat
  opIx   : Nat
  hdr    : VHeader
  part   : Part
  flags  : BitVec 5
  leaves : List Leaf
  loaded : List (Nat × Option Rat)
  drift  : List (Nat × Nat × Option Rat)
  g4     : List G4Store
  bitten : Option Nat
  refused : Option Nat
  deriving DecidableEq, Repr

/-- A gradient channel's work (R297 to R300): one entry of a REDUCE_SCATTER descriptor as the command controller read
it (`ix` its number, `table` the shard's table entry, `out` the owner's incoming slot by queue slot and offset), its
next chunk, the running token count with its poison, whether poison has bitten, and the chunks' shares of the sum of
squares. -/
structure GcEntry where
  cmd      : CmdId
  ix       : Nat
  table    : Nat
  shard    : W32
  step     : W32
  sr       : Bool
  pos      : Nat
  len      : Nat
  elements : Nat
  acc      : Nat
  chain    : Nat
  stage    : Nat
  stream   : Nat
  count    : Option Nat
  ssq      : Nat
  out      : Nat × Nat
  next     : Nat
  poisoned : Bool
  squares  : List (Nat × Nat)
  deriving DecidableEq, Repr

/-- A GCOMMIT that has arrived (R544). -/
structure GArrival where
  part    : Part
  shard   : W32
  step    : W32
  chunk   : Nat
  count   : Nat
  tokens  : Nat
  last    : Bool
  tpoison : Bool
  deriving DecidableEq, Repr

/-- A parcel waiting in a pool-0 buffer (R191, R192). -/
structure Parcel where
  part   : Part
  exchId : W32
  buf    : Nat
  bytes  : Nat
  deriving DecidableEq, Repr

/-- A row that a return has received (R194, R197): where it lay in its parcel's buffer, its format and tensor scale,
and its bytes with their poison marks. -/
structure ExRow where
  at_   : Nat
  fmt   : Nat
  sigma : Int
  data  : List (Byte × Bool)
  deriving DecidableEq, Repr

/-- An open exchange direction at this module (R191 to R204): the command that opened it and the plan, the
descriptor's offset, the streams still missing, those that have arrived, the returned rows by 8 × slot + rank, and
the rows packed so far in each local slot. -/
structure Exch where
  part    : Part
  exchId  : W32
  plan    : W32
  dir     : Fin 4
  cmd     : CmdId
  desc    : Nat
  missing : List StreamId
  arrived : List StreamId
  rows    : List (Nat × ExRow)
  fill    : List Nat
  deriving DecidableEq, Repr

/-- An exchange send under way (R296): the parcel's bytes and where it goes. -/
structure XSend where
  part    : Part
  cmd     : CmdId
  st      : StreamId
  node    : Node
  cls     : Fin 4
  exchId  : W32
  data    : List Byte
  poison  : List Bool
  buf     : Option Nat
  stripe  : Nat
  deriving DecidableEq, Repr

/-- What becomes of a fabric operation's result at the source: nothing; bytes to a local offset or a global
address; a line of a multicast run; a line of LOAD_WEIGHTS; bytes of a matrix engine's stationary block; host memory; a step
of an exchange send; a store of a gradient chunk; a Keeper request; the end of a send half; a multicast repair;
a member's answer to MFLUSH; the presence bit of a split reduction's slot; bytes or a line of a version that the Keeper
pulls; a store of a mirror record returned to its owner. -/
inductive Cont where
  | none
  | toLocal (addr : Nat)
  | toRemote (addr : W64)
  | toHost
  | mcData (run ix : Nat)
  | weight (shard : Nat) (ver : BitVec 16) (addr : Nat)
  | meLoad (e pos : Nat)
  | xalloc (send : Nat)
  | xstore (send : Nat)
  | xcommit (send : Nat)
  | chunk (ch : Nat)
  | kctl
  | closeHalf
  | repair (run : Nat)
  | mflush (run : Nat)
  | presence
  | pull (addr : Nat)
  | pullLine (ver : BitVec 16) (addr : Nat)
  | restore (id : Nat)
  deriving DecidableEq, Repr

/-- A request waiting to be issued, or outstanding (R280, R284, R287): the packet, the command it works for
if any and its place in the command's issue order, what its result is for, the stripe it must use, how often it
has been resent, its consecutive bounces, and whether it waits out a bounce. -/
structure Req where
  pk      : Packet
  cmd     : Option CmdId
  ix      : Nat
  cont    : Cont
  lantern : Lan
  stripe  : Option Nat
  resends : Nat
  bounces : Nat
  backoff : Bool
  deriving DecidableEq, Repr

/-- A send half's life (R277); `reopening` is LOST with a write of FAB_REOPEN waiting for its last outstanding
request (R290). -/
inductive SendLife where
  | open_
  | closing
  | lost
  | reopening
  | broken
  deriving DecidableEq, Repr

/-- A send half (R277, R332). `recent` holds the sequences of its last four FETCH and XALLOC requests, in order (R282);
`used` is MOD_TIME when its latest request was issued or ended (R279), `bad` says that its entry fails parity (R291). -/
structure SendHalf where
  node   : Node
  tc     : Fin 4
  part   : Part
  stripe : Nat
  next   : BitVec 24
  oldest : BitVec 24
  out    : BitVec 64
  win    : Nat
  rpend  : Nat
  recent : List (BitVec 24)
  life   : SendLife
  credit : Nat
  hold   : Option (BitVec 24)
  used   : Nat
  bad    : Bool
  deriving DecidableEq, Repr

/-- A retained reply of a receive half, its poison marks kept (R256, R282). -/
structure Retained where
  seq  : BitVec 24
  code : BitVec 4
  data : List (Byte × Bool)
  deriving DecidableEq, Repr

/-- A receive half (R277): keyed in its table by source node x 2^20 + the source's half number. `low` is the
oldest sequence it still keeps count of, `codes` the answers that R282 repeats, `held` the commits that wait for
lower sequences (R296), `bad` says that its entry fails parity (R291). -/
structure RecvHalf where
  low     : BitVec 24
  top     : BitVec 24
  map     : BitVec 64
  replies : List Retained
  broken  : Bool
  codes   : List Retained
  held    : List Packet
  bad     : Bool
  deriving DecidableEq, Repr

/-- A packet at an injection port: the packet, and the slots a multicast packet has waited at its head
(R345). -/
structure InjPkt where
  pk   : Packet
  wait : Nat
  deriving DecidableEq, Repr

/-- A multicast run at its source (R293 to R295): its number, the group, the partition, the class, the command and
the run's place in it, the lantern that sends it, the data packets (each with whether its data has been read), whether
they have been sent, the members that owe an answer, the repair requests outstanding, and the members declared
lost. -/
structure McRun where
  id       : Nat
  grp      : BitVec 14
  part     : Part
  tc       : Fin 4
  cmd      : Option CmdId
  ix       : Nat
  lantern  : Lan
  data     : List (Bool × Packet)
  sent     : Bool
  members  : List Node
  repairs  : Nat
  lost     : List Node
  deriving DecidableEq, Repr

/-- A member's receive half of a multicast group (R294). -/
structure McRecv where
  src    : Node
  grp    : BitVec 14
  part   : Part
  count  : Nat
  answer : Option (BitVec 24 × Bool × Nat)
  flush  : Option Packet
  deriving DecidableEq, Repr

/-- A fabric port beyond its registers (R318 to R320): the transmit slots since its last LINK frame, whether
training has completed, whether the peer reports ready, whether its LINK frame is forced in the next slot; the frames
received since the last LINK frame, and how long ago, in frames, the latest ones that could not be corrected came; whether
one has come in the port's clean second; and the cause for which it leaves UP at the next slot boundary. -/
structure PortState where
  run       : Nat
  trained   : Bool
  peerReady : Bool
  forced    : Bool
  sinceLink : Nat
  errors    : List Nat
  dirty     : Bool
  leaving   : Option Nat
  deriving DecidableEq, Repr

/-- The fabric dies' state beyond registers and ports. `lostTo` holds the nodes declared lost in a partition (R288). -/
structure Fabric where
  slot      : Nat
  ports     : List (Nat × PortState)
  send      : List (Nat × SendHalf)
  recv      : List (Nat × RecvHalf)
  waiting   : List Req
  flying    : List Req
  injq      : List (Nat × List InjPkt)
  ejq       : List (Nat × List Packet)
  lastInj   : Nat
  mcRuns    : List McRun
  mcRecv    : List McRecv
  nextRun   : Nat
  nextLocal : Nat
  lostTo    : List (Node × Part)
  deriving DecidableEq, Repr

/-- What a watched node's latest heartbeat said (R382, R407). -/
structure Watched where
  node      : Node
  state     : Nat
  tray      : Nat
  committed : W32
  current   : Bool
  deriving DecidableEq, Repr

/-- A probe of a suspect under way (R384): who asked for it (none: this module confirms), and the answers so
far. -/
structure ProbeRun where
  node     : Node
  relayFor : Option Packet
  answers  : List Nat
  deriving DecidableEq, Repr

/-- A recovery that this module coordinates (`mine`) or takes part in (R385 to R394, R405): the lost node, or 0xFFFF in a
hold without a loss; the coordinator; whether this module owes HELD_ACK; the cause and the poisoned sector; the taker and
whether it is a spare; whether TAKE has been sent; the members heard from, the lowest uncommitted step and the GATE records
they gave; the takeover route still to be installed (true: the spare's); whether the swap and the spare's join are done,
the last sequence of the journal that the spare pulled, and a spare that the coordinator has dropped. -/
structure Takeover where
  lost      : Node
  coord     : Node
  mine      : Bool
  owed      : Bool
  cause     : Nat
  sector    : Option W64
  taker     : Node
  spare     : Bool
  sent      : Bool
  acks      : List Node
  low       : Option W32
  gates     : List (W32 × List Byte)
  route     : Option Bool
  swapDone  : Bool
  spareDone : Bool
  seq       : W32
  dropped   : Option Node
  deriving DecidableEq, Repr

/-- What a spare pulls before SPARE_READY (R391), or a module restores before it replays (R405): the lost node (0xFFFF
in a restoration), where it pulls from, the step once it is known, the stage, the replies still to come and whether one
failed, the versions still to load by shard entry, the group position tried, and whether the front version has been asked
for. -/
structure Pull where
  lost  : Node
  src   : Node
  step  : Option W32
  stage : Nat
  left  : Nat
  bad   : Bool
  todo  : List (Nat × BitVec 16)
  pos   : Nat
  asked : Bool
  seq   : W32
  deriving DecidableEq, Repr

/-- A committed mirror record of an owner, as its partner or a taker knows it (R378, R379): the shard, the step and the
version it names, and its items' offsets and lengths. -/
structure MirRec where
  owner : Node
  shard : Nat
  step  : W32
  ver   : BitVec 16
  items : List (Nat × Nat)
  deriving DecidableEq, Repr

/-- A notice to the Keeper controller that it has not answered yet: poison that a block consumed in a step (R258), a
fault of an update program (R168), an error of a path or a flow context (R254, R291), a node declared lost (R288). -/
inductive Notice where
  | poison (step : W32) (blk : Nat) (sector : W64)
  | update (shard : Nat) (sector : W64)
  | datapath
  | lost (node : Node)
  deriving DecidableEq, Repr

/-- One partition's Keeper state beyond its registers: recoveries, the steps their owners reported to this partner, a
release that waits for another recovery (R394) and whether one of them asks for a new plan, the spare's pull, the mirror
stream (each record with the half of the staging area that it has gone to; what the committed records of each shard held, by
offset, and the partner they stand at), the journal (`jLost` are the steps of which a record was not written, R397), the slow-member records with the slow
evaluations in a row, the replay, and the notices with the bites already answered (R405). -/
structure KeeperPart where
  takeovers  : List Takeover
  ownerSteps : List (Nat × W32)
  release    : Option (W32 × Nat)
  replan     : Bool
  pull       : Option Pull
  sendRecs   : List (W32 × W32 × List (Byte × Bool) × Option Nat)
  mirHeld    : List (Nat × List (Nat × List (Byte × Bool)))
  mirAt      : Option Nat
  recDone    : List (Nat × W32)
  sendStep   : Option W32
  skipped    : Option W32
  mirrored   : List MirRec
  jHead      : Nat
  jCount     : Nat
  seqHi      : Nat
  jSteps     : List (W32 × Nat)
  jRecs      : List (Nat × Nat)
  jLost      : List W32
  slow       : List (W32 × Node × Nat)
  slowRun    : Nat
  slowOwn    : List (W32 × Bool)
  replayRecs : List Nat
  replayGate : Option (List Byte)
  replayStep : Option W32
  diag       : Bool
  notices    : List Notice
  answered   : List (W32 × W64)
  mirrorLost : Bool
  sameTray   : Bool
  retireAck  : Bool
  deriving DecidableEq, Repr

/-- The Keeper controller's module-wide state: what watched nodes last said, probes under way, the nodes known to be
lost, the node for which this module answers as its partner (R393), and the mirror records being returned to owners with
the stores still to end and the result so far. -/
structure Keeper where
  watched : List Watched
  probes  : List ProbeRun
  gone    : List Node
  served  : Option Node
  restores : List (Nat × Packet × Nat × Nat)
  parts   : List (Nat × KeeperPart)
  deriving DecidableEq, Repr

/-- The power controller's state beyond its registers (R472, R477, R480, R481). -/
structure Power where
  inputs    : List Nat
  stretched : List Island
  calRun    : Nat
  backstopT : Option Nat
  thermalT  : Option Nat
  inRange   : Bool
  powerCmd  : Option CmdId
  deriving DecidableEq, Repr

/-- A section of firmware loaded into a target's program memory (R501, R503). -/
structure Program where
  target : Nat
  load   : Nat
  bytes  : List Byte
  deriving DecidableEq, Repr

/-- The boot ROM's public keys and its own digest, which the spec gives no values (R499, R501, R512). -/
structure Rom where
  daymarkKeys : List Nat
  fwKeys      : List Nat
  digest      : List Byte
  deriving DecidableEq, Repr

/-- A valid boot control record (R505): which of the two it is, its sequence number, MIN_SVN, REVOKED, PREFER. -/
structure BootRec where
  place   : Nat
  seq     : Nat
  minSvn  : Nat
  revoked : Nat
  prefer  : Nat
  deriving DecidableEq, Repr

/-- The boot block's state beyond its registers: the flashes (R492) with the valid boot control records (R505), the ROM,
the key store (R509), the fingerprint region not read yet, the programs loaded and locked, the running image's header,
the measurements (R512), whether the latest reset was a power-on reset, whether 100 ms have passed since RESET was
entered (R525), whether the management program is loaded (R497), and the slot and image of an update under way (R507). -/
structure Boot where
  idFlash   : List Host.Cell
  fwFlash   : List Host.Cell
  records   : List BootRec
  rom       : Rom
  keyStore  : Option (List Byte)
  finger    : List Byte
  programs  : List Program
  runHeader : List Byte
  meas      : List (Nat × List Byte)
  powerOn   : Bool
  minDone   : Bool
  mgmt      : Bool
  updSlot   : Option Nat
  updImage  : List Byte
  deriving DecidableEq, Repr

/-- A management endpoint's state on one transport (R454, R511): its endpoint ID, whether it has subscribed to events,
the SPDM negotiation so far (1 version, 2 capabilities, 3 algorithms), the secure session (0 none, 1 keys exchanged, 2
established), and the messages since the version was asked for. -/
structure Mgmt where
  eid        : Nat
  subscribed : Bool
  stage      : Nat
  session    : Nat
  transcript : List Byte
  deriving DecidableEq, Repr

/-- The levels at the module's sideband and power inputs (R521, R533). -/
structure Pins where
  powered   : Bool
  perst     : Bool
  coolantOk : Bool
  trayId    : Nat
  slotId    : Nat
  deriving DecidableEq, Repr

/-- A PCI Express function's state (R417, R418). -/
structure FuncState where
  d3hot  : Bool
  bar2   : Nat
  msixEn : Bool
  msixMask : Bool
  evArm  : Bool
  evLost : Nat
  deriving DecidableEq, Repr

/-- A buffer pool beyond its registers (R235, R240, R241): the COUNT in force of each class, the classes that
give no buffer until the next INIT, an INIT in progress with its layout's verdict, and whether a write of COUNT
waits to be applied. -/
structure PoolState where
  live   : List Nat
  broken : List Nat
  init   : Option Bool
  pend   : Bool
  deriving DecidableEq, Repr

/-- The whole module, and the queue of commands that wait. `recTypes` holds, by the local offset of a reduction record,
the op that made it and whether in FP64 (R113: a record's type is that of its list); `timeSub` and
`meSub` are the parts of a nanosecond and of a matrix-engine cycle that have passed, in millionths and thousandths, `ppsErr`
the error that MOD_TIME still has to slew out, in millionths of a nanosecond (R537); `chainIn` the running records of
a chain that a contributor holds until its own are ready (R116); `yielded` the engines that TENDER commands have given up and
resume (R356). -/
structure State where
  pending  : List Instr
  regs     : List (Nat × W64)
  mem      : Memory
  prot     : Protection
  hostMem  : List Host.Cell
  out      : List Output
  heldEv   : List EventRec
  heldLost : Nat
  evOpen   : Bool
  funcs    : List (Nat × FuncState)
  vfEnable : Bool
  jobs     : List (Nat × Job)
  cmds     : List Cmd
  mes      : List (Nat × MeState)
  lanes    : List (Nat × Lane)
  holders  : List (Nat × CmdId)
  grants   : List (Nat × Nat)
  yielded  : List (Nat × CmdId)
  gcs      : List (Nat × List GcEntry)
  gcIn     : List GArrival
  exchs    : List Exch
  exchDone : List (Part × W32 × W32 × Fin 4)
  parcels  : List Parcel
  xallocs  : List (Nat × Nat)
  xsends   : List (Nat × XSend)
  recTypes : List (Nat × Nat)
  chainIn  : List (CmdId × Nat × List (List (Byte × Bool)))
  changes  : List (RegionId × W32)
  pools    : List (Nat × PoolState)
  buckets  : List (Nat × Nat)
  rgLast   : List (Nat × Nat)
  fabric   : Fabric
  keeper   : Keeper
  power    : Power
  boot     : Boot
  mgmt     : List (Nat × Mgmt)
  pins     : Pins
  timeSub  : Nat
  meSub    : Nat
  ppsErr   : Int
  deriving DecidableEq, Repr

/-- Memory with nothing written: every byte reads 0 with correct check bits (R218, R493), every tag reads
0xFFFF (R156). -/
def Memory.reset : Memory := ⟨[], [], []⟩

/-- The fabric dies right after reset: no flow context open, every queue empty. -/
def Fabric.reset : Fabric :=
  { slot := 0, ports := [], send := [], recv := [], waiting := [], flying := [], injq := [], ejq := [],
    lastInj := 7, mcRuns := [], mcRecv := [], nextRun := 0, nextLocal := 0, lostTo := [] }

/-- The power controller right after reset. -/
def Power.reset : Power :=
  { inputs := [], stretched := [], calRun := 0, backstopT := none, thermalT := none, inRange := true,
    powerCmd := none }

/-- The boot block right after reset, with empty flashes and no key in the ROM: the spec gives neither
contents (assumption 5, DESIGN CHOICE). -/
def Boot.reset : Boot :=
  { idFlash := [], fwFlash := [], records := [], rom := ⟨[], [], []⟩, keyStore := none, finger := [], programs := [],
    runHeader := [], meas := [], powerOn := true, minDone := false, mgmt := false, updSlot := none, updImage := [] }

/-- The module right after it has entered RESET from OFF (R8, R440, R441): every register at its reset
value, memory with nothing listed, PERST_N still asserted (R525), coolant flowing. -/
def State.reset : State :=
  { pending := [], regs := [], mem := Memory.reset, prot := ⟨[], [], [], [], [], false⟩, hostMem := [], out := [],
    heldEv := [], heldLost := 0, evOpen := false, funcs := [], vfEnable := false, jobs := [], cmds := [], mes := [],
    lanes := [], holders := [], grants := [], yielded := [], gcs := [], gcIn := [], exchs := [], exchDone := [],
    parcels := [], xallocs := [], xsends := [], recTypes := [], chainIn := [], changes := [], pools := [], buckets := [], rgLast := [],
    fabric := Fabric.reset, keeper := ⟨[], [], [], none, [], []⟩, power := Power.reset, boot := Boot.reset, mgmt := [],
    pins := { powered := true, perst := true, coolantOk := true, trayId := 0, slotId := 0 },
    timeSub := 0, meSub := 0, ppsErr := 0 }

end Sys2Proof.Machine
end

