-- ==== Sys2Proof/Config.lean ====
section
/-! DEFINITION. What one implementation fixes and the spec does not state, and the free values: constants
with no body, so that a statement holds whatever they are. -/

namespace Sys2Proof.Config

/-- A free value: the RSASSA signature that the attestation key in the given key store makes over given
bytes (R509, R511). The spec gives no key (assumption 50, DESIGN CHOICE). -/
opaque attestSign : List Byte → List Byte → List Byte

/-- A free value: the attestation private key that the fuzzy extractor and AES-GCM unwrapping give for a fingerprint and
the ATTEST section: the key, or the way it fails, 1 for the extraction and 2 for the tag (R509, R510, R513; assumption
50). -/
opaque attestUnwrap : List Byte → List Byte → Nat × List Byte

/-- A free value: the bytes of a management answer that the spec leaves to a published standard, by the
transport's message type, the request and the number of answers sent (R454, R455; assumption 51). -/
opaque mgmtAnswer : Nat → List Byte → Nat → List Byte

/-- A free value: what a vendor-defined management request asks for (R454 names the uses and gives no format): a
register's offset and how many registers follow, or a subscription to events (assumption 51). -/
opaque vendorRead : List Byte → Option (Nat × Nat)

/-- A free value: a vendor-defined management request asks for events, or no longer (assumption 51). -/
opaque vendorSubscribe : List Byte → Option Bool

/-- A free value: what a daymark's THERMAL section gives for DIE_TRIP (false) or HBM_TRIP (true), in °C: the default (false) or
the maximum (true). R499 names both and gives the section no layout (R478, R487; assumption 66). -/
opaque tripOf : List Byte → Bool → Bool → Nat

/-- A free value: the members of a multicast group as the module that sends to it expects them to answer, by the
group and the run (R294 says that the source expects an answer from every member; no register lists them:
assumption 7). -/
opaque groupMembers : Nat → Nat → List (BitVec 16)

/-- A free value: the bits under the poison mark of data that a lost target never sent, by byte offset (R288 gives
the mark and no bits; assumption 26). -/
opaque lostByte : Nat → Byte

/-- A free value: the code of an integer element that DMA_CONVERT stores, by the destination's and the source's format
codes, ROUND, the exponents of the two scale slots and the source's code (R28, R439: the conversion procedure has no integer
destination; assumption 61). -/
opaque dmaInteger : Nat → Nat → Nat → Int → Int → Nat → Nat

/-- A free value: the reduction op and the precision of a record that no list has written, by its local offset (R113
says that the types are those of the contributing lists; assumption 62). -/
opaque recordType : Nat → Nat

/-- A free value: KPR_MIR.STAGE_BASE at a mirror partner for an owner, by the partner's node, the partition and the
owner's node. R379 has the owner stream there, and no rule tells the owner the partner's register (assumption 64). -/
opaque stageBase : Nat → Nat → Nat → Nat

/-- A free value: KPR_MIR.STAGE_BYTES at a mirror partner for an owner, by the same (R379; assumption 64). -/
opaque stageBytes : Nat → Nat → Nat → Nat

/-- A free value: the code of a consuming block in EV_POISON_CONSUMED (R258 names the block and gives no code; assumption 24). -/
opaque blockCode : Nat → Nat

/-- A free value: DRIFT_MAX (false) and DRIFT_SUM (true) of an update that a NaN or an infinity has sampled, by slot and
sample count (R142 states the drift of finite values; assumption 121). -/
opaque driftOpen : Bool → Nat → Nat → Nat

/-- A free value: the bit error that strikes the module at a MOD_TIME, if one does (R248; assumption 115). -/
opaque upset : Nat → Option Machine.Upset

end Sys2Proof.Config
end

