-- ==== Sys2Proof/Machine/Codes.lean ====
section
/-! DEFINITION. The codes that protect stored and moving data, as arithmetic on numbers: GF(2^8) (R250), the
HBM symbol code (R250, R251), the link code (R315), the packet check CRC-32C (R322), and the byte order of
R3. -/

namespace Sys2Proof.Machine

/-- The value of bytes, least significant first (R3). -/
def leNat : List Byte → Nat
  | [] => 0
  | b :: t => b.toNat + 256 * leNat t

/-- The `n` low bytes of a value, least significant first (R3). -/
def natLe : Nat → Nat → List Byte
  | 0, _ => []
  | n + 1, v => BitVec.ofNat 8 v :: natLe n (v / 256)

/-- Bits [hi:lo] of a number (R2). -/
def bitsOf (v hi lo : Nat) : Nat := (v >>> lo) % 2 ^ (hi + 1 - lo)

/-- One bit of a number. -/
def bitOf (v i : Nat) : Bool := (v >>> i) % 2 = 1

/-- A number with its bits [hi:lo] replaced by the low bits of `x`. -/
def setBits (v hi lo x : Nat) : Nat :=
  v - (bitsOf v hi lo) * 2 ^ lo + (x % 2 ^ (hi + 1 - lo)) * 2 ^ lo

/-- Multiplication by α = 0x02 in the field of R250. -/
def gfX (a : Nat) : Nat := if a < 128 then 2 * a else (2 * a) ^^^ 0x11D

/-- The product of two field elements: Horner over the bits of `b`, highest first. -/
def gfMulAux : Nat → Nat → Nat → Nat → Nat
  | 0, _, _, acc => acc
  | k + 1, a, b, acc => gfMulAux k a b (gfX acc ^^^ (if bitOf b k then a else 0))

/-- Multiplication in GF(2^8) with x^8 + x^4 + x^3 + x^2 + 1 (R250). -/
def gfMul (a b : Nat) : Nat := gfMulAux 8 a b 0

/-- α^k (R250). -/
def gfPow : Nat → Nat
  | 0 => 1
  | k + 1 => gfX (gfPow k)

/-- The value at `x` of the polynomial whose coefficients are listed highest first. -/
def gfEval (x : Nat) (cs : List Nat) : Nat := cs.foldl (fun a c => gfMul a x ^^^ c) 0

/-- g(x) with the roots α^0 to α^(r-1), coefficients highest first. -/
def rsGen : Nat → List Nat
  | 0 => [1]
  | r + 1 =>
    let g := rsGen r
    let a := gfPow r
    (List.zipWith (· ^^^ ·) (g ++ [0]) (0 :: g.map (gfMul a)))

/-- The check symbols of a systematic Reed-Solomon code (R250, R315): the remainder of (m(x) x^r) ÷ g(x). -/
def rsCheck (r : Nat) (msg : List Nat) : List Nat :=
  let g := (rsGen r).tail
  msg.foldl (fun rem m =>
    let lead := m ^^^ rem.headD 0
    List.zipWith (· ^^^ ·) (rem.tail ++ [0]) (g.map (gfMul lead))) (List.replicate r 0)

/-- The syndromes S_0 to S_(r-1) of a codeword (R250). -/
def rsSyndromes (r : Nat) (cw : List Nat) : List Nat := (List.range r).map fun j => gfEval (gfPow j) cw

/-- The syndromes that one bad symbol makes: value `e` at the coefficient of x^d. -/
def oneSymbol (r e d : Nat) : List Nat := (List.range r).map fun j => gfMul e (gfPow (j * d % 255))

/-- The bad symbol (position of 36, error value) whose syndromes these are, if one alone makes them. -/
def oneBad (syn : List Nat) : Option (Nat × Nat) :=
  let e0 := syn.headD 0
  if e0 = 0 then none
  else ((List.range 36).find? fun i => decide (oneSymbol 4 e0 (35 - i) = syn)).map fun i => (i, e0)

/-- The syndromes of a sector whose check symbols 32 to 35 differ by the bytes of `delta` from those of its
data: the code is linear, so only the difference matters. -/
def deltaSyndromes (delta : BitVec 32) : List Nat :=
  rsSyndromes 4 (List.replicate 32 0 ++ (natLe 4 delta.toNat).map BitVec.toNat)

/-- The poison pattern: check symbols 34 and 35 each XORed with 0xFF (R251). -/
def poisonDelta : BitVec 32 := 0xFFFF0000#32

/-- How the HBM decoder classes a burst (R251). -/
inductive EccClass where
  | clean
  | corrected (symbol err : Nat)
  | poisoned
  | poisonedCorrected (symbol err : Nat)
  | uncorrectable
  deriving DecidableEq, Repr

/-- The class of a burst by its syndromes (R251). -/
def eccClass (delta : BitVec 32) : EccClass :=
  if delta = 0#32 then .clean
  else if delta = poisonDelta then .poisoned
  else
    let syn := deltaSyndromes delta
    match oneBad syn with
    | some (i, e) => .corrected i e
    | none =>
      match oneBad (List.zipWith (· ^^^ ·) syn (deltaSyndromes poisonDelta)) with
      | some (i, e) => .poisonedCorrected i e
      | none => .uncorrectable

/-- The check symbols 32 to 35 of 32 data bytes as a word, byte j being symbol 32 + j (R250, R263). -/
def eccCheck (data : List Byte) : BitVec 32 :=
  BitVec.ofNat 32 (leNat ((rsCheck 4 (data.map BitVec.toNat)).map (BitVec.ofNat 8)))

/-- The parity bits of 32 bytes, bit i the (even) parity of byte i (R253, R263). -/
def parityBits (data : List Byte) : BitVec 32 :=
  let ps := data.map fun b => (List.range 8).foldl (fun a i => a ^^ b.getLsbD i) false
  BitVec.ofNat 32 (ps.zipIdx.foldl (fun a (p, i) => if p then a + 2 ^ i else a) 0)

/-- Coefficients of an error locator, by Berlekamp-Massey over the syndromes: the state is
(C, B, L, m, b) with polynomials lowest coefficient first. -/
def bmStep (syn : List Nat) (st : List Nat × List Nat × Nat × Nat × Nat) (n : Nat) :
    List Nat × List Nat × Nat × Nat × Nat :=
  let (c, b, l, m, bb) := st
  let d := (List.range (l + 1)).foldl (fun a i => a ^^^ gfMul (c.getD i 0) (syn.getD (n - i) 0)) 0
  if d = 0 then (c, b, l, m + 1, bb)
  else
    let inv := ((List.range 255).find? fun k => gfMul bb (gfPow k) = 1).getD 0
    let f := gfMul d (gfPow inv)
    let sh := List.replicate m 0 ++ b.map (gfMul f)
    let len := Nat.max c.length sh.length
    let c' := (List.range len).map fun i => c.getD i 0 ^^^ sh.getD i 0
    if 2 * l ≤ n then (c', c, n + 1 - l, 1, d) else (c', b, l, m + 1, bb)

/-- The error locator of eight syndromes and its degree. -/
def errLocator (syn : List Nat) : List Nat × Nat :=
  let (c, _, l, _, _) := (List.range 8).foldl (bmStep syn) ([1], [1], 0, 1, 1)
  (c, l)

/-- Solve for the error values at the given coefficient positions: Gaussian elimination over the field is
replaced by trying the linear system's unique solution position by position (Forney's rule in Lagrange
form): the error at position d is the sum over j of the coefficients of the product of (x - X_k), k ≠ d,
times S_j, divided by that product at X_d. -/
def errValue (syn : List Nat) (xs : List Nat) (x : Nat) : Nat :=
  let others := xs.filter (· != x)
  let poly := others.foldl (fun p r =>
    List.zipWith (· ^^^ ·) (0 :: p) (p.map (gfMul r) ++ [0])) [1]
  let num := (poly.zipIdx).foldl (fun a (c, j) => a ^^^ gfMul c (syn.getD j 0)) 0
  let den := gfEval x poly.reverse
  let inv := ((List.range 255).find? fun k => gfMul den (gfPow k) = 1).getD 0
  gfMul num (gfPow inv)

/-- The link code's receiver (R315): the corrected 168 bytes and how many were corrected, or nothing when
more than four bytes are bad. -/
def linkDecode (frame : List Byte) : Option (List Byte × Nat) :=
  let cw := frame.map BitVec.toNat
  let syn := rsSyndromes 8 cw
  if syn.all (· = 0) then some (frame, 0)
  else
    let (loc, l) := errLocator syn
    let bad := (List.range 168).filter fun i => gfEval (gfPow ((255 - (167 - i)) % 255)) loc.reverse = 0
    if l = 0 ∨ 4 < l ∨ bad.length ≠ l then none
    else
      let xs := bad.map fun i => gfPow (167 - i)
      let cw' := bad.foldl (fun c i =>
        c.set i (c.getD i 0 ^^^ errValue syn xs (gfPow (167 - i)))) cw
      if (rsSyndromes 8 cw').all (· = 0) then some (cw'.map (BitVec.ofNat 8), l) else none

/-- The link code's transmitter: 160 bytes and their eight check symbols (R315). -/
def linkEncode (body : List Byte) : List Byte :=
  body ++ (rsCheck 8 (body.map BitVec.toNat)).map (BitVec.ofNat 8)

/-- One bit of the reflected CRC-32C register. -/
def crcBit (c : Nat) : Nat := if c % 2 = 1 then (c / 2) ^^^ 0x82F63B78 else c / 2

/-- One byte of CRC-32C. -/
def crcByte (c : Nat) (b : Byte) : Nat :=
  let c := c ^^^ b.toNat
  crcBit (crcBit (crcBit (crcBit (crcBit (crcBit (crcBit (crcBit c)))))))

/-- CRC-32C (Castagnoli) of bytes, with initial value and final inversion 0xFFFF_FFFF (R322). -/
def crc32c (bs : List Byte) : BitVec 32 := BitVec.ofNat 32 ((bs.foldl crcByte 0xFFFFFFFF) ^^^ 0xFFFFFFFF)

end Sys2Proof.Machine
end

