-- ==== Sys2Proof/Machine/Operands.lean ====
section
/-! DEFINITION. Number formats, exact values, the one conversion procedure of R28 with its counters and
flags, block scales, and the random bits for stochastic rounding (chapter 02). -/

namespace Sys2Proof.Machine

/-- The formats of R15. -/
inductive Fmt where
  | fp32 | fp64 | bf16 | fp16 | e4m3 | e5m2 | g4 | mw16 | e8m0 | int32 | uint32 | int64 | uint64
  deriving DecidableEq, Repr

/-- A 4-bit format code (R15); the reserved codes name no format. -/
def Fmt.ofCode (c : Nat) : Option Fmt :=
  ([Fmt.fp32, .fp64, .bf16, .fp16, .e4m3, .e5m2, .g4, .mw16, .e8m0, .int32, .uint32, .int64, .uint64])[c]?

/-- The code of a format (R15). -/
def Fmt.code : Fmt → Nat
  | .fp32 => 0 | .fp64 => 1 | .bf16 => 2 | .fp16 => 3 | .e4m3 => 4 | .e5m2 => 5 | .g4 => 6 | .mw16 => 7
  | .e8m0 => 8 | .int32 => 9 | .uint32 => 10 | .int64 => 11 | .uint64 => 12

/-- Bits of one element. -/
def Fmt.bits : Fmt → Nat
  | .fp32 => 32 | .fp64 => 64 | .bf16 => 16 | .fp16 => 16 | .e4m3 => 8 | .e5m2 => 8 | .g4 => 4 | .mw16 => 16
  | .e8m0 => 8 | .int32 => 32 | .uint32 => 32 | .int64 => 64 | .uint64 => 64

/-- Bytes of one element; a G4 element counts one byte for alignment (R439). -/
def Fmt.bytes (f : Fmt) : Nat := (f.bits + 7) / 8

/-- The format is one of the integer formats. -/
def Fmt.isInt : Fmt → Bool
  | .int32 | .uint32 | .int64 | .uint64 => true
  | _ => false

/-- Exponent bits (R16). -/
def Fmt.expBits : Fmt → Nat
  | .fp64 => 11 | .fp32 => 8 | .fp16 => 5 | .bf16 => 8 | .e4m3 => 4 | .e5m2 => 5 | .g4 => 2 | .mw16 => 4
  | _ => 8

/-- Fraction bits, d.p of R28 (R16). -/
def Fmt.frac : Fmt → Nat
  | .fp64 => 52 | .fp32 => 23 | .fp16 => 10 | .bf16 => 7 | .e4m3 => 3 | .e5m2 => 2 | .g4 => 1 | .mw16 => 11
  | _ => 0

/-- Exponent bias (R16). -/
def Fmt.bias : Fmt → Nat
  | .fp64 => 1023 | .fp32 => 127 | .fp16 => 15 | .bf16 => 127 | .e4m3 => 7 | .e5m2 => 15 | .g4 => 1
  | .mw16 => 7 | _ => 127

/-- The minimum normal exponent, d.emin of R28 (R16). -/
def Fmt.emin (f : Fmt) : Int := 1 - (f.bias : Int)

/-- Formats whose all-ones exponent encodes infinities and NaNs (R16). -/
def Fmt.hasInf : Fmt → Bool
  | .fp64 | .fp32 | .fp16 | .bf16 | .e5m2 => true
  | _ => false

/-- Formats with a negative zero (R16, R19). -/
def Fmt.hasNegZero : Fmt → Bool
  | .g4 | .mw16 => false
  | _ => true

/-- Destinations that raise IEEE flags (R97). -/
def Fmt.ieee : Fmt → Bool
  | .fp64 | .fp32 | .fp16 => true
  | _ => false

/-- The canonical NaN (R31). -/
def Fmt.nanCode : Fmt → Nat
  | .fp64 => 0x7FF8000000000000 | .fp32 => 0x7FC00000 | .fp16 => 0x7E00 | .bf16 => 0x7FC0 | .e4m3 => 0x7F
  | .e5m2 => 0x7F | .g4 => 8 | .mw16 => 0x8000 | _ => 0xFF

/-- 2^k for any integer k. -/
def pow2 (k : Int) : Rat := if 0 ≤ k then ((2 ^ k.toNat : Nat) : Rat) else mkRat 1 (2 ^ (-k).toNat)

/-- floor(log2 a) for a > 0. -/
def floorLog2 (a : Rat) : Int :=
  let e : Int := (a.num.natAbs.log2 : Int) - (a.den.log2 : Int)
  if pow2 e ≤ a then e else e - 1

/-- The smallest k with a ≤ 2^k, for a > 0. -/
def ceilLog2 (a : Rat) : Int :=
  let e := floorLog2 a
  if pow2 e = a then e else e + 1

/-- The largest finite magnitude, d.max of R28 (R16). -/
def Fmt.maxMag : Fmt → Rat
  | .fp64 => (2 - pow2 (-52)) * pow2 1023
  | .fp32 => (2 - pow2 (-23)) * pow2 127
  | .fp16 => 65504
  | .bf16 => (2 - pow2 (-7)) * pow2 127
  | .e4m3 => 448
  | .e5m2 => 57344
  | .g4 => 6
  | .mw16 => mkRat 4095 8
  | _ => 0

/-- A decoded floating-point value: NaN (signalling or not), an infinity, or a finite value as its sign and
its exact magnitude (R16, R25). -/
inductive FVal where
  | nan (sig : Bool)
  | inf (neg : Bool)
  | fin (neg : Bool) (mag : Rat)
  deriving DecidableEq, Repr

/-- +0. -/
def FVal.zero : FVal := .fin false 0

/-- The sign bit (false for a NaN). -/
def FVal.neg : FVal → Bool
  | .nan _ => false
  | .inf s => s
  | .fin s _ => s

/-- The value is a NaN. -/
def FVal.isNan : FVal → Bool
  | .nan _ => true
  | _ => false

/-- The value is a signalling NaN. -/
def FVal.isSig : FVal → Bool
  | .nan s => s
  | _ => false

/-- The value as a signed rational; 0 for a NaN or an infinity. -/
def FVal.rat : FVal → Rat
  | .fin s m => if s then -m else m
  | _ => 0

/-- A rational as a value; zero is +0. -/
def FVal.ofRat (q : Rat) : FVal := .fin (decide (q < 0)) (if q < 0 then -q else q)

/-- The value with its sign inverted. -/
def FVal.negate : FVal → FVal
  | .nan s => .nan s
  | .inf s => .inf (!s)
  | .fin s m => .fin (!s) m

/-- The value times 2^k (infinities and NaNs unchanged). -/
def FVal.scale (v : FVal) (k : Int) : FVal :=
  match v with
  | .fin s m => .fin s (m * pow2 k)
  | v => v

/-- Decode a floating-point code (R16, R18 to R20). Only FP64, FP32, FP16 and BF16 codes have signalling
NaNs: the other formats' NaNs are quiet (assumption 9, DEDUCED). -/
def Fmt.decode (f : Fmt) (c : Nat) : FVal :=
  let p := f.frac
  let s := bitOf c (f.bits - 1)
  let e := bitsOf c (f.bits - 2) p
  let fr := c % 2 ^ p
  if f.hasInf && e == 2 ^ f.expBits - 1 then
    if fr = 0 then .inf s else .nan (decide (f ≠ .e5m2) && !bitOf c (p - 1))
  else if f = .e4m3 && e == 15 && fr == 7 then .nan false
  else if (f = .g4 || f = .mw16) && s && e == 0 && fr == 0 then .nan false
  else if e = 0 then .fin s ((fr : Rat) * pow2 (f.emin - p))
  else .fin s (((2 ^ p + fr : Nat) : Rat) * pow2 ((e : Int) - f.bias - p))

/-- The unique code of sign s and representable magnitude m (R28). -/
def Fmt.encode (f : Fmt) (s : Bool) (m : Rat) : Nat :=
  let p := f.frac
  let sb := if s then 2 ^ (f.bits - 1) else 0
  if m < pow2 f.emin then sb + (m / pow2 (f.emin - p)).floor.toNat
  else
    let q := floorLog2 m
    sb + (q + f.bias).toNat * 2 ^ p + ((m / pow2 (q - p)).floor.toNat - 2 ^ p)

/-- zero(s, d) of R30. -/
def Fmt.zeroCode (f : Fmt) (s : Bool) : Nat := if s && f.hasNegZero then 2 ^ (f.bits - 1) else 0

/-- The code of the infinity of sign s. -/
def Fmt.infCode (f : Fmt) (s : Bool) : Nat :=
  (if s then 2 ^ (f.bits - 1) else 0) + (2 ^ f.expBits - 1) * 2 ^ f.frac

/-- inf_source(s, d) of R32. -/
def Fmt.infSource (f : Fmt) (s infFlag : Bool) : Nat :=
  if f.hasInf && (decide (f ≠ .e5m2) || infFlag) then f.infCode s else f.encode s f.maxMag

/-- overflow(s, d, mode) of R32. The pairs that R32 leaves blank take the largest value (assumption 10,
DESIGN CHOICE): no rule reaches them. -/
def Fmt.overflowCode (f : Fmt) (s : Bool) (mode : Nat) (infFlag : Bool) : Nat :=
  let canInf := f.hasInf && (decide (f ≠ .e5m2) || infFlag)
  let toInf := match mode with
    | 0 | 2 | 5 => true
    | 3 => !s && decide (f ≠ .e5m2)
    | 4 => s && decide (f ≠ .e5m2)
    | _ => false
  if canInf && toInf then f.infCode s else f.encode s f.maxMag

/-- The five IEEE flags as bits: 4 invalid, 3 divide-by-zero, 2 overflow, 1 underflow, 0 inexact (R120). -/
abbrev Flags := BitVec 5
/-- Invalid operation. -/
def flInvalid : Flags := 16#5
/-- Divide by zero. -/
def flDivZero : Flags := 8#5
/-- Overflow. -/
def flOverflow : Flags := 4#5
/-- Underflow. -/
def flUnderflow : Flags := 2#5
/-- Inexact. -/
def flInexact : Flags := 1#5

/-- What a conversion yields: the code, the excess of a saturation (R33), whether the source was an infinity
or a NaN, and the IEEE flags it would raise (R97). -/
structure Conv where
  code  : Nat
  sat   : Option Nat
  nonf  : Bool
  flags : Flags
  deriving DecidableEq, Repr

/-- Round an exact magnitude on the grid of exponent u (the middle of R28): the integer k. -/
def roundOn (a : Rat) (u : Int) (s : Bool) (mode r : Nat) : Nat :=
  let x := a / pow2 u
  let k := x.floor.toNat
  let f := x - k
  let up := match mode with
    | 0 => decide (mkRat 1 2 < f) || (decide (f = mkRat 1 2) && k % 2 == 1)
    | 5 => decide (mkRat 1 2 ≤ f)
    | 3 => !s && decide (0 < f)
    | 4 => s && decide (0 < f)
    | 2 => decide (65536 ≤ (f * 65536).floor.toNat + r)
    | _ => false
  if up then k + 1 else k

/-- The conversion procedure (R28): source value x, destination d, rounding code, tensor scale σ, block
scale exponent xe (X = 2^xe), INF flag, random value r. -/
def convert (x : FVal) (d : Fmt) (mode : Nat) (sigma xe : Int) (infFlag : Bool) (r : Nat) : Conv :=
  match x with
  | .nan sig => ⟨d.nanCode, none, true, if sig then flInvalid else 0⟩
  | .inf s => ⟨d.infSource s infFlag, none, true, 0⟩
  | .fin s mag =>
    let a := mag * pow2 (sigma - xe)
    if a = 0 then ⟨d.zeroCode s, none, false, 0⟩
    else
      let q := floorLog2 a
      let u := max q d.emin - d.frac
      let k := roundOn a u s mode r
      let m := (k : Rat) * pow2 u
      let inex := decide (m ≠ a)
      if d.maxMag < m then
        ⟨d.overflowCode s mode infFlag, some (min 255 (q - floorLog2 d.maxMag)).toNat, false,
          flOverflow ||| flInexact⟩
      else
        let um := q - d.frac
        let tiny := decide ((roundOn a um s mode r : Rat) * pow2 um < pow2 d.emin)
        let fl := (if inex then flInexact else 0) ||| (if inex && tiny then flUnderflow else 0)
        if m = 0 then ⟨d.zeroCode s, none, false, fl⟩ else ⟨d.encode s m, none, false, fl⟩

/-- R28 into d under RN with no scale: the rn of R110 and R227. -/
def rnCode (d : Fmt) (x : FVal) : Nat := (convert x d 0 0 0 false 0).code

/-- R28 under RN, decoded again. -/
def rnVal (d : Fmt) (x : FVal) : FVal := d.decode (rnCode d x)

/-- The block scale of R24 for the magnitudes of a block after the tensor scale: the exponent of X. -/
def blockScaleExp (mags : List Rat) : Int :=
  let a := mags.foldl max 0
  if a = 0 then 0 else max (-127) (min 127 (ceilLog2 (a / 6)))

/-- The E8M0 code of X = 2^xe (R23). -/
def scaleCode (xe : Int) : Nat := (xe + 127).toNat

/-- Decode an E8M0 code: the exponent of the scale, or NaN (R23). -/
def scaleExp (c : Nat) : Option Int := if c = 255 then none else some ((c : Int) - 127)

/-- Decode an element of a scaled tensor (R22, R23): the code's value × 2^(block) × 2^(−σ); a NaN block
scale makes every element a NaN source (R31). -/
def decodeScaled (f : Fmt) (c : Nat) (sigma : Int) (blk : Option Int) : FVal :=
  match blk with
  | none => .nan false
  | some b => (f.decode c).scale (b - sigma)

/-! Exact arithmetic on values: the exact result of an operation before its one rounding (R96). -/

/-- An exact sum, with the sign of an exact zero by IEEE 754 clause 6.3 (R96); true when invalid. -/
def fvAdd (a b : FVal) (mode : Nat) : FVal × Bool :=
  match a, b with
  | .nan _, _ | _, .nan _ => (.nan false, a.isSig || b.isSig)
  | .inf s, .inf t => if s = t then (.inf s, false) else (.nan false, true)
  | .inf s, _ => (.inf s, false)
  | _, .inf t => (.inf t, false)
  | .fin s m, .fin t n =>
    let q := a.rat + b.rat
    if q = 0 then
      (if m = 0 && n = 0 && s = t then .fin s 0 else .fin (mode == 4) 0, false)
    else (.ofRat q, false)

/-- An exact product; true when invalid. -/
def fvMul (a b : FVal) : FVal × Bool :=
  match a, b with
  | .nan _, _ | _, .nan _ => (.nan false, a.isSig || b.isSig)
  | .inf s, .inf t => (.inf (s ^^ t), false)
  | .inf s, .fin t n => if n = 0 then (.nan false, true) else (.inf (s ^^ t), false)
  | .fin s m, .inf t => if m = 0 then (.nan false, true) else (.inf (s ^^ t), false)
  | .fin s m, .fin t n => (.fin (s ^^ t) (m * n), false)

/-- An exact quotient; the flags invalid and divide-by-zero (R32, R97). -/
def fvDiv (a b : FVal) : FVal × Flags :=
  match a, b with
  | .nan _, _ | _, .nan _ => (.nan false, if a.isSig || b.isSig then flInvalid else 0)
  | .inf _, .inf _ => (.nan false, flInvalid)
  | .inf s, .fin t _ => (.inf (s ^^ t), 0)
  | .fin s _, .inf t => (.fin (s ^^ t) 0, 0)
  | .fin s m, .fin t n =>
    if n = 0 then (if m = 0 then (.nan false, flInvalid) else (.inf (s ^^ t), flDivZero))
    else (.fin (s ^^ t) (m / n), 0)

/-- The exact a × b + c; fma(0, ∞, qNaN) is invalid (R98). -/
def fvFma (a b c : FVal) (mode : Nat) : FVal × Bool :=
  let (p, i) := fvMul a b
  if i then (.nan false, true)
  else if a.isNan || b.isNan || c.isNan then (.nan false, a.isSig || b.isSig || c.isSig)
  else fvAdd p c mode

/-- a < b for two values that are not NaN, with −0 ordered below +0 when `zeros`. -/
def fvLt (zeros : Bool) (a b : FVal) : Bool :=
  match a, b with
  | .inf true, .inf true => false
  | .inf true, _ => true
  | .inf false, _ => false
  | _, .inf false => true
  | _, .inf true => false
  | .fin s m, .fin t n =>
    if m = 0 && n = 0 then zeros && s && !t else decide (a.rat < b.rat)
  | _, _ => false

/-- The block function's rotation counts (R35). -/
def srRot : List Nat := [13, 8, 27, 16, 5, 24, 19, 12]

/-- One round of the block function with its key injection (R35). -/
def srRound (key : List W32) (x : W32 × W32) (i : Nat) : W32 × W32 :=
  let x0 := x.1 + x.2
  let x1 := x.2.rotateLeft (srRot.getD i 0) ^^^ x0
  if i = 3 ∨ i = 7 then
    let j := (i + 1) / 4
    (x0 + key.getD (j % 3) 0, x1 + key.getD ((j + 1) % 3) 0 + BitVec.ofNat 32 j)
  else (x0, x1)

/-- block(k0, k1, c0, c1) of R35. -/
def srBlock (k0 k1 c0 c1 : W32) : W32 × W32 :=
  let key := [k0, k1, k0 ^^^ k1 ^^^ 0x4D2B7A19#32]
  (List.range 8).foldl (srRound key) (c0 + k0, c1 + k1)

/-- sr_bits(seed, step, tid, idx) of R35. -/
def srBits (seed : W64) (step tid : W32) (idx : Nat) : Nat :=
  let k0 := seed.setWidth 32
  let k1 := (seed >>> 32).setWidth 32 ^^^ step
  let (y0, y1) := srBlock k0 k1 (BitVec.ofNat 32 (idx % 2 ^ 34 / 4)) tid
  match idx % 4 with
  | 0 => y0.toNat % 65536
  | 1 => y0.toNat / 65536
  | 2 => y1.toNat % 65536
  | _ => y1.toNat / 65536

/-- The site codes of R37. -/
inductive Site where
  | vector | accum | gradient | update
  deriving DecidableEq, Repr

/-- The tensor identifier: site code in [31:28], stream number in [27:0] (R37). -/
def tensorId (site : Site) (stream : Nat) : W32 :=
  let c := match site with
    | .vector => 0 | .accum => 1 | .gradient => 2 | .update => 3
  BitVec.ofNat 32 (c * 2 ^ 28 + stream % 2 ^ 28)

/-- Element i of packed codes (R21: G4 elements two to a byte, low half first). -/
def elemCode (f : Fmt) (bs : List Byte) (i : Nat) : Nat :=
  if f = .g4 then bitsOf (bs.getD (i / 2) 0).toNat (if i % 2 = 0 then 3 else 7) (if i % 2 = 0 then 0 else 4)
  else leNat ((bs.drop (i * f.bytes)).take f.bytes)

end Sys2Proof.Machine
end

