-- ==== Sys2Proof/Machine/Elementary.lean ====
section
/-! DEFINITION. The exact mathematical values of the roots and transcendental functions (R106, R107), as
rational numbers that round as the exact values do: an exact result is given exactly, any other to better
than 2^-200 of its size and never on a rounding boundary of any format (assumption 20, DEDUCED: no rounding
boundary lies that close to the value of one of these functions at an FP32 argument). -/

namespace Sys2Proof.Machine

/-- Fraction bits of the fixed-point working precision. -/
def fxBits : Nat := 704

/-- A rational as a fixed-point integer (toward minus infinity). -/
def toFx (x : Rat) : Int := (x * (2 ^ fxBits : Nat)).floor

/-- A fixed-point value with half of its last place added, so that it never lies on a coarser grid. -/
def fromFx (x : Int) : Rat := mkRat (2 * x + 1) (2 ^ (fxBits + 1))

/-- Fixed-point product. -/
def fxMul (a b : Int) : Int := (a * b) >>> fxBits

/-- The integer square root: the largest r with r² ≤ n, by bits from `k` down. -/
def isqrtAux : Nat → Nat → Nat → Nat
  | 0, _, r => r
  | k + 1, n, r => let t := r + 2 ^ k; isqrtAux k n (if t * t ≤ n then t else r)

/-- The integer square root. -/
def isqrt (n : Nat) : Nat := isqrtAux (n.log2 / 2 + 1) n 0

/-- √a for a > 0: exact when a is a rational square, else within 2^-256 and off every grid. -/
def sqrtRat (a : Rat) : Rat :=
  let rn := isqrt a.num.natAbs
  let rd := isqrt a.den
  if rn * rn = a.num.natAbs ∧ rd * rd = a.den then mkRat rn rd
  else
    let e := floorLog2 a / 2
    let scaled := (a * pow2 (2 * (256 - e))).floor.toNat
    mkRat (2 * (isqrt scaled : Nat) + 1) 2 * pow2 (e - 256)

/-- Σ_{k=n}^{…} of an alternating or plain power series in fixed point: term_{k+1} = term_k × z, each divided
by an odd number 2k + 1; used for atan and atanh. -/
def oddSeries (alt : Bool) : Nat → Nat → Int → Int → Int
  | 0, _, _, _ => 0
  | fuel + 1, k, term, z =>
    if term = 0 then 0
    else
      let t := term / (2 * k + 1 : Nat)
      (if alt && k % 2 == 1 then -t else t) + oddSeries alt fuel (k + 1) (fxMul term z) z

/-- atanh(z) for |z| ≤ 1/2, fixed point. -/
def atanhFx (z : Int) : Int := oddSeries false 800 0 z (fxMul z z)

/-- atan(1/n), fixed point. -/
def atanInv (n : Nat) : Int :=
  let z := (2 ^ fxBits : Int) / n
  oddSeries true 800 0 z ((2 ^ fxBits : Int) / (n * n))

/-- ln 2, fixed point: 2 atanh(1/3). -/
def ln2Fx : Int := 2 * atanhFx ((2 ^ fxBits : Int) / 3)

/-- π, fixed point, with 192 more bits kept for the reduction of large arguments (Machin). -/
def piAtan (bits n : Nat) : Nat → Nat → Int → Int
  | 0, _, _ => 0
  | fuel + 1, k, term =>
    if term = 0 then 0
    else
      let t := term / (2 * k + 1 : Nat)
      (if k % 2 = 1 then -t else t) + piAtan bits n fuel (k + 1) (term / (n * n : Nat))

/-- π × 2^bits. -/
def piScaled (bits : Nat) : Int :=
  16 * piAtan bits 5 800 0 ((2 ^ bits : Int) / 5) - 4 * piAtan bits 239 800 0 ((2 ^ bits : Int) / 239)

/-- e^r by its Taylor series, fixed point, for small r. -/
def expSeries : Nat → Nat → Int → Int → Int
  | 0, _, _, _ => 0
  | fuel + 1, k, term, r =>
    if term = 0 then 0 else term + expSeries fuel (k + 1) (fxMul term r / (k + 1 : Nat)) r

/-- e^x for rational x: 2^k e^r with r = x − k ln 2. Beyond ±3,000 the value is replaced by 2^±4096, which
every format rounds as it rounds the exact value. -/
def expRat (x : Rat) : Rat :=
  if x = 0 then 1
  else if 3000 < x then pow2 4096
  else if x < -3000 then pow2 (-4096)
  else
    let fx := toFx x
    let k := fx / ln2Fx
    let r := fx - k * ln2Fx
    fromFx (expSeries 400 0 (2 ^ fxBits : Int) r) * pow2 k

/-- 2^x for rational x. -/
def exp2Rat (x : Rat) : Rat :=
  if x.den = 1 then pow2 (max (-4096) (min 4096 x.num))
  else if 4096 < x then pow2 4096
  else if x < -4096 then pow2 (-4096)
  else
    let k := x.floor
    let r := fxMul (toFx (x - k)) ln2Fx
    fromFx (expSeries 400 0 (2 ^ fxBits : Int) r) * pow2 k

/-- ln x for x > 0, fixed point: x = 2^e m with m in [2/3, 4/3]. -/
def lnFx (x : Rat) : Int :=
  let e := floorLog2 (x * mkRat 3 2)
  let m := x * pow2 (-e)
  2 * atanhFx (toFx ((m - 1) / (m + 1))) + e * ln2Fx

/-- ln x for x > 0. -/
def lnRat (x : Rat) : Rat := if x = 1 then 0 else fromFx (lnFx x)

/-- log2 x for x > 0. -/
def log2Rat (x : Rat) : Rat :=
  let e := floorLog2 x
  if pow2 e = x then e else fromFx (lnFx x * (2 ^ fxBits : Int) / ln2Fx)

/-- sin of a fixed-point angle below 1 by its Taylor series (start term r, k = 1) or cos (start 1, k = 0). -/
def trigSeries : Nat → Nat → Int → Int → Int
  | 0, _, _, _ => 0
  | fuel + 1, k, term, r2 =>
    if term = 0 then 0 else term + trigSeries fuel (k + 2) (-(fxMul term r2) / ((k + 1) * (k + 2) : Nat)) r2

/-- The quadrant and the fixed-point remainder of an angle: x = q π/2 + r with 0 ≤ r < π/2. -/
def quadrant (x : Rat) : Int × Int :=
  let bits := fxBits + 192
  let xs := (x * (2 ^ bits : Nat)).floor
  let half := piScaled bits / 2
  let q := xs / half
  (q, (xs - q * half) >>> 192)

/-- sin x for x ≠ 0. -/
def sinRat (x : Rat) : Rat :=
  let (q, r) := quadrant x
  let one : Int := (2 ^ fxBits : Int)
  let sn := trigSeries 400 1 r (fxMul r r)
  let cs := trigSeries 400 0 one (fxMul r r)
  fromFx (match q % 4 with
    | 0 => sn
    | 1 => cs
    | 2 => -sn
    | _ => -cs)

/-- cos x for x ≠ 0. -/
def cosRat (x : Rat) : Rat :=
  let (q, r) := quadrant x
  let one : Int := (2 ^ fxBits : Int)
  let sn := trigSeries 400 1 r (fxMul r r)
  let cs := trigSeries 400 0 one (fxMul r r)
  fromFx (match q % 4 with
    | 0 => cs
    | 1 => -sn
    | 2 => -cs
    | _ => sn)

/-- tanh x for x ≠ 0. -/
def tanhRat (x : Rat) : Rat :=
  let a := if x < 0 then -x else x
  let e := expRat (-2 * a)
  let t := (1 - e) / (1 + e)
  if x < 0 then -t else t

/-- 1 ÷ (1 + e^−x) for x ≠ 0. -/
def sigmoidRat (x : Rat) : Rat := 1 / (1 + expRat (-x))

/-- Σ 2^n x^(2n+1) ÷ (2n+1)!!, fixed point: all terms positive. -/
def erfSeries : Nat → Nat → Int → Int → Int
  | 0, _, _, _ => 0
  | fuel + 1, n, term, x2 =>
    if term = 0 then 0 else term + erfSeries fuel (n + 1) (2 * fxMul term x2 / (2 * n + 3 : Nat)) x2

/-- erf x for x ≠ 0: 2/√π e^(−x²) times the series; from |x| = 7 up it lies within 2^-73 below 1 and is given
as 1 − 2^-80, which FP32 rounds alike in every mode. -/
def erfRat (x : Rat) : Rat :=
  let a := if x < 0 then -x else x
  let v :=
    if 7 ≤ a then 1 - pow2 (-80)
    else
      let fa := toFx a
      let ser := fromFx (erfSeries 1200 0 fa (fxMul fa fa))
      let sqrtPi := sqrtRat (mkRat (piScaled fxBits) (2 ^ fxBits))
      2 * ser * expRat (-(a * a)) / sqrtPi
  if x < 0 then -v else v

end Sys2Proof.Machine
end

