-- ==== Sys2Proof/Machine/Tbl.lean ====
section
/-! DEFINITION. Tables keyed by a natural number, held as lists in one canonical form: keys strictly
rising, and no entry equal to what an unlisted key reads as. Registers, memory bytes, sector metadata and
the per-unit records of the state are such tables. Every operation keeps the canonical form, and reads and
writes agree on any list at all. -/

namespace Sys2Proof.Machine

/-- What key `k` reads as: its entry, or `d k` where it has none. -/
def tblGet {α : Type} (d : Nat → α) : List (Nat × α) → Nat → α
  | [], k => d k
  | (k', v) :: t, k => if k' = k then v else tblGet d t k

/-- Put the pair `(k, v)` in front, unless `v` is what the unlisted key reads as. -/
def tblCons {α : Type} [DecidableEq α] (d : Nat → α) (k : Nat) (v : α) (t : List (Nat × α)) :
    List (Nat × α) :=
  if v = d k then t else (k, v) :: t

/-- Insert `v` at key `k`, which has no entry. -/
def tblIns {α : Type} [DecidableEq α] (d : Nat → α) : List (Nat × α) → Nat → α → List (Nat × α)
  | [], k, v => tblCons d k v []
  | (k', v') :: t, k, v => if k < k' then tblCons d k v ((k', v') :: t) else (k', v') :: tblIns d t k v

/-- Write `v` at key `k`. -/
def tblSet {α : Type} [DecidableEq α] (d : Nat → α) (t : List (Nat × α)) (k : Nat) (v : α) : List (Nat × α) :=
  tblIns d (t.filter fun e => e.1 ≠ k) k v

/-- The canonical form from a bound up: keys strictly rising from `lo`, no entry equal to its default. -/
def tblWfFrom {α : Type} [DecidableEq α] (d : Nat → α) : Nat → List (Nat × α) → Bool
  | _, [] => true
  | lo, (k, v) :: t => decide (lo ≤ k) && decide (v ≠ d k) && tblWfFrom d (k + 1) t

/-- The canonical form. -/
def tblWf {α : Type} [DecidableEq α] (d : Nat → α) (t : List (Nat × α)) : Bool := tblWfFrom d 0 t

/-- The entries with keys from `lo` up to but not including `hi`. -/
def tblWindow {α : Type} (t : List (Nat × α)) (lo hi : Nat) : List (Nat × α) :=
  t.filter fun e => decide (lo ≤ e.1) && decide (e.1 < hi)

/-- The values `vs` at keys `k`, `k + 1`, … in front of a table. -/
def tblConsRun {α : Type} [DecidableEq α] (d : Nat → α) : Nat → List α → List (Nat × α) → List (Nat × α)
  | _, [], t => t
  | k, v :: vs, t => tblCons d k v (tblConsRun d (k + 1) vs t)

/-- Write the values `vs` at keys `k`, `k + 1`, … -/
def tblPut {α : Type} [DecidableEq α] (d : Nat → α) (t : List (Nat × α)) (k : Nat) (vs : List α) :
    List (Nat × α) :=
  (t.filter fun e => e.1 < k) ++ tblConsRun d k vs (t.filter fun e => k + vs.length ≤ e.1)

/-- Read the `n` values at keys `k`, `k + 1`, … -/
def tblRead {α : Type} (d : Nat → α) (t : List (Nat × α)) (k n : Nat) : List α :=
  (List.range n).map fun i => tblGet d (tblWindow t k (k + n)) (k + i)

/-- Give every key from `lo` up to but not including `hi` its default. -/
def tblClear {α : Type} (t : List (Nat × α)) (lo hi : Nat) : List (Nat × α) :=
  t.filter fun e => decide (e.1 < lo) || decide (hi ≤ e.1)

/-- Tables whose entries mean presence: an unlisted key has none. Kept in rising key order. -/
def keyGet {α : Type} : List (Nat × α) → Nat → Option α
  | [], _ => none
  | (k', v) :: t, k => if k' = k then some v else keyGet t k

/-- Write an entry of a presence table. -/
def keySet {α : Type} : List (Nat × α) → Nat → α → List (Nat × α)
  | [], k, v => [(k, v)]
  | (k', v') :: t, k, v =>
    if k' = k then (k, v) :: t else if k < k' then (k, v) :: (k', v') :: t else (k', v') :: keySet t k v

/-- Drop an entry of a presence table. -/
def keyDel {α : Type} (t : List (Nat × α)) (k : Nat) : List (Nat × α) := t.filter fun e => e.1 != k

/-- Insert before the first element that `a` goes before. -/
def insertBy {α : Type} (before : α → α → Bool) (a : α) : List α → List α
  | [] => [a]
  | b :: t => if before a b then a :: b :: t else b :: insertBy before a t

/-- Sort by an order; elements of equal rank keep their order. -/
def sortBy {α : Type} (before : α → α → Bool) (l : List α) : List α := l.foldl (fun t a => insertBy before a t) []

end Sys2Proof.Machine
end

