-- ==== Sys2Proof/Machine/RegMap.lean ====
section
/-! DEFINITION. The register map (R422, R423 and the register sections of every chapter): one row for each
register, with its BAR0 offset, its index dimensions, its width, its fields with their access codes (R5) and
reset values (R8), and whether it is module-wide, carries a partition index or lies in a function page
(R419). The offsets used by the meanings are the functions of the second half. Fields whose reset value the
spec does not give reset to 0 (assumption 1, DESIGN CHOICE), an MSI-X mask to 1 (assumption 2, PRESUMED). -/

namespace Sys2Proof.Machine

/-- Access codes (R5). -/
inductive Acc where
  | ro | rw | w1c | w1s | rc | wo
  deriving DecidableEq, Repr

/-- A register field: bits [hi:lo], access code, reset value. -/
structure Fld where
  hi  : Nat
  lo  : Nat
  acc : Acc
  rst : Nat
  deriving DecidableEq, Repr

/-- How a register is seen by a virtual function (R419): module-wide; one copy per partition that the
partition's function may write; one copy per partition that only the PF writes; in a function page. -/
inductive Scope where
  | mod | part | partPf | page
  deriving DecidableEq, Repr

/-- One register of the map: base offset, dimensions (count, stride) outermost first, which dimension is
the partition or page index, width in bits, fields. -/
structure RegDesc where
  base  : Nat
  dims  : List (Nat × Nat)
  ixDim : Nat
  width : Nat
  flds  : List Fld
  scope : Scope
  deriving DecidableEq, Repr

/-- A register found at an offset: its row and its indices, outermost first. -/
structure RegHit where
  desc : RegDesc
  ixs  : List Nat
  deriving DecidableEq, Repr

/-- MOD block (chapters 10, 15, 18). -/
def regsMod : List RegDesc := [
  ⟨0x0, [], 0, 32, [⟨3, 0, .ro, 1⟩], .mod⟩,  -- MOD_STATE (R456)
  ⟨0x8, [], 0, 32, [⟨0, 0, .w1s, 0⟩], .mod⟩,  -- MOD_CTRL (R457)
  ⟨0x10, [], 0, 64, [⟨63, 0, .ro, 0⟩], .mod⟩,  -- MOD_TIME (R458)
  ⟨0x100, [(5, 0x8)], 0, 64, [⟨39, 30, .rw, 0⟩], .mod⟩,  -- MOD_BAR2_WIN (R459)
  ⟨0x140, [], 0, 64, [⟨63, 0, .ro, 0⟩], .mod⟩,  -- MOD_BAR_ERR (R460)
  ⟨0x200, [(4, 0x10)], 0, 64, [⟨47, 32, .rw, 0x40⟩, ⟨19, 18, .rw, 0⟩, ⟨17, 17, .rw, 1⟩, ⟨16, 16, .rw, 0⟩, ⟨10, 0, .rw, 0x100⟩], .partPf⟩,  -- MOD_PCIE_RG_M2H (R247)
  ⟨0x208, [(4, 0x10)], 0, 64, [⟨63, 0, .ro, 0⟩], .partPf⟩,  -- MOD_PCIE_RG_M2H_CNT (R231)
  ⟨0x240, [(4, 0x10)], 0, 64, [⟨47, 32, .rw, 0x40⟩, ⟨19, 18, .rw, 0⟩, ⟨17, 17, .rw, 1⟩, ⟨16, 16, .rw, 0⟩, ⟨10, 0, .rw, 0x100⟩], .partPf⟩,  -- MOD_PCIE_RG_H2M (R247)
  ⟨0x248, [(4, 0x10)], 0, 64, [⟨63, 0, .ro, 0⟩], .partPf⟩,  -- MOD_PCIE_RG_H2M_CNT (R231)
  ⟨0x400, [], 0, 32, [⟨9, 9, .w1c, 0⟩, ⟨8, 8, .ro, 0⟩, ⟨7, 7, .rw, 0⟩, ⟨6, 6, .rw, 0⟩, ⟨3, 2, .wo, 0⟩, ⟨1, 1, .ro, 0⟩, ⟨0, 0, .w1c, 0⟩], .mod⟩,  -- MOD_CHK_CTRL (R270)
  ⟨0x408, [], 0, 64, [⟨47, 0, .rw, 0⟩], .mod⟩,  -- MOD_CHK_ADDR (R270)
  ⟨0x410, [(4, 0x8)], 0, 64, [⟨63, 0, .rw, 0⟩], .mod⟩,  -- MOD_CHK_DATA (R270)
  ⟨0x430, [], 0, 32, [⟨31, 0, .rw, 0⟩], .mod⟩,  -- MOD_CHK_CHECK (R270)
  ⟨0x500, [], 0, 32, [⟨30, 24, .ro, 0⟩, ⟨17, 17, .ro, 0⟩, ⟨16, 16, .ro, 0⟩, ⟨11, 8, .ro, 0⟩, ⟨5, 0, .ro, 0⟩], .mod⟩,  -- MOD_SIDEBAND (R540)
  ⟨0x508, [], 0, 64, [⟨63, 32, .ro, 0⟩, ⟨16, 16, .ro, 0⟩, ⟨15, 8, .rw, 0xc8⟩, ⟨0, 0, .rw, 1⟩], .mod⟩,  -- MOD_PPS (R541)
  ⟨0x510, [], 0, 64, [⟨63, 0, .ro, 0⟩], .mod⟩  -- MOD_PPS_EDGES (R542)
]

/-- CMD block (chapters 06, 07, 13, 15). -/
def regsCmd : List RegDesc := [
  ⟨0x14000, [(4, 0x40)], 0, 64, [⟨63, 0, .rw, 0⟩], .part⟩,  -- CMD_SLOT_BASE (R144)
  ⟨0x14008, [(4, 0x40)], 0, 32, [⟨14, 0, .rw, 0⟩], .part⟩,  -- CMD_SLOT_COUNT (R145)
  ⟨0x14010, [(4, 0x40)], 0, 32, [⟨3, 0, .rw, 2⟩], .part⟩,  -- CMD_SCALE_CTRL (R146)
  ⟨0x14018, [(4, 0x40)], 0, 64, [⟨63, 32, .ro, 0⟩, ⟨3, 0, .ro, 0⟩], .part⟩,  -- CMD_GATE_STATUS (R147)
  ⟨0x14020, [(4, 0x40)], 0, 64, [⟨63, 32, .ro, 0⟩, ⟨31, 0, .ro, 0⟩], .part⟩,  -- CMD_GATE_NORM (R148)
  ⟨0x14028, [(4, 0x40)], 0, 64, [⟨63, 0, .ro, 0⟩], .part⟩,  -- CMD_SKIPPED (R149)
  ⟨0x14030, [(4, 0x40)], 0, 64, [⟨63, 0, .ro, 0⟩], .part⟩,  -- CMD_SCALE_REPLAYS (R149)
  ⟨0x14200, [(4, 0x20)], 0, 64, [⟨63, 0, .rw, 0⟩], .part⟩,  -- CMD_SHARD_BASE (R171)
  ⟨0x14208, [(4, 0x20)], 0, 32, [⟨16, 0, .rw, 0⟩], .part⟩,  -- CMD_SHARD_COUNT (R172)
  ⟨0x14210, [(4, 0x20)], 0, 64, [⟨63, 0, .ro, 0⟩], .part⟩,  -- CMD_STALE (R173)
  ⟨0x14218, [(4, 0x20)], 0, 64, [⟨63, 0, .ro, 0⟩], .part⟩,  -- CMD_BYPASSED (R173)
  ⟨0x14400, [(4, 0x100), (16, 0x8)], 0, 64, [⟨63, 0, .ro, 0⟩], .part⟩,  -- CMD_IDLE_ME (R371)
  ⟨0x14480, [(4, 0x100), (16, 0x8)], 0, 64, [⟨63, 0, .ro, 0⟩], .part⟩,  -- CMD_WAIT (R371)
  ⟨0x14800, [(4, 0x8)], 0, 32, [⟨0, 0, .rw, 0⟩], .partPf⟩,  -- CMD_PART_ROLE (R370)
  ⟨0x14820, [], 0, 64, [⟨63, 0, .ro, 0⟩], .mod⟩,  -- CMD_UNHELD (R371)
  ⟨0x14840, [(4, 0x10)], 0, 64, [⟨63, 0, .ro, 0⟩], .part⟩,  -- CMD_STEP_TIME_WALL (R372)
  ⟨0x14848, [(4, 0x10)], 0, 64, [⟨63, 0, .ro, 0⟩], .part⟩,  -- CMD_STEP_TIME_OWN (R372)
  ⟨0x14900, [(4, 0x8)], 0, 32, [⟨4, 4, .ro, 0⟩, ⟨3, 3, .ro, 0⟩, ⟨2, 0, .ro, 0⟩], .part⟩  -- CMD_JOB_STATE (R461)
]

/-- KPR block (chapters 13, 14). -/
def regsKpr : List RegDesc := [
  ⟨0x20000, [(4, 0x100)], 0, 32, [⟨17, 4, .rw, 0⟩, ⟨1, 1, .rw, 0⟩, ⟨0, 0, .rw, 0⟩], .part⟩,  -- KPR_CTRL (R408)
  ⟨0x20008, [(4, 0x100)], 0, 64, [⟨63, 0, .rw, 0⟩], .part⟩,  -- KPR_JRNL_BASE (R409)
  ⟨0x20010, [(4, 0x100)], 0, 64, [⟨63, 32, .ro, 0⟩, ⟨31, 16, .ro, 0⟩, ⟨7, 7, .w1c, 0⟩, ⟨6, 6, .ro, 0⟩, ⟨5, 3, .ro, 0⟩], .part⟩,  -- KPR_STATUS (R410)
  ⟨0x20018, [(4, 0x100)], 0, 64, [⟨63, 0, .rw, 0⟩], .part⟩,  -- KPR_DIAG_SAVE (R409)
  ⟨0x20020, [(4, 0x100), (2, 0x18)], 0, 32, [⟨16, 16, .rw, 0⟩, ⟨15, 0, .rw, 0⟩], .part⟩,  -- KPR_MIR (R411)
  ⟨0x20028, [(4, 0x100), (2, 0x18)], 0, 64, [⟨63, 0, .rw, 0⟩], .part⟩,  -- KPR_MIR_STAGE_BASE (R411)
  ⟨0x20030, [(4, 0x100), (2, 0x18)], 0, 64, [⟨63, 0, .rw, 0⟩], .part⟩,  -- KPR_MIR_STAGE_BYTES (R411)
  ⟨0x20050, [(4, 0x100)], 0, 64, [⟨63, 0, .rw, 0⟩], .part⟩,  -- KPR_JOB_PTR (R387)
  ⟨0x20058, [(4, 0x100)], 0, 32, [⟨15, 0, .rw, 0⟩], .part⟩,  -- KPR_JOB_COUNT (R387)
  ⟨0x20400, [], 0, 32, [⟨31, 24, .rw, 0x14⟩, ⟨23, 16, .rw, 3⟩, ⟨15, 0, .rw, 0xa⟩], .mod⟩,  -- KPR_HB (R412)
  ⟨0x20408, [], 0, 32, [⟨15, 0, .rw, 0x44c⟩], .mod⟩,  -- KPR_TMO (R412)
  ⟨0x20440, [(8, 0x8)], 0, 32, [⟨16, 16, .rw, 0⟩, ⟨15, 0, .rw, 0⟩], .mod⟩,  -- KPR_WATCH (R413)
  ⟨0x20480, [], 0, 32, [⟨31, 16, .ro, 0⟩, ⟨2, 0, .ro, 0⟩], .mod⟩,  -- KPR_LAST (R415)
  ⟨0x20488, [], 0, 64, [⟨63, 0, .ro, 0⟩], .mod⟩,  -- KPR_TAKEOVERS (R416)
  ⟨0x20490, [], 0, 64, [⟨63, 0, .ro, 0⟩], .mod⟩,  -- KPR_REPLAYS (R416)
  ⟨0x20800, [(4, 0x20)], 0, 32, [⟨23, 16, .rw, 5⟩, ⟨15, 8, .rw, 0x14⟩, ⟨0, 0, .rw, 0⟩], .part⟩,  -- KPR_SLOW_CTRL (R373)
  ⟨0x20808, [(4, 0x20)], 0, 32, [⟨31, 0, .rw, 0⟩], .part⟩,  -- KPR_SLOW_PEERS (R374)
  ⟨0x20810, [(4, 0x20)], 0, 64, [⟨63, 32, .ro, 0⟩, ⟨31, 24, .ro, 0⟩, ⟨23, 18, .ro, 0⟩, ⟨0, 0, .ro, 0⟩], .part⟩,  -- KPR_SLOW_STATUS (R375)
  ⟨0x21000, [(32, 0x20)], 0, 64, [⟨32, 32, .rw, 0⟩, ⟨31, 16, .rw, 0⟩, ⟨15, 0, .rw, 0⟩], .mod⟩,  -- KPR_TAKE (R414)
  ⟨0x21008, [(32, 0x20)], 0, 64, [⟨63, 0, .rw, 0⟩], .mod⟩,  -- KPR_TAKE_PARTNER_ENTRY (R414)
  ⟨0x21010, [(32, 0x20)], 0, 64, [⟨63, 0, .rw, 0⟩], .mod⟩  -- KPR_TAKE_SPARE_ENTRY (R414)
]

/-- PWR block (chapter 16). -/
def regsPwr : List RegDesc := [
  ⟨0x30000, [], 0, 32, [⟨8, 8, .ro, 0⟩, ⟨7, 4, .ro, 3⟩, ⟨3, 0, .ro, 3⟩], .mod⟩,  -- PWR_STATE (R483)
  ⟨0x30008, [], 0, 64, [⟨63, 48, .rw, 0xfa0⟩, ⟨37, 28, .rw, 0x64⟩, ⟨27, 18, .rw, 0x32⟩, ⟨15, 8, .rw, 4⟩, ⟨7, 0, .rw, 1⟩], .mod⟩,  -- PWR_CAP (R484)
  ⟨0x30010, [], 0, 64, [⟨63, 48, .ro, 0⟩, ⟨47, 32, .ro, 0⟩, ⟨24, 16, .ro, 0⟩, ⟨8, 0, .ro, 0⟩], .mod⟩,  -- PWR_LEVEL (R485)
  ⟨0x30018, [], 0, 32, [⟨7, 0, .rw, 0x28⟩], .mod⟩,  -- PWR_DROOP (R486)
  ⟨0x30020, [], 0, 32, [⟨31, 24, .rw, 0x69⟩, ⟨23, 16, .rw, 0x5f⟩, ⟨15, 8, .rw, 0x5f⟩, ⟨7, 0, .rw, 0x55⟩], .mod⟩,  -- PWR_THERM (R487)
  ⟨0x30028, [], 0, 32, [⟨31, 31, .ro, 0⟩, ⟨23, 8, .ro, 0⟩, ⟨7, 0, .rw, 0x32⟩], .mod⟩,  -- PWR_CAL (R488)
  ⟨0x30100, [(36, 0x8)], 0, 64, [⟨63, 32, .ro, 0⟩, ⟨31, 16, .ro, 0⟩, ⟨15, 0, .ro, 0⟩], .mod⟩,  -- PWR_RAIL (R489)
  ⟨0x30300, [(54, 0x4)], 0, 32, [⟨15, 0, .ro, 0⟩], .mod⟩,  -- PWR_TEMP (R490)
  ⟨0x30400, [(4, 0x8)], 0, 64, [⟨63, 0, .ro, 0⟩], .partPf⟩,  -- PWR_E_PART (R491)
  ⟨0x30420, [], 0, 64, [⟨63, 0, .ro, 0⟩], .mod⟩,  -- PWR_E_UNATTR (R491)
  ⟨0x30428, [], 0, 64, [⟨63, 0, .ro, 0⟩], .mod⟩,  -- PWR_E_INPUT (R491)
  ⟨0x30430, [], 0, 64, [⟨63, 0, .ro, 0⟩], .mod⟩,  -- PWR_DROOPS (R491)
  ⟨0x30438, [], 0, 64, [⟨63, 0, .ro, 0⟩], .mod⟩,  -- PWR_CAP_NS (R491)
  ⟨0x30440, [], 0, 64, [⟨63, 0, .ro, 0⟩], .mod⟩  -- PWR_THERM_NS (R491)
]

/-- BOOT block (chapter 17). -/
def regsBoot : List RegDesc := [
  ⟨0x40000, [], 0, 32, [⟨31, 28, .ro, 0⟩, ⟨27, 24, .ro, 0⟩, ⟨23, 20, .ro, 0⟩, ⟨19, 16, .ro, 0⟩, ⟨8, 8, .ro, 0⟩, ⟨7, 7, .ro, 0⟩, ⟨6, 6, .ro, 0⟩, ⟨5, 5, .ro, 0⟩], .mod⟩,  -- BOOT_STATUS (R514)
  ⟨0x40008, [], 0, 64, [⟨49, 48, .ro, 0⟩, ⟨47, 32, .ro, 0⟩, ⟨31, 0, .ro, 0⟩], .mod⟩,  -- BOOT_FW_RUN (R515)
  ⟨0x40010, [], 0, 32, [⟨21, 21, .ro, 0⟩, ⟨20, 20, .ro, 0⟩, ⟨19, 16, .ro, 0⟩, ⟨15, 0, .ro, 0⟩], .mod⟩,  -- BOOT_ROLLBACK (R516)
  ⟨0x40018, [], 0, 64, [⟨47, 0, .rw, 0⟩], .mod⟩,  -- BOOT_UPD_ADDR (R517)
  ⟨0x40020, [], 0, 32, [⟨24, 0, .rw, 0⟩], .mod⟩,  -- BOOT_UPD_LEN (R517)
  ⟨0x40028, [], 0, 32, [⟨19, 16, .rw, 0⟩, ⟨11, 8, .ro, 0⟩, ⟨3, 3, .w1s, 0⟩, ⟨2, 2, .w1c, 0⟩, ⟨1, 1, .ro, 0⟩, ⟨0, 0, .w1s, 0⟩], .mod⟩,  -- BOOT_UPD_CTRL (R518)
  ⟨0x40030, [], 0, 32, [⟨16, 3, .rw, 0⟩], .mod⟩,  -- BOOT_DM_OFFSET (R519)
  ⟨0x40038, [], 0, 64, [⟨63, 0, .ro, 0⟩], .mod⟩  -- BOOT_DM_DATA (R519)
]

/-- The eight rank bytes of a light-list word: VALID at bit 7 and PORT at [5:0] of each; bit 6 is reserved (R334). -/
def rankFlds : List Fld := (List.range 8).flatMap fun r => [⟨8 * r + 7, 8 * r + 7, .rw, 0⟩, ⟨8 * r + 5, 8 * r, .rw, 0⟩]

/-- FAB block (chapters 10, 11, 12). -/
def regsFab : List RegDesc := [
  ⟨0x200000, [(4, 0x8)], 0, 32, [⟨15, 0, .rw, 0x14⟩], .part⟩,  -- FAB_OP_TMO (R304)
  ⟨0x200020, [], 0, 32, [⟨15, 0, .rw, 0x1f4⟩], .mod⟩,  -- FAB_OP_CTRL (R305)
  ⟨0x200028, [], 0, 32, [⟨31, 16, .rw, 0xa⟩, ⟨15, 12, .rw, 2⟩, ⟨11, 8, .rw, 0⟩, ⟨7, 4, .rw, 4⟩, ⟨3, 0, .rw, 4⟩], .mod⟩,  -- FAB_CTX_CTRL (R306)
  ⟨0x200030, [], 0, 64, [⟨51, 32, .ro, 0⟩, ⟨19, 0, .ro, 0⟩], .mod⟩,  -- FAB_CTX_STATUS (R307)
  ⟨0x200038, [], 0, 32, [⟨5, 5, .w1c, 0⟩, ⟨4, 4, .w1c, 0⟩, ⟨3, 3, .w1c, 0⟩, ⟨2, 2, .w1c, 0⟩, ⟨1, 1, .w1c, 0⟩, ⟨0, 0, .w1c, 0⟩], .mod⟩,  -- FAB_ERR (R308)
  ⟨0x200040, [], 0, 32, [⟨31, 16, .ro, 0⟩, ⟨15, 14, .ro, 0⟩, ⟨13, 12, .ro, 0⟩], .mod⟩,  -- FAB_LOST_LAST (R309)
  ⟨0x200048, [], 0, 32, [⟨15, 0, .rw, 0x1f4⟩], .mod⟩,  -- FAB_GC_CTRL (R310)
  ⟨0x200050, [], 0, 32, [⟨17, 16, .wo, 0⟩, ⟨15, 0, .wo, 0⟩], .mod⟩,  -- FAB_REOPEN (R290)
  ⟨0x200080, [], 0, 64, [⟨63, 0, .ro, 0⟩], .mod⟩,  -- FAB_RESENDS (R312)
  ⟨0x200088, [], 0, 64, [⟨63, 0, .ro, 0⟩], .mod⟩,  -- FAB_DUPLICATES (R312)
  ⟨0x200090, [], 0, 64, [⟨63, 0, .ro, 0⟩], .mod⟩,  -- FAB_STALE (R312)
  ⟨0x200098, [], 0, 64, [⟨63, 0, .ro, 0⟩], .mod⟩,  -- FAB_BOUNCES_SENT (R312)
  ⟨0x2000a0, [], 0, 64, [⟨63, 0, .ro, 0⟩], .mod⟩,  -- FAB_BOUNCES_RECEIVED (R312)
  ⟨0x2000a8, [], 0, 64, [⟨63, 0, .ro, 0⟩], .mod⟩,  -- FAB_LOST (R312)
  ⟨0x2000b0, [], 0, 64, [⟨63, 0, .ro, 0⟩], .mod⟩,  -- FAB_MC_REPAIRS (R312)
  ⟨0x200200, [], 0, 64, [⟨63, 0, .ro, 0⟩], .mod⟩,  -- FAB_DEFLECTIONS (R349)
  ⟨0x200208, [], 0, 64, [⟨63, 0, .ro, 0⟩], .mod⟩,  -- FAB_FOG_MARKS (R349)
  ⟨0x200210, [], 0, 64, [⟨63, 0, .ro, 0⟩], .mod⟩,  -- FAB_CHECK_DISCARDS (R349)
  ⟨0x200218, [], 0, 64, [⟨63, 0, .ro, 0⟩], .mod⟩,  -- FAB_AGE_DISCARDS (R349)
  ⟨0x200220, [], 0, 64, [⟨63, 0, .ro, 0⟩], .mod⟩,  -- FAB_HOP_DISCARDS (R349)
  ⟨0x200228, [], 0, 64, [⟨63, 0, .ro, 0⟩], .mod⟩,  -- FAB_MC_DROPS (R349)
  ⟨0x200230, [], 0, 64, [⟨63, 0, .ro, 0⟩], .mod⟩,  -- FAB_LINK_DISCARDS (R349)
  ⟨0x207000, [], 0, 64, [⟨63, 0, .ro, 0⟩], .mod⟩,  -- FAB_PAR_HDR (R269)
  ⟨0x207008, [], 0, 64, [⟨63, 0, .ro, 0⟩], .mod⟩,  -- FAB_PAR_PAYLOAD (R269)
  ⟨0x200100, [(4, 0x8)], 0, 32, [⟨31, 30, .ro, 0⟩, ⟨29, 28, .ro, 0⟩, ⟨15, 0, .ro, 0⟩], .mod⟩,  -- FAB_GC_STATUS (R311)
  ⟨0x200300, [], 0, 32, [⟨22, 16, .rw, 0x10⟩, ⟨11, 8, .rw, 1⟩, ⟨3, 0, .rw, 1⟩], .mod⟩,  -- FAB_CC (R350)
  ⟨0x200308, [], 0, 32, [⟨6, 0, .rw, 0x20⟩], .mod⟩,  -- FAB_EJ_CTRL (R351)
  ⟨0x200310, [], 0, 32, [⟨15, 12, .rw, 0⟩, ⟨11, 8, .ro, 0⟩, ⟨3, 3, .rw, 0⟩, ⟨2, 2, .rw, 0⟩, ⟨1, 1, .w1s, 0⟩, ⟨0, 0, .ro, 0⟩], .mod⟩,  -- FAB_LL_CTRL (R352)
  ⟨0x200318, [], 0, 32, [⟨15, 0, .rw, 0xffff⟩], .mod⟩,  -- FAB_NODE (R353)
  ⟨0x200320, [], 0, 32, [⟨16, 16, .rw, 0⟩, ⟨15, 0, .rw, 0⟩], .mod⟩,  -- FAB_ALIAS (R353)
  ⟨0x201000, [(64, 0x20)], 0, 32, [⟨3, 3, .rw, 0⟩, ⟨1, 1, .rw, 0⟩, ⟨0, 0, .rw, 0⟩], .mod⟩,  -- FAB_PORT_CTRL (R346)
  ⟨0x201008, [(64, 0x20)], 0, 64, [⟨63, 48, .ro, 0⟩, ⟨47, 42, .ro, 0⟩, ⟨15, 8, .ro, 0⟩, ⟨7, 5, .ro, 0⟩, ⟨1, 0, .ro, 0⟩], .mod⟩,  -- FAB_PORT_STATUS (R347)
  ⟨0x201010, [(64, 0x20)], 0, 64, [⟨63, 0, .ro, 0⟩], .mod⟩,  -- FAB_PORT_CORR (R348)
  ⟨0x201018, [(64, 0x20)], 0, 64, [⟨63, 0, .ro, 0⟩], .mod⟩,  -- FAB_PORT_UNCORR (R348)
  ⟨0x206000, [(8, 0x40), (4, 0x10)], 1, 64, [⟨47, 32, .rw, 0x40⟩, ⟨19, 18, .rw, 0⟩, ⟨17, 17, .rw, 1⟩, ⟨16, 16, .rw, 0⟩, ⟨10, 0, .rw, 0x100⟩], .partPf⟩,  -- FAB_INJ_RG (R247)
  ⟨0x206008, [(8, 0x40), (4, 0x10)], 1, 64, [⟨63, 0, .ro, 0⟩], .partPf⟩,  -- FAB_INJ_RG_CNT (R231)
  ⟨0x210000, [(2, 0x8000), (2048, 0x8)], 0, 64, rankFlds, .mod⟩,  -- FAB_LL_GROUP (R334)
  ⟨0x214000, [(2, 0x8000), (32, 0x8)], 0, 64, rankFlds, .mod⟩,  -- FAB_LL_LOCAL (R334)
  ⟨0x300000, [(16384, 0x10)], 0, 64, [⟨17, 17, .rw, 0⟩, ⟨16, 16, .rw, 0⟩, ⟨15, 0, .rw, 0⟩], .mod⟩,  -- FAB_MCG (R343)
  ⟨0x300008, [(16384, 0x10)], 0, 64, [⟨63, 0, .rw, 0⟩], .mod⟩  -- FAB_MCG_MASK (R343)
]

/-- ME block of each lantern (chapter 03). -/
def regsMe : List RegDesc := [
  ⟨0x400000, [(8, 0x80000), (4, 0x8)], 1, 32, [⟨15, 0, .rw, 0x40⟩], .part⟩,  -- ME_LONGSUM (R64)
  ⟨0x400040, [(8, 0x80000), (4, 0x8)], 1, 32, [⟨15, 0, .rw, 0xfa⟩], .part⟩,  -- ME_VERSION_TMO (R174)
  ⟨0x401000, [(8, 0x80000), (12, 0x100)], 0, 32, [⟨31, 30, .ro, 0⟩, ⟨29, 28, .ro, 0⟩, ⟨27, 16, .ro, 0⟩, ⟨12, 12, .ro, 0⟩, ⟨11, 0, .ro, 0⟩], .mod⟩,  -- ME_STATUS (R65)
  ⟨0x401008, [(8, 0x80000), (12, 0x100)], 0, 32, [⟨4, 4, .w1c, 0⟩, ⟨3, 3, .w1c, 0⟩, ⟨2, 2, .w1c, 0⟩, ⟨1, 1, .w1c, 0⟩, ⟨0, 0, .w1c, 0⟩], .mod⟩,  -- ME_ERR (R66)
  ⟨0x401010, [(8, 0x80000), (12, 0x100)], 0, 32, [⟨0, 0, .rw, 0⟩], .mod⟩,  -- ME_CTRL (R67)
  ⟨0x401018, [(8, 0x80000), (12, 0x100)], 0, 64, [⟨63, 0, .ro, 0⟩], .mod⟩,  -- ME_PASSES (R68)
  ⟨0x401020, [(8, 0x80000), (12, 0x100)], 0, 64, [⟨63, 0, .ro, 0⟩], .mod⟩  -- ME_GATED (R68)
]

/-- VE block of each lantern (chapter 05). -/
def regsVe : List RegDesc := [
  ⟨0x410000, [(8, 0x80000), (4, 0x8)], 1, 32, [⟨4, 4, .w1c, 0⟩, ⟨3, 3, .w1c, 0⟩, ⟨2, 2, .w1c, 0⟩, ⟨1, 1, .w1c, 0⟩, ⟨0, 0, .w1c, 0⟩], .part⟩,  -- VE_FLAGS (R120)
  ⟨0x410040, [(8, 0x80000), (4, 0x8)], 1, 32, [⟨31, 16, .rw, 0x40⟩, ⟨15, 0, .rw, 0x1f4⟩], .part⟩,  -- VE_SPLIT (R121)
  ⟨0x411000, [(8, 0x80000), (2, 0x100)], 0, 32, [⟨31, 30, .ro, 0⟩, ⟨29, 28, .ro, 0⟩, ⟨5, 0, .ro, 0⟩], .mod⟩,  -- VE_STATUS (R122)
  ⟨0x411008, [(8, 0x80000), (2, 0x100)], 0, 32, [⟨3, 3, .w1c, 0⟩, ⟨2, 2, .w1c, 0⟩, ⟨1, 1, .w1c, 0⟩, ⟨0, 0, .w1c, 0⟩], .mod⟩,  -- VE_ERR (R123)
  ⟨0x411010, [(8, 0x80000), (2, 0x100)], 0, 64, [⟨63, 0, .ro, 0⟩], .mod⟩  -- VE_ITERS (R124)
]

/-- SU block of each lantern (chapter 08). -/
def regsSu : List RegDesc := [
  ⟨0x420000, [(8, 0x80000), (4, 0x8)], 1, 32, [⟨15, 0, .rw, 0x1f4⟩], .part⟩,  -- SU_EXCH_TMO (R205)
  ⟨0x421000, [(8, 0x80000)], 0, 32, [⟨31, 30, .ro, 0⟩, ⟨29, 28, .ro, 0⟩, ⟨27, 26, .ro, 0⟩, ⟨15, 0, .ro, 0⟩], .mod⟩,  -- SU_STATUS (R206)
  ⟨0x421008, [(8, 0x80000)], 0, 32, [⟨5, 5, .w1c, 0⟩, ⟨4, 4, .w1c, 0⟩, ⟨3, 3, .w1c, 0⟩, ⟨2, 2, .w1c, 0⟩, ⟨1, 1, .w1c, 0⟩, ⟨0, 0, .w1c, 0⟩], .mod⟩,  -- SU_ERR (R207)
  ⟨0x421010, [(8, 0x80000)], 0, 64, [⟨63, 0, .ro, 0⟩], .mod⟩,  -- SU_DROPPED (R208)
  ⟨0x421018, [(8, 0x80000)], 0, 64, [⟨63, 0, .ro, 0⟩], .mod⟩,  -- SU_SPILLED (R208)
  ⟨0x421020, [(8, 0x80000)], 0, 64, [⟨63, 0, .ro, 0⟩], .mod⟩,  -- SU_NAN_SCORES (R208)
  ⟨0x421028, [(8, 0x80000)], 0, 64, [⟨63, 0, .ro, 0⟩], .mod⟩,  -- SU_UNROUTED (R208)
  ⟨0x421030, [(8, 0x80000)], 0, 64, [⟨63, 0, .ro, 0⟩], .mod⟩  -- SU_LATE (R208)
]

/-- GAL block of each lantern (chapters 04, 09, 10). -/
def regsGal : List RegDesc := [
  ⟨0x430000, [(8, 0x80000), (12, 0x8)], 0, 32, [⟨7, 7, .ro, 0⟩, ⟨6, 6, .ro, 0⟩, ⟨3, 2, .rw, 0⟩, ⟨0, 0, .rw, 0⟩], .mod⟩,  -- GAL_REGION (R242)
  ⟨0x430100, [(8, 0x80000)], 0, 32, [⟨2, 2, .w1c, 0⟩, ⟨1, 1, .w1c, 0⟩, ⟨0, 0, .w1c, 0⟩], .mod⟩,  -- GAL_ERR (R244)
  ⟨0x433000, [(8, 0x80000), (4, 0x40)], 0, 32, [⟨2, 2, .w1c, 0⟩, ⟨1, 1, .w1c, 0⟩, ⟨0, 0, .ro, 0⟩], .mod⟩,  -- GAL_DMA_SPARSE (R93)
  ⟨0x433008, [(8, 0x80000), (4, 0x40)], 0, 64, [⟨63, 0, .ro, 0⟩], .mod⟩,  -- GAL_DMA_PRUNED (R94)
  ⟨0x434000, [(8, 0x80000), (4, 0x10)], 1, 64, [⟨47, 32, .rw, 0x40⟩, ⟨19, 18, .rw, 0⟩, ⟨17, 17, .rw, 1⟩, ⟨16, 16, .rw, 0⟩, ⟨10, 0, .rw, 0x100⟩], .partPf⟩,  -- GAL_XL_RG (R247)
  ⟨0x434008, [(8, 0x80000), (4, 0x10)], 1, 64, [⟨63, 0, .ro, 0⟩], .partPf⟩,  -- GAL_XL_RG_CNT (R231)
  ⟨0x436000, [(8, 0x80000)], 0, 64, [⟨63, 0, .ro, 0⟩], .mod⟩,  -- GAL_PAR_REFETCH (R268)
  ⟨0x436008, [(8, 0x80000)], 0, 64, [⟨63, 0, .ro, 0⟩], .mod⟩,  -- GAL_PAR_POISONED (R268)
  ⟨0x436010, [(8, 0x80000)], 0, 64, [⟨63, 0, .ro, 0⟩], .mod⟩,  -- GAL_PAR_PATROL (R268)
  ⟨0x436018, [(8, 0x80000)], 0, 64, [⟨63, 0, .ro, 0⟩], .mod⟩,  -- GAL_PAR_NETWORK (R268)
  ⟨0x436020, [(8, 0x80000)], 0, 64, [⟨63, 0, .ro, 0⟩], .mod⟩,  -- GAL_PAR_ACC (R268)
  ⟨0x436040, [(8, 0x80000)], 0, 32, [⟨31, 31, .ro, 0⟩, ⟨7, 0, .rw, 0x3c⟩], .mod⟩  -- GAL_SCRUB (R268)
]

/-- Pool registers, in the GAL block of L0 alone (chapter 09). -/
def regsGal0 : List RegDesc := [
  ⟨0x435000, [(4, 0x200), (4, 0x80), (4, 0x20)], 0, 64, [⟨47, 0, .rw, 0⟩], .part⟩,  -- GAL_POOL_BASE (R245)
  ⟨0x435008, [(4, 0x200), (4, 0x80), (4, 0x20)], 0, 64, [⟨50, 32, .rw, 0⟩, ⟨18, 0, .rw, 0⟩], .part⟩,  -- GAL_POOL_SIZE (R245)
  ⟨0x435010, [(4, 0x200), (4, 0x80), (4, 0x20)], 0, 64, [⟨50, 32, .rc, 0⟩, ⟨18, 0, .ro, 0⟩], .part⟩,  -- GAL_POOL_FREE (R245)
  ⟨0x435018, [(4, 0x200), (4, 0x80), (4, 0x20)], 0, 64, [⟨47, 0, .ro, 0⟩], .part⟩,  -- GAL_POOL_HEAD (R245)
  ⟨0x435800, [(4, 0x100), (4, 0x40)], 0, 64, [⟨47, 0, .rw, 0⟩], .part⟩,  -- GAL_POOL_SIDE (R246)
  ⟨0x435808, [(4, 0x100), (4, 0x40)], 0, 32, [⟨15, 12, .w1c, 0⟩, ⟨3, 3, .w1c, 0⟩, ⟨2, 2, .ro, 0⟩, ⟨1, 1, .ro, 0⟩, ⟨0, 0, .w1s, 0⟩], .part⟩,  -- GAL_POOL_CTRL (R246)
  ⟨0x435810, [(4, 0x100), (4, 0x40)], 0, 32, [⟨1, 0, .wo, 0⟩], .part⟩,  -- GAL_POOL_REQ (R246)
  ⟨0x435818, [(4, 0x100), (4, 0x40)], 0, 64, [⟨63, 63, .rc, 0⟩, ⟨62, 62, .rc, 0⟩, ⟨61, 60, .rc, 0⟩, ⟨47, 0, .rc, 0⟩], .part⟩,  -- GAL_POOL_GRANT (R246)
  ⟨0x435820, [(4, 0x100), (4, 0x40)], 0, 64, [⟨47, 0, .wo, 0⟩], .part⟩,  -- GAL_POOL_RELEASE (R246)
  ⟨0x435828, [(4, 0x100), (4, 0x40)], 0, 64, [⟨63, 0, .ro, 0⟩], .part⟩,  -- GAL_POOL_FAILS (R246)
  ⟨0x435830, [(4, 0x100), (4, 0x40)], 0, 64, [⟨63, 0, .ro, 0⟩], .part⟩  -- GAL_POOL_DFREE (R246)
]

/-- HBM block of each lantern (chapters 09, 10). -/
def regsHbm : List RegDesc := [
  ⟨0x441000, [(8, 0x80000), (96, 0x8)], 0, 32, [⟨7, 7, .ro, 0⟩, ⟨2, 2, .rw, 1⟩, ⟨1, 0, .rw, 0⟩], .mod⟩,  -- HBM_OWN (R243)
  ⟨0x442000, [(8, 0x80000), (2, 0x40), (4, 0x10)], 2, 64, [⟨47, 32, .rw, 0x40⟩, ⟨19, 18, .rw, 0⟩, ⟨17, 17, .rw, 1⟩, ⟨16, 16, .rw, 0⟩, ⟨10, 0, .rw, 0x100⟩], .partPf⟩,  -- HBM_RG (R247)
  ⟨0x442008, [(8, 0x80000), (2, 0x40), (4, 0x10)], 2, 64, [⟨63, 0, .ro, 0⟩], .partPf⟩,  -- HBM_RG_CNT (R231)
  ⟨0x443000, [(8, 0x80000), (2, 0x40)], 0, 64, [⟨63, 0, .ro, 0⟩], .mod⟩,  -- HBM_CE_DEMAND (R264)
  ⟨0x443008, [(8, 0x80000), (2, 0x40)], 0, 64, [⟨63, 0, .ro, 0⟩], .mod⟩,  -- HBM_CE_PATROL (R264)
  ⟨0x443010, [(8, 0x80000), (2, 0x40)], 0, 64, [⟨63, 0, .ro, 0⟩], .mod⟩,  -- HBM_UE (R264)
  ⟨0x443018, [(8, 0x80000), (2, 0x40)], 0, 64, [⟨63, 0, .ro, 0⟩], .mod⟩,  -- HBM_POISON_READ (R264)
  ⟨0x443020, [(8, 0x80000), (2, 0x40)], 0, 64, [⟨63, 62, .ro, 0⟩, ⟨61, 61, .ro, 0⟩, ⟨60, 55, .ro, 0⟩, ⟨54, 32, .ro, 0⟩, ⟨25, 24, .ro, 0⟩, ⟨23, 16, .ro, 0⟩], .mod⟩,  -- HBM_ECC_LAST (R264)
  ⟨0x443080, [(8, 0x80000), (2, 0x8)], 0, 32, [⟨31, 31, .ro, 0⟩, ⟨7, 0, .rw, 0x18⟩], .mod⟩,  -- HBM_SCRUB (R265)
  ⟨0x443100, [(8, 0x80000), (2, 0x8)], 0, 32, [⟨5, 5, .w1c, 0⟩, ⟨4, 4, .rw, 1⟩, ⟨3, 0, .rw, 2⟩], .mod⟩,  -- HBM_REMAP_CTRL (R266)
  ⟨0x444000, [(8, 0x80000), (2, 0x1000), (64, 0x40), (8, 0x8)], 0, 32, [⟨31, 31, .rw, 0⟩, ⟨30, 30, .rw, 0⟩, ⟨19, 0, .rw, 0⟩], .mod⟩  -- HBM_REMAP (R267)
]

/-- Function pages (chapters 09, 15). -/
def regsPage : List RegDesc := [
  ⟨0x1000000, [(5, 0x100000), (2, 0x40)], 0, 64, [⟨63, 6, .rw, 0⟩, ⟨0, 0, .rw, 0⟩], .page⟩,  -- CMD_RING_BASE (R424)
  ⟨0x1000008, [(5, 0x100000), (2, 0x40)], 0, 32, [⟨31, 31, .rw, 0⟩, ⟨20, 16, .rw, 6⟩, ⟨10, 0, .rw, 0⟩], .page⟩,  -- CMD_RING_CFG (R424)
  ⟨0x1000010, [(5, 0x100000), (2, 0x40)], 0, 32, [⟨31, 0, .ro, 0⟩], .page⟩,  -- CMD_RING_HEAD (R424)
  ⟨0x1000014, [(5, 0x100000), (2, 0x40)], 0, 32, [⟨31, 0, .ro, 0⟩], .page⟩,  -- CMD_RING_TAIL (R424)
  ⟨0x1000018, [(5, 0x100000), (2, 0x40)], 0, 32, [⟨31, 0, .rw, 0⟩], .page⟩,  -- CMD_RING_SEQ (R424)
  ⟨0x1000020, [(5, 0x100000), (2, 0x40)], 0, 32, [⟨2, 2, .w1c, 0⟩, ⟨1, 1, .w1c, 0⟩, ⟨0, 0, .ro, 0⟩], .page⟩,  -- CMD_RING_STATUS (R424)
  ⟨0x1000100, [(5, 0x100000)], 0, 64, [⟨63, 5, .rw, 0⟩], .page⟩,  -- CMD_EV_BASE (R453)
  ⟨0x1000108, [(5, 0x100000)], 0, 32, [⟨31, 31, .rw, 0⟩, ⟨20, 16, .rw, 6⟩, ⟨10, 0, .rw, 0⟩], .page⟩,  -- CMD_EV_CFG (R453)
  ⟨0x1000110, [(5, 0x100000)], 0, 32, [⟨31, 0, .rw, 0⟩], .page⟩,  -- CMD_EV_HEAD (R453)
  ⟨0x1000114, [(5, 0x100000)], 0, 32, [⟨31, 0, .ro, 0⟩], .page⟩,  -- CMD_EV_TAIL (R453)
  ⟨0x1000118, [(5, 0x100000)], 0, 64, [⟨63, 0, .ro, 0⟩], .page⟩,  -- CMD_EV_LOST (R453)
  ⟨0x1001000, [(5, 0x100000), (2, 0x8)], 0, 32, [⟨31, 0, .wo, 0⟩], .page⟩,  -- CMD_DB (R462)
  ⟨0x1002000, [(5, 0x100000), (16, 0x100)], 0, 64, [⟨63, 32, .ro, 0⟩, ⟨31, 16, .ro, 0⟩, ⟨15, 8, .ro, 0⟩, ⟨1, 0, .ro, 0⟩], .page⟩,  -- CMD_MBOX (R446)
  ⟨0x1002008, [(5, 0x100000), (16, 0x100), (31, 0x8)], 0, 64, [⟨63, 0, .ro, 0⟩], .page⟩,  -- CMD_MBOX_DATA (R446)
  ⟨0x1003000, [(5, 0x100000)], 0, 32, [⟨15, 0, .wo, 0⟩], .page⟩,  -- CMD_MBOX_ACK (R462)
  ⟨0x1008000, [(5, 0x100000), (448, 0x10)], 0, 64, [⟨63, 0, .rw, 0⟩], .page⟩,  -- MSIX_ADDR (R423)
  ⟨0x1008008, [(5, 0x100000), (448, 0x10)], 0, 32, [⟨31, 0, .rw, 0⟩], .page⟩,  -- MSIX_DATA (R423)
  ⟨0x100800c, [(5, 0x100000), (448, 0x10)], 0, 32, [⟨0, 0, .rw, 1⟩], .page⟩,  -- MSIX_CTRL (R423)
  ⟨0x100c000, [(5, 0x100000), (7, 0x8)], 0, 64, [⟨63, 0, .ro, 0⟩], .page⟩  -- MSIX_PBA (R423)
]

/-- Read an offset from a register's base against its dimensions: the indices, where the offset is that of
an element of the array. -/
def matchDims : List (Nat × Nat) → Nat → Option (List Nat)
  | [], o => if o = 0 then some [] else none
  | (n, st) :: ds, o =>
    let i := Nat.min (o / st) (n - 1)
    (matchDims ds (o - i * st)).map (i :: ·)

/-- The register of a list at a BAR0 offset. -/
def findReg : List RegDesc → Nat → Option RegHit
  | [], _ => none
  | d :: ds, off =>
    if off < d.base then findReg ds off
    else match matchDims d.dims (off - d.base) with
      | some ixs => some ⟨d, ixs⟩
      | none => findReg ds off

/-- The rows of the block that a BAR0 offset falls in (R422); lantern blocks repeat every 0x8_0000. -/
def blockRows (off : Nat) : List RegDesc :=
  if off < 0x10000 then regsMod
  else if off < 0x20000 then regsCmd
  else if off < 0x30000 then regsKpr
  else if off < 0x40000 then regsPwr
  else if off < 0x50000 then regsBoot
  else if off < 0x200000 then []
  else if off < 0x400000 then regsFab
  else if off < 0x800000 then
    let o := (off - 0x400000) % 0x80000
    if o < 0x10000 then regsMe
    else if o < 0x20000 then regsVe
    else if o < 0x30000 then regsSu
    else if o < 0x40000 then (if off < 0x440000 then regsGal ++ regsGal0 else regsGal)
    else if o < 0x50000 then regsHbm
    else []
  else if off < 0x1000000 then []
  else if off < 0x1500000 then regsPage
  else []

/-- Offsets of the PF page at which it has no register: ring 1, and MSI-X vectors from 256 up (R417, R423). -/
def pfAbsent (off : Nat) : Bool :=
  decide (0x1000040 ≤ off) && decide (off < 0x1000080) || decide (off = 0x1001008) ||
  decide (0x1009000 ≤ off) && decide (off < 0x100C000) || decide (0x100C020 ≤ off) && decide (off < 0x1100000)

/-- The register at a BAR0 offset (R422): "Offsets not listed read 0 and ignore writes." -/
def regAt (off : Nat) : Option RegHit := if pfAbsent off then none else findReg (blockRows off) off

/-- The reset value of a register, from its fields' reset values (R8), with the two that depend on the
index: FAB_PORT_CTRL.ROLE is 1 for P31 to P63 (R346), GAL_REGION.FIXED is 1 for region 11 of L7 (R242). -/
def RegHit.reset (h : RegHit) : W64 :=
  let v := h.desc.flds.foldl (fun a f => a ||| (BitVec.ofNat 64 f.rst <<< f.lo)) 0#64
  if h.desc.base = 0x201000 then (if 31 ≤ h.ixs.headD 0 then v ||| 2#64 else v)
  else if h.desc.base = 0x430000 then (if h.ixs = [7, 11] then v ||| 0x40#64 else v)
  else v

/-- The reset value at a BAR0 offset; 0 where no register lies. -/
def regReset (off : Nat) : W64 :=
  match regAt off with
  | some h => h.reset
  | none => 0#64

/-! The BAR0 offsets of the registers the meanings use. -/

/-- MOD_STATE (R456). -/
def modStateOff : Nat := 0x0
/-- MOD_CTRL (R457). -/
def modCtrlOff : Nat := 0x8
/-- MOD_TIME (R458). -/
def modTimeOff : Nat := 0x10
/-- MOD_BAR2_WIN (R459). -/
def modBar2WinOff (f : Nat) : Nat := 0x100 + 0x8 * f
/-- MOD_BAR_ERR (R460). -/
def modBarErrOff : Nat := 0x140
/-- MOD_PCIE_RG_M2H (R247). -/
def modPcieRgM2hOff (p : Nat) : Nat := 0x200 + 0x10 * p
/-- MOD_PCIE_RG_M2H_CNT (R231). -/
def modPcieRgM2hCntOff (p : Nat) : Nat := 0x208 + 0x10 * p
/-- MOD_PCIE_RG_H2M (R247). -/
def modPcieRgH2mOff (p : Nat) : Nat := 0x240 + 0x10 * p
/-- MOD_PCIE_RG_H2M_CNT (R231). -/
def modPcieRgH2mCntOff (p : Nat) : Nat := 0x248 + 0x10 * p
/-- MOD_CHK_CTRL (R270). -/
def modChkCtrlOff : Nat := 0x400
/-- MOD_CHK_ADDR (R270). -/
def modChkAddrOff : Nat := 0x408
/-- MOD_CHK_DATA (R270). -/
def modChkDataOff (i : Nat) : Nat := 0x410 + 0x8 * i
/-- MOD_CHK_CHECK (R270). -/
def modChkCheckOff : Nat := 0x430
/-- MOD_SIDEBAND (R540). -/
def modSidebandOff : Nat := 0x500
/-- MOD_PPS (R541). -/
def modPpsOff : Nat := 0x508
/-- MOD_PPS_EDGES (R542). -/
def modPpsEdgesOff : Nat := 0x510
/-- CMD_SLOT_BASE (R144). -/
def cmdSlotBaseOff (p : Nat) : Nat := 0x14000 + 0x40 * p
/-- CMD_SLOT_COUNT (R145). -/
def cmdSlotCountOff (p : Nat) : Nat := 0x14008 + 0x40 * p
/-- CMD_SCALE_CTRL (R146). -/
def cmdScaleCtrlOff (p : Nat) : Nat := 0x14010 + 0x40 * p
/-- CMD_GATE_STATUS (R147). -/
def cmdGateStatusOff (p : Nat) : Nat := 0x14018 + 0x40 * p
/-- CMD_GATE_NORM (R148). -/
def cmdGateNormOff (p : Nat) : Nat := 0x14020 + 0x40 * p
/-- CMD_SKIPPED (R149). -/
def cmdSkippedOff (p : Nat) : Nat := 0x14028 + 0x40 * p
/-- CMD_SCALE_REPLAYS (R149). -/
def cmdScaleReplaysOff (p : Nat) : Nat := 0x14030 + 0x40 * p
/-- CMD_SHARD_BASE (R171). -/
def cmdShardBaseOff (p : Nat) : Nat := 0x14200 + 0x20 * p
/-- CMD_SHARD_COUNT (R172). -/
def cmdShardCountOff (p : Nat) : Nat := 0x14208 + 0x20 * p
/-- CMD_STALE (R173). -/
def cmdStaleOff (p : Nat) : Nat := 0x14210 + 0x20 * p
/-- CMD_BYPASSED (R173). -/
def cmdBypassedOff (p : Nat) : Nat := 0x14218 + 0x20 * p
/-- CMD_IDLE_ME (R371). -/
def cmdIdleMeOff (p i : Nat) : Nat := 0x14400 + 0x100 * p + 0x8 * i
/-- CMD_WAIT (R371). -/
def cmdWaitOff (p i : Nat) : Nat := 0x14480 + 0x100 * p + 0x8 * i
/-- CMD_PART_ROLE (R370). -/
def cmdPartRoleOff (p : Nat) : Nat := 0x14800 + 0x8 * p
/-- CMD_UNHELD (R371). -/
def cmdUnheldOff : Nat := 0x14820
/-- CMD_STEP_TIME_WALL (R372). -/
def cmdStepTimeWallOff (p : Nat) : Nat := 0x14840 + 0x10 * p
/-- CMD_STEP_TIME_OWN (R372). -/
def cmdStepTimeOwnOff (p : Nat) : Nat := 0x14848 + 0x10 * p
/-- CMD_JOB_STATE (R461). -/
def cmdJobStateOff (p : Nat) : Nat := 0x14900 + 0x8 * p
/-- KPR_CTRL (R408). -/
def kprCtrlOff (p : Nat) : Nat := 0x20000 + 0x100 * p
/-- KPR_JRNL_BASE (R409). -/
def kprJrnlBaseOff (p : Nat) : Nat := 0x20008 + 0x100 * p
/-- KPR_STATUS (R410). -/
def kprStatusOff (p : Nat) : Nat := 0x20010 + 0x100 * p
/-- KPR_DIAG_SAVE (R409). -/
def kprDiagSaveOff (p : Nat) : Nat := 0x20018 + 0x100 * p
/-- KPR_MIR (R411). -/
def kprMirOff (p i : Nat) : Nat := 0x20020 + 0x100 * p + 0x18 * i
/-- KPR_MIR_STAGE_BASE (R411). -/
def kprMirStageBaseOff (p i : Nat) : Nat := 0x20028 + 0x100 * p + 0x18 * i
/-- KPR_MIR_STAGE_BYTES (R411). -/
def kprMirStageBytesOff (p i : Nat) : Nat := 0x20030 + 0x100 * p + 0x18 * i
/-- KPR_JOB_PTR (R387). -/
def kprJobPtrOff (p : Nat) : Nat := 0x20050 + 0x100 * p
/-- KPR_JOB_COUNT (R387). -/
def kprJobCountOff (p : Nat) : Nat := 0x20058 + 0x100 * p
/-- KPR_HB (R412). -/
def kprHbOff : Nat := 0x20400
/-- KPR_TMO (R412). -/
def kprTmoOff : Nat := 0x20408
/-- KPR_WATCH (R413). -/
def kprWatchOff (i : Nat) : Nat := 0x20440 + 0x8 * i
/-- KPR_LAST (R415). -/
def kprLastOff : Nat := 0x20480
/-- KPR_TAKEOVERS (R416). -/
def kprTakeoversOff : Nat := 0x20488
/-- KPR_REPLAYS (R416). -/
def kprReplaysOff : Nat := 0x20490
/-- KPR_SLOW_CTRL (R373). -/
def kprSlowCtrlOff (p : Nat) : Nat := 0x20800 + 0x20 * p
/-- KPR_SLOW_PEERS (R374). -/
def kprSlowPeersOff (p : Nat) : Nat := 0x20808 + 0x20 * p
/-- KPR_SLOW_STATUS (R375). -/
def kprSlowStatusOff (p : Nat) : Nat := 0x20810 + 0x20 * p
/-- KPR_TAKE (R414). -/
def kprTakeOff (i : Nat) : Nat := 0x21000 + 0x20 * i
/-- KPR_TAKE_PARTNER_ENTRY (R414). -/
def kprTakePartnerEntryOff (i : Nat) : Nat := 0x21008 + 0x20 * i
/-- KPR_TAKE_SPARE_ENTRY (R414). -/
def kprTakeSpareEntryOff (i : Nat) : Nat := 0x21010 + 0x20 * i
/-- PWR_STATE (R483). -/
def pwrStateOff : Nat := 0x30000
/-- PWR_CAP (R484). -/
def pwrCapOff : Nat := 0x30008
/-- PWR_LEVEL (R485). -/
def pwrLevelOff : Nat := 0x30010
/-- PWR_DROOP (R486). -/
def pwrDroopOff : Nat := 0x30018
/-- PWR_THERM (R487). -/
def pwrThermOff : Nat := 0x30020
/-- PWR_CAL (R488). -/
def pwrCalOff : Nat := 0x30028
/-- PWR_RAIL (R489). -/
def pwrRailOff (i : Nat) : Nat := 0x30100 + 0x8 * i
/-- PWR_TEMP (R490). -/
def pwrTempOff (i : Nat) : Nat := 0x30300 + 0x4 * i
/-- PWR_E_PART (R491). -/
def pwrEPartOff (p : Nat) : Nat := 0x30400 + 0x8 * p
/-- PWR_E_UNATTR (R491). -/
def pwrEUnattrOff : Nat := 0x30420
/-- PWR_E_INPUT (R491). -/
def pwrEInputOff : Nat := 0x30428
/-- PWR_DROOPS (R491). -/
def pwrDroopsOff : Nat := 0x30430
/-- PWR_CAP_NS (R491). -/
def pwrCapNsOff : Nat := 0x30438
/-- PWR_THERM_NS (R491). -/
def pwrThermNsOff : Nat := 0x30440
/-- BOOT_STATUS (R514). -/
def bootStatusOff : Nat := 0x40000
/-- BOOT_FW_RUN (R515). -/
def bootFwRunOff : Nat := 0x40008
/-- BOOT_ROLLBACK (R516). -/
def bootRollbackOff : Nat := 0x40010
/-- BOOT_UPD_ADDR (R517). -/
def bootUpdAddrOff : Nat := 0x40018
/-- BOOT_UPD_LEN (R517). -/
def bootUpdLenOff : Nat := 0x40020
/-- BOOT_UPD_CTRL (R518). -/
def bootUpdCtrlOff : Nat := 0x40028
/-- BOOT_DM_OFFSET (R519). -/
def bootDmOffsetOff : Nat := 0x40030
/-- BOOT_DM_DATA (R519). -/
def bootDmDataOff : Nat := 0x40038
/-- FAB_OP_TMO (R304). -/
def fabOpTmoOff (p : Nat) : Nat := 0x200000 + 0x8 * p
/-- FAB_OP_CTRL (R305). -/
def fabOpCtrlOff : Nat := 0x200020
/-- FAB_CTX_CTRL (R306). -/
def fabCtxCtrlOff : Nat := 0x200028
/-- FAB_CTX_STATUS (R307). -/
def fabCtxStatusOff : Nat := 0x200030
/-- FAB_ERR (R308). -/
def fabErrOff : Nat := 0x200038
/-- FAB_LOST_LAST (R309). -/
def fabLostLastOff : Nat := 0x200040
/-- FAB_GC_CTRL (R310). -/
def fabGcCtrlOff : Nat := 0x200048
/-- FAB_REOPEN (R290). -/
def fabReopenOff : Nat := 0x200050
/-- FAB_RESENDS (R312). -/
def fabResendsOff : Nat := 0x200080
/-- FAB_DUPLICATES (R312). -/
def fabDuplicatesOff : Nat := 0x200088
/-- FAB_STALE (R312). -/
def fabStaleOff : Nat := 0x200090
/-- FAB_BOUNCES_SENT (R312). -/
def fabBouncesSentOff : Nat := 0x200098
/-- FAB_BOUNCES_RECEIVED (R312). -/
def fabBouncesReceivedOff : Nat := 0x2000a0
/-- FAB_LOST (R312). -/
def fabLostOff : Nat := 0x2000a8
/-- FAB_MC_REPAIRS (R312). -/
def fabMcRepairsOff : Nat := 0x2000b0
/-- FAB_DEFLECTIONS (R349). -/
def fabDeflectionsOff : Nat := 0x200200
/-- FAB_FOG_MARKS (R349). -/
def fabFogMarksOff : Nat := 0x200208
/-- FAB_CHECK_DISCARDS (R349). -/
def fabCheckDiscardsOff : Nat := 0x200210
/-- FAB_AGE_DISCARDS (R349). -/
def fabAgeDiscardsOff : Nat := 0x200218
/-- FAB_HOP_DISCARDS (R349). -/
def fabHopDiscardsOff : Nat := 0x200220
/-- FAB_MC_DROPS (R349). -/
def fabMcDropsOff : Nat := 0x200228
/-- FAB_LINK_DISCARDS (R349). -/
def fabLinkDiscardsOff : Nat := 0x200230
/-- FAB_PAR_HDR (R269). -/
def fabParHdrOff : Nat := 0x207000
/-- FAB_PAR_PAYLOAD (R269). -/
def fabParPayloadOff : Nat := 0x207008
/-- FAB_GC_STATUS (R311). -/
def fabGcStatusOff (i : Nat) : Nat := 0x200100 + 0x8 * i
/-- FAB_CC (R350). -/
def fabCcOff : Nat := 0x200300
/-- FAB_EJ_CTRL (R351). -/
def fabEjCtrlOff : Nat := 0x200308
/-- FAB_LL_CTRL (R352). -/
def fabLlCtrlOff : Nat := 0x200310
/-- FAB_NODE (R353). -/
def fabNodeOff : Nat := 0x200318
/-- FAB_ALIAS (R353). -/
def fabAliasOff : Nat := 0x200320
/-- FAB_PORT_CTRL (R346). -/
def fabPortCtrlOff (i : Nat) : Nat := 0x201000 + 0x20 * i
/-- FAB_PORT_STATUS (R347). -/
def fabPortStatusOff (i : Nat) : Nat := 0x201008 + 0x20 * i
/-- FAB_PORT_CORR (R348). -/
def fabPortCorrOff (i : Nat) : Nat := 0x201010 + 0x20 * i
/-- FAB_PORT_UNCORR (R348). -/
def fabPortUncorrOff (i : Nat) : Nat := 0x201018 + 0x20 * i
/-- FAB_INJ_RG (R247). -/
def fabInjRgOff (i p : Nat) : Nat := 0x206000 + 0x40 * i + 0x10 * p
/-- FAB_INJ_RG_CNT (R231). -/
def fabInjRgCntOff (i p : Nat) : Nat := 0x206008 + 0x40 * i + 0x10 * p
/-- FAB_LL_GROUP (R334). -/
def fabLlGroupOff (i j : Nat) : Nat := 0x210000 + 0x8000 * i + 0x8 * j
/-- FAB_LL_LOCAL (R334). -/
def fabLlLocalOff (i j : Nat) : Nat := 0x214000 + 0x8000 * i + 0x8 * j
/-- FAB_MCG (R343). -/
def fabMcgOff (i : Nat) : Nat := 0x300000 + 0x10 * i
/-- FAB_MCG_MASK (R343). -/
def fabMcgMaskOff (i : Nat) : Nat := 0x300008 + 0x10 * i
/-- ME_LONGSUM (R64). -/
def meLongsumOff (n p : Nat) : Nat := 0x400000 + 0x80000 * n + 0x8 * p
/-- ME_VERSION_TMO (R174). -/
def meVersionTmoOff (n p : Nat) : Nat := 0x400040 + 0x80000 * n + 0x8 * p
/-- ME_STATUS (R65). -/
def meStatusOff (n i : Nat) : Nat := 0x401000 + 0x80000 * n + 0x100 * i
/-- ME_ERR (R66). -/
def meErrOff (n i : Nat) : Nat := 0x401008 + 0x80000 * n + 0x100 * i
/-- ME_CTRL (R67). -/
def meCtrlOff (n i : Nat) : Nat := 0x401010 + 0x80000 * n + 0x100 * i
/-- ME_PASSES (R68). -/
def mePassesOff (n i : Nat) : Nat := 0x401018 + 0x80000 * n + 0x100 * i
/-- ME_GATED (R68). -/
def meGatedOff (n i : Nat) : Nat := 0x401020 + 0x80000 * n + 0x100 * i
/-- VE_FLAGS (R120). -/
def veFlagsOff (n p : Nat) : Nat := 0x410000 + 0x80000 * n + 0x8 * p
/-- VE_SPLIT (R121). -/
def veSplitOff (n p : Nat) : Nat := 0x410040 + 0x80000 * n + 0x8 * p
/-- VE_STATUS (R122). -/
def veStatusOff (n i : Nat) : Nat := 0x411000 + 0x80000 * n + 0x100 * i
/-- VE_ERR (R123). -/
def veErrOff (n i : Nat) : Nat := 0x411008 + 0x80000 * n + 0x100 * i
/-- VE_ITERS (R124). -/
def veItersOff (n i : Nat) : Nat := 0x411010 + 0x80000 * n + 0x100 * i
/-- SU_EXCH_TMO (R205). -/
def suExchTmoOff (n p : Nat) : Nat := 0x420000 + 0x80000 * n + 0x8 * p
/-- SU_STATUS (R206). -/
def suStatusOff (n : Nat) : Nat := 0x421000 + 0x80000 * n
/-- SU_ERR (R207). -/
def suErrOff (n : Nat) : Nat := 0x421008 + 0x80000 * n
/-- SU_DROPPED (R208). -/
def suDroppedOff (n : Nat) : Nat := 0x421010 + 0x80000 * n
/-- SU_SPILLED (R208). -/
def suSpilledOff (n : Nat) : Nat := 0x421018 + 0x80000 * n
/-- SU_NAN_SCORES (R208). -/
def suNanScoresOff (n : Nat) : Nat := 0x421020 + 0x80000 * n
/-- SU_UNROUTED (R208). -/
def suUnroutedOff (n : Nat) : Nat := 0x421028 + 0x80000 * n
/-- SU_LATE (R208). -/
def suLateOff (n : Nat) : Nat := 0x421030 + 0x80000 * n
/-- GAL_REGION (R242). -/
def galRegionOff (n i : Nat) : Nat := 0x430000 + 0x80000 * n + 0x8 * i
/-- GAL_ERR (R244). -/
def galErrOff (n : Nat) : Nat := 0x430100 + 0x80000 * n
/-- GAL_DMA_SPARSE (R93). -/
def galDmaSparseOff (n i : Nat) : Nat := 0x433000 + 0x80000 * n + 0x40 * i
/-- GAL_DMA_PRUNED (R94). -/
def galDmaPrunedOff (n i : Nat) : Nat := 0x433008 + 0x80000 * n + 0x40 * i
/-- GAL_XL_RG (R247). -/
def galXlRgOff (n p : Nat) : Nat := 0x434000 + 0x80000 * n + 0x10 * p
/-- GAL_XL_RG_CNT (R231). -/
def galXlRgCntOff (n p : Nat) : Nat := 0x434008 + 0x80000 * n + 0x10 * p
/-- GAL_POOL_BASE (R245). -/
def galPoolBaseOff (p i j : Nat) : Nat := 0x435000 + 0x200 * p + 0x80 * i + 0x20 * j
/-- GAL_POOL_SIZE (R245). -/
def galPoolSizeOff (p i j : Nat) : Nat := 0x435008 + 0x200 * p + 0x80 * i + 0x20 * j
/-- GAL_POOL_FREE (R245). -/
def galPoolFreeOff (p i j : Nat) : Nat := 0x435010 + 0x200 * p + 0x80 * i + 0x20 * j
/-- GAL_POOL_HEAD (R245). -/
def galPoolHeadOff (p i j : Nat) : Nat := 0x435018 + 0x200 * p + 0x80 * i + 0x20 * j
/-- GAL_POOL_SIDE (R246). -/
def galPoolSideOff (p i : Nat) : Nat := 0x435800 + 0x100 * p + 0x40 * i
/-- GAL_POOL_CTRL (R246). -/
def galPoolCtrlOff (p i : Nat) : Nat := 0x435808 + 0x100 * p + 0x40 * i
/-- GAL_POOL_REQ (R246). -/
def galPoolReqOff (p i : Nat) : Nat := 0x435810 + 0x100 * p + 0x40 * i
/-- GAL_POOL_GRANT (R246). -/
def galPoolGrantOff (p i : Nat) : Nat := 0x435818 + 0x100 * p + 0x40 * i
/-- GAL_POOL_RELEASE (R246). -/
def galPoolReleaseOff (p i : Nat) : Nat := 0x435820 + 0x100 * p + 0x40 * i
/-- GAL_POOL_FAILS (R246). -/
def galPoolFailsOff (p i : Nat) : Nat := 0x435828 + 0x100 * p + 0x40 * i
/-- GAL_POOL_DFREE (R246). -/
def galPoolDfreeOff (p i : Nat) : Nat := 0x435830 + 0x100 * p + 0x40 * i
/-- GAL_PAR_REFETCH (R268). -/
def galParRefetchOff (n : Nat) : Nat := 0x436000 + 0x80000 * n
/-- GAL_PAR_POISONED (R268). -/
def galParPoisonedOff (n : Nat) : Nat := 0x436008 + 0x80000 * n
/-- GAL_PAR_PATROL (R268). -/
def galParPatrolOff (n : Nat) : Nat := 0x436010 + 0x80000 * n
/-- GAL_PAR_NETWORK (R268). -/
def galParNetworkOff (n : Nat) : Nat := 0x436018 + 0x80000 * n
/-- GAL_PAR_ACC (R268). -/
def galParAccOff (n : Nat) : Nat := 0x436020 + 0x80000 * n
/-- GAL_SCRUB (R268). -/
def galScrubOff (n : Nat) : Nat := 0x436040 + 0x80000 * n
/-- HBM_OWN (R243). -/
def hbmOwnOff (n i : Nat) : Nat := 0x441000 + 0x80000 * n + 0x8 * i
/-- HBM_RG (R247). -/
def hbmRgOff (n i p : Nat) : Nat := 0x442000 + 0x80000 * n + 0x40 * i + 0x10 * p
/-- HBM_RG_CNT (R231). -/
def hbmRgCntOff (n i p : Nat) : Nat := 0x442008 + 0x80000 * n + 0x40 * i + 0x10 * p
/-- HBM_CE_DEMAND (R264). -/
def hbmCeDemandOff (n i : Nat) : Nat := 0x443000 + 0x80000 * n + 0x40 * i
/-- HBM_CE_PATROL (R264). -/
def hbmCePatrolOff (n i : Nat) : Nat := 0x443008 + 0x80000 * n + 0x40 * i
/-- HBM_UE (R264). -/
def hbmUeOff (n i : Nat) : Nat := 0x443010 + 0x80000 * n + 0x40 * i
/-- HBM_POISON_READ (R264). -/
def hbmPoisonReadOff (n i : Nat) : Nat := 0x443018 + 0x80000 * n + 0x40 * i
/-- HBM_ECC_LAST (R264). -/
def hbmEccLastOff (n i : Nat) : Nat := 0x443020 + 0x80000 * n + 0x40 * i
/-- HBM_SCRUB (R265). -/
def hbmScrubOff (n i : Nat) : Nat := 0x443080 + 0x80000 * n + 0x8 * i
/-- HBM_REMAP_CTRL (R266). -/
def hbmRemapCtrlOff (n i : Nat) : Nat := 0x443100 + 0x80000 * n + 0x8 * i
/-- HBM_REMAP (R267). -/
def hbmRemapOff (n i j k : Nat) : Nat := 0x444000 + 0x80000 * n + 0x1000 * i + 0x40 * j + 0x8 * k
/-- CMD_RING_BASE (R424). -/
def cmdRingBaseOff (f i : Nat) : Nat := 0x1000000 + 0x100000 * f + 0x40 * i
/-- CMD_RING_CFG (R424). -/
def cmdRingCfgOff (f i : Nat) : Nat := 0x1000008 + 0x100000 * f + 0x40 * i
/-- CMD_RING_HEAD (R424). -/
def cmdRingHeadOff (f i : Nat) : Nat := 0x1000010 + 0x100000 * f + 0x40 * i
/-- CMD_RING_TAIL (R424). -/
def cmdRingTailOff (f i : Nat) : Nat := 0x1000014 + 0x100000 * f + 0x40 * i
/-- CMD_RING_SEQ (R424). -/
def cmdRingSeqOff (f i : Nat) : Nat := 0x1000018 + 0x100000 * f + 0x40 * i
/-- CMD_RING_STATUS (R424). -/
def cmdRingStatusOff (f i : Nat) : Nat := 0x1000020 + 0x100000 * f + 0x40 * i
/-- CMD_EV_BASE (R453). -/
def cmdEvBaseOff (f : Nat) : Nat := 0x1000100 + 0x100000 * f
/-- CMD_EV_CFG (R453). -/
def cmdEvCfgOff (f : Nat) : Nat := 0x1000108 + 0x100000 * f
/-- CMD_EV_HEAD (R453). -/
def cmdEvHeadOff (f : Nat) : Nat := 0x1000110 + 0x100000 * f
/-- CMD_EV_TAIL (R453). -/
def cmdEvTailOff (f : Nat) : Nat := 0x1000114 + 0x100000 * f
/-- CMD_EV_LOST (R453). -/
def cmdEvLostOff (f : Nat) : Nat := 0x1000118 + 0x100000 * f
/-- CMD_DB (R462). -/
def cmdDbOff (f i : Nat) : Nat := 0x1001000 + 0x100000 * f + 0x8 * i
/-- CMD_MBOX (R446). -/
def cmdMboxOff (f i : Nat) : Nat := 0x1002000 + 0x100000 * f + 0x100 * i
/-- CMD_MBOX_DATA (R446). -/
def cmdMboxDataOff (f i j : Nat) : Nat := 0x1002008 + 0x100000 * f + 0x100 * i + 0x8 * j
/-- CMD_MBOX_ACK (R462). -/
def cmdMboxAckOff (f : Nat) : Nat := 0x1003000 + 0x100000 * f
/-- MSIX_ADDR (R423). -/
def msixAddrOff (f i : Nat) : Nat := 0x1008000 + 0x100000 * f + 0x10 * i
/-- MSIX_DATA (R423). -/
def msixDataOff (f i : Nat) : Nat := 0x1008008 + 0x100000 * f + 0x10 * i
/-- MSIX_CTRL (R423). -/
def msixCtrlOff (f i : Nat) : Nat := 0x100800c + 0x100000 * f + 0x10 * i
/-- MSIX_PBA (R423). -/
def msixPbaOff (f i : Nat) : Nat := 0x100c000 + 0x100000 * f + 0x8 * i

end Sys2Proof.Machine
end

