-- ==== Sys2Proof/Machine/Ops.lean ====
section
/-! DEFINITION. The named operations over registers, states, output, host memory, events, the address map,
stored memory with its checks and poison, version tags, and commands, which every meaning is written with
(chapters 09, 10, 15 and R156, R157, R543). -/

namespace Sys2Proof.Machine

/-! ## Named codes -/

/-- Module states (R440). -/
abbrev mOff : Nat := 0
/-- RESET. -/
abbrev mReset : Nat := 1
/-- BOOT. -/
abbrev mBoot : Nat := 2
/-- STANDBY. -/
abbrev mStandby : Nat := 3
/-- READY. -/
abbrev mReady : Nat := 4
/-- RUN. -/
abbrev mRun : Nat := 5
/-- HELD. -/
abbrev mHeld : Nat := 6
/-- PROTECT. -/
abbrev mProtect : Nat := 7
/-- FAULT. -/
abbrev mFault : Nat := 8

/-- Job states (R442). -/
abbrev jClosed : Nat := 0
/-- RUN. -/
abbrev jRun : Nat := 1
/-- HELD. -/
abbrev jHeld : Nat := 2
/-- HELD_REPLAN. -/
abbrev jReplan : Nat := 3
/-- FAULT. -/
abbrev jFault : Nat := 4

/-- Statuses (R433). -/
abbrev stOk : Nat := 0
/-- Malformed. -/
abbrev stMalformed : Nat := 1
/-- Not legal in the present state. -/
abbrev stState : Nat := 2
/-- Out of bounds. -/
abbrev stBounds : Nat := 3
/-- Poison consumed. -/
abbrev stPoison : Nat := 4
/-- Version timeout. -/
abbrev stVersionTimeout : Nat := 5
/-- Version passed. -/
abbrev stVersionPassed : Nat := 6
/-- Sparse structure. -/
abbrev stSparseStruct : Nat := 7
/-- No buffer. -/
abbrev stNoBuffer : Nat := 8
/-- No context. -/
abbrev stNoContext : Nat := 9
/-- No route. -/
abbrev stNoRoute : Nat := 10
/-- Target lost. -/
abbrev stTargetLost : Nat := 11
/-- Datapath. -/
abbrev stDatapath : Nat := 12
/-- Reduction timeout. -/
abbrev stReduceTimeout : Nat := 13
/-- Exchange timeout. -/
abbrev stExchTimeout : Nat := 14
/-- Plan mismatch. -/
abbrev stPlanMismatch : Nat := 15
/-- Gate failed. -/
abbrev stGateFail : Nat := 16
/-- No gate. -/
abbrev stNoGate : Nat := 17
/-- Skipped. -/
abbrev stSkipped : Nat := 18
/-- Stale gradient. -/
abbrev stStaleGradient : Nat := 19
/-- Abandoned. -/
abbrev stAbandoned : Nat := 20
/-- Flag timeout. -/
abbrev stFlagTimeout : Nat := 21
/-- Mailbox busy. -/
abbrev stMailboxBusy : Nat := 22

/-- Events (R452). -/
abbrev evRingError : Nat := 0x0001
/-- Events lost. -/
abbrev evEventsLost : Nat := 0x0002
/-- BAR2 bounds. -/
abbrev evBarBounds : Nat := 0x0003
/-- State change. -/
abbrev evStateChange : Nat := 0x0004
/-- Scale replay. -/
abbrev evScaleReplay : Nat := 0x0010
/-- Scale replay limit. -/
abbrev evScaleReplayLimit : Nat := 0x0011
/-- Step skipped. -/
abbrev evStepSkipped : Nat := 0x0012
/-- Stale gradient. -/
abbrev evStaleGradient : Nat := 0x0013
/-- Reduction timeout. -/
abbrev evReduceTimeout : Nat := 0x0100
/-- Duplicate contribution. -/
abbrev evReduceDup : Nat := 0x0101
/-- Plan mismatch. -/
abbrev evPlanMismatch : Nat := 0x0200
/-- Late parcel. -/
abbrev evExchLate : Nat := 0x0201
/-- Exchange timeout. -/
abbrev evExchTimeout : Nat := 0x0202
/-- Pool exhausted. -/
abbrev evPoolExhausted : Nat := 0x0300
/-- Bad free. -/
abbrev evPoolBadFree : Nat := 0x0301
/-- Double free. -/
abbrev evPoolDoubleFree : Nat := 0x0302
/-- Pool corrupt. -/
abbrev evPoolCorrupt : Nat := 0x0303
/-- Poison consumed. -/
abbrev evPoisonConsumed : Nat := 0x0310
/-- HBM row remapped. -/
abbrev evHbmRemap : Nat := 0x0311
/-- Remap table full. -/
abbrev evRemapFull : Nat := 0x0312
/-- Target lost. -/
abbrev evTargetLost : Nat := 0x0400
/-- Flow-context parity. -/
abbrev evCtxParity : Nat := 0x0401
/-- Slow peer. -/
abbrev evSlowPeer : Nat := 0x0500
/-- Mirror in the same tray. -/
abbrev evMirrorSameTray : Nat := 0x0501
/-- False suspicion. -/
abbrev evKeeperFalseSuspect : Nat := 0x0502
/-- Mirror lost. -/
abbrev evMirrorLost : Nat := 0x0503
/-- Keeper fatal. -/
abbrev evKeeperFatal : Nat := 0x0504
/-- Takeover. -/
abbrev evKeeperTakeover : Nat := 0x0505
/-- Replan. -/
abbrev evKeeperReplan : Nat := 0x0506
/-- Journal full. -/
abbrev evJournalFull : Nat := 0x0507
/-- Retired. -/
abbrev evRetired : Nat := 0x0508

/-- The consuming blocks of R258, which gives them no code: the code in EV_POISON_CONSUMED is a free value of this number
(assumption 24). A matrix engine. -/
abbrev blkMe : Nat := 0
/-- A vector engine. -/
abbrev blkVe : Nat := 1
/-- A sector unit. -/
abbrev blkSu : Nat := 2
/-- An atomic or reduction at a slice. -/
abbrev blkAtomic : Nat := 3
/-- A DMA engine. -/
abbrev blkDma : Nat := 4
/-- The command controller. -/
abbrev blkCmd : Nat := 5
/-- A gradient channel. -/
abbrev blkGc : Nat := 6
/-- A read of the host through BAR2. -/
abbrev blkHost : Nat := 7

/-! ## Registers -/

/-- The value register offset `off` holds. -/
def State.reg (s : State) (off : Nat) : W64 := tblGet regReset s.regs off

/-- Put a value into a register, whatever its access codes: the hardware's own write. -/
def State.setReg (s : State) (off : Nat) (v : W64) : State := { s with regs := tblSet regReset s.regs off v }

/-- A field of a register, bits [hi:lo]. -/
def State.fld (s : State) (off hi lo : Nat) : Nat := bitsOf (s.reg off).toNat hi lo

/-- Set a field of a register. -/
def State.setFld (s : State) (off hi lo x : Nat) : State :=
  s.setReg off (BitVec.ofNat 64 (setBits (s.reg off).toNat hi lo x))

/-- Set one bit of a register. -/
def State.setBit (s : State) (off i : Nat) : State := s.setFld off i i 1

/-- One bit of a register. -/
def State.bit (s : State) (off i : Nat) : Bool := bitOf (s.reg off).toNat i

/-- Advance a 64-bit counter, which wraps at 2^64. -/
def State.count (s : State) (off : Nat) (n : Nat := 1) : State :=
  if n = 0 then s else s.setReg off (s.reg off + BitVec.ofNat 64 n)

/-- The module state (R440, R456). -/
def State.modState (s : State) : Nat := s.fld modStateOff 3 0

/-- A partition's job state (R442, R461). -/
def State.jobState (s : State) (p : Nat) : Nat := s.fld (cmdJobStateOff p) 2 0

/-- A STEP_PLAN is in force in the partition (R461). -/
def State.planOn (s : State) (p : Nat) : Bool := s.bit (cmdJobStateOff p) 4

/-- The open job's deterministic mode (R461). -/
def State.determ (s : State) (p : Nat) : Bool := s.bit (cmdJobStateOff p) 3

/-! ## Records of the state by key -/

/-- A partition's job record with nothing in it. -/
def Job.empty : Job :=
  { holdByHost := false, plan := none, closing := none, heldPlan := none, gate := none, stepTrip := false,
    replayTry := false, marked := [], overLimit := false, drain := [], tripSeq := none, tripped := [],
    stepStart := 0, waitStart := [], poolSeen := [], slotTabs := [], lastPlan := none, lastGate := 0,
    lastNorm := 0, lastWait := [] }

/-- A partition's job record. -/
def State.job (s : State) (p : Nat) : Job := tblGet (fun _ => Job.empty) s.jobs p

/-- Replace a partition's job record. -/
def State.setJob (s : State) (p : Nat) (j : Job) : State :=
  { s with jobs := tblSet (fun _ => Job.empty) s.jobs p j }

/-- Change a partition's job record. -/
def State.onJob (s : State) (p : Nat) (f : Job → Job) : State := s.setJob p (f (s.job p))

/-- A function right after reset: D0, MSI-X disabled (assumption 2), BAR2 of 1 TiB (assumption 6). -/
def FuncState.empty : FuncState :=
  { d3hot := false, bar2 := 40, msixEn := false, msixMask := false, evArm := false, evLost := 0 }

/-- A function's record. -/
def State.func (s : State) (f : Nat) : FuncState := tblGet (fun _ => FuncState.empty) s.funcs f

/-- Change a function's record. -/
def State.onFunc (s : State) (f : Nat) (g : FuncState → FuncState) : State :=
  { s with funcs := tblSet (fun _ => FuncState.empty) s.funcs f (g (s.func f)) }

/-- A partition's Keeper record with nothing in it. -/
def KeeperPart.empty : KeeperPart :=
  { takeovers := [], ownerSteps := [], release := none, replan := false, pull := none, sendRecs := [], mirHeld := [],
    mirAt := none, recDone := [], sendStep := none, skipped := none, mirrored := [],
    jHead := 0, jCount := 0, seqHi := 0, jSteps := [], jRecs := [], jLost := [], slow := [], slowRun := 0, slowOwn := [], replayRecs := [],
    replayGate := none, replayStep := none, diag := false, notices := [], answered := [], mirrorLost := false,
    sameTray := false, retireAck := false }

/-- A partition's Keeper record. -/
def State.kpart (s : State) (p : Nat) : KeeperPart := tblGet (fun _ => KeeperPart.empty) s.keeper.parts p

/-- Change a partition's Keeper record. -/
def State.onKpart (s : State) (p : Nat) (g : KeeperPart → KeeperPart) : State :=
  { s with keeper := { s.keeper with
      parts := tblSet (fun _ => KeeperPart.empty) s.keeper.parts p (g (s.kpart p)) } }

/-! ## Output and host memory -/

/-- Something leaves the module. -/
def State.emit (s : State) (o : Output) : State := { s with out := s.out ++ [o] }

/-- What host memory reads as where nothing has been written (assumption 4). -/
def hostDefault : Nat → Byte := fun _ => 0#8

/-- Read host memory; addresses wrap at 2^64. -/
def State.hostRead (s : State) (a n : Nat) : List Byte := tblRead hostDefault s.hostMem (a % 2 ^ 64) n

/-- Write host memory; addresses wrap at 2^64. -/
def State.hostWrite (s : State) (a : Nat) (bs : List Byte) : State :=
  { s with hostMem := tblPut hostDefault s.hostMem (a % 2 ^ 64) bs }

/-- MSI-X vectors of a function: 256 for the PF, 448 for each VF (R417). -/
def msixVectors (f : Nat) : Nat := if f = 0 then 256 else 448

/-- Signal a function's MSI-X vector (R417): the message leaves when MSI-X is enabled and neither the
function nor the vector is masked, and is held in the pending bit array otherwise (assumption 2). -/
def State.msix (s : State) (f vec : Nat) : State :=
  if h : f < 5 then
    if msixVectors f ≤ vec then s
    else
      let fs := s.func f
      if fs.msixEn && !fs.msixMask && !s.bit (msixCtrlOff f vec) 0 then s.emit (.msix ⟨f, h⟩ vec)
      else s.setBit (msixPbaOff f (vec / 64)) (vec % 64)
  else s

/-! ## Events (R450, R451, R513) -/

/-- The 32 bytes of an event record (R450). -/
def EventRec.bytes (e : EventRec) : List Byte :=
  let p := match e.part with
    | some p => p.val
    | none => 4
  natLe 8 (e.code + p * 2 ^ 16 + e.step.toNat * 2 ^ 32) ++ natLe 8 e.time.toNat ++ natLe 8 e.arg0.toNat
    ++ natLe 8 e.arg1.toNat

/-- Ring sizes: 2^LOG2, LOG2 from 6 to 16 (R424, R453). -/
def ringSize (log2 : Nat) : Nat := 2 ^ (Nat.max 6 (Nat.min 16 log2))

/-- Records in a function's event ring. -/
def State.evUsed (s : State) (f : Nat) : Nat :=
  (s.fld (cmdEvTailOff f) 31 0 + 2 ^ 32 - s.fld (cmdEvHeadOff f) 31 0) % 2 ^ 32

/-- The event ring has room. -/
def State.evRoom (s : State) (f : Nat) : Bool := decide (s.evUsed f < ringSize (s.fld (cmdEvCfgOff f) 20 16))

/-- Write one record and advance TAIL; signal VECTOR when the ring was empty, and at the write after the
host has advanced HEAD (R451; assumption 11, DEDUCED). -/
def State.evPut (s : State) (f : Nat) (e : EventRec) : State :=
  let tail := s.fld (cmdEvTailOff f) 31 0
  let n := ringSize (s.fld (cmdEvCfgOff f) 20 16)
  let base := (s.reg (cmdEvBaseOff f)).toNat / 32 * 32
  let sig := decide (s.evUsed f = 0) || (s.func f).evArm
  let s := s.hostWrite (base + 32 * (tail % n)) e.bytes
  let s := s.setFld (cmdEvTailOff f) 31 0 (tail + 1)
  let s := s.onFunc f fun fs => { fs with evArm := false }
  if sig then s.msix f (s.fld (cmdEvCfgOff f) 10 0) else s

/-- The step in force in a partition, or 0 (R450). -/
def State.stepOf (s : State) (p : Option Part) : W32 :=
  match p with
  | some p => (s.job p.val).plan.elim 0 (·.step)
  | none => 0

/-- An EV_EVENTS_LOST record with its count (R451). -/
def lostRec (s : State) (n : Nat) : EventRec :=
  { code := evEventsLost, part := none, step := 0, time := s.reg modTimeOff, arg0 := BitVec.ofNat 64 n,
    arg1 := 0 }

/-- When space is free, write the EV_EVENTS_LOST record that is owed (R451). -/
def State.evFlush (s : State) (f : Nat) : State :=
  if s.bit (cmdEvCfgOff f) 31 && s.evRoom f && decide (0 < (s.func f).evLost) then
    (s.evPut f (lostRec s (s.func f).evLost)).onFunc f fun fs => { fs with evLost := 0 }
  else s

/-- Deliver a record to one function's event ring: counted in LOST when the ring is full, dropped when the
ring is not in use (R451, R453). -/
def State.evDeliver (s : State) (f : Nat) (e : EventRec) : State :=
  if !s.bit (cmdEvCfgOff f) 31 then s
  else
    let s := s.evFlush f
    if s.evRoom f then s.evPut f e
    else (s.count (cmdEvLostOff f)).onFunc f fun fs => { fs with evLost := fs.evLost + 1 }

/-- A subscribed management endpoint is sent an event (R454), in a form the spec leaves open (assumption 51). -/
def State.mgmtEvent (s : State) (e : EventRec) : State :=
  [Transport.pcie, Transport.smbus].foldl (fun s tp =>
    if ((keyGet s.mgmt (if tp = .pcie then 0 else 1)).map (·.subscribed)).getD false then
      s.emit (.mctp tp (Config.mgmtAnswer 0x7E e.bytes s.out.length))
    else s) s

/-- Deliver a record to the PF event ring. Before that ring is first enabled, up to eight are held and the rest are
counted (R513). -/
def State.evPf (s : State) (e : EventRec) : State :=
  if s.evOpen then s.evDeliver 0 e
  else if s.heldEv.length < 8 then { s with heldEv := s.heldEv ++ [e] }
  else { s with heldLost := s.heldLost + 1 }

/-- Raise an event: to the partition's VF ring and the PF ring, or to the PF ring alone (R450) and to the management
endpoints that have subscribed (R454). -/
def State.raise (s : State) (code : Nat) (p : Option Part) (arg0 : Nat := 0) (arg1 : Nat := 0) : State :=
  let e : EventRec :=
    { code := code, part := p, step := s.stepOf p, time := s.reg modTimeOff, arg0 := BitVec.ofNat 64 arg0,
      arg1 := BitVec.ofNat 64 arg1 }
  match p with
  | some p => (s.evDeliver (p.val + 1) e).evPf e
  | none => (s.evPf e).mgmtEvent e

/-- Enter a module state and raise EV_STATE_CHANGE with the old and the new state (R441; assumption 12, DEDUCED). -/
def State.enterMod (s : State) (m : Nat) : State :=
  if s.modState = m then s else (s.setFld modStateOff 3 0 m).raise evStateChange none s.modState m

/-- READY, RUN and HELD follow the job states (R440): a HELD_REPLAN job counts as held (assumption 13). -/
def State.syncMod (s : State) : State :=
  if s.modState = mReady ∨ s.modState = mRun ∨ s.modState = mHeld then
    let js := [0, 1, 2, 3].map s.jobState
    s.enterMod (if js.contains jRun then mRun
      else if js.contains jHeld || js.contains jReplan then mHeld else mReady)
  else s

/-- Put a partition's job into a state (R442). -/
def State.setJobState (s : State) (p : Part) (j : Nat) : State :=
  (s.setFld (cmdJobStateOff p.val) 2 0 j).syncMod

/-! ## The address map (R209 to R214) -/

/-- The windows of the module-local map (R209), the reserved flow-context area apart (R213). -/
inductive Window where
  | hbm | gallery | reserved | regs | unmapped
  deriving DecidableEq, Repr

/-- Base of the gallery window. -/
abbrev galBase : Nat := 0x100000000000
/-- Bytes of one slice. -/
abbrev sliceBytes : Nat := 0xC0000000

/-- The window of a local offset. -/
def windowOf (a : Nat) : Window :=
  if a < 0xC000000000 then .hbm
  else if a < galBase then .unmapped
  else if a < 0x1005FC000000 then .gallery
  else if a < 0x100600000000 then .reserved
  else if a < 0x200000000000 then .unmapped
  else if a < 0x1000000000000 then .regs
  else .unmapped

/-- Where an HBM offset lies (R211): lantern, controller of the lantern, pseudo-channel, line in it. -/
structure HbmLoc where
  lan  : Nat
  ctl  : Nat
  pc   : Nat
  line : Nat
  deriving DecidableEq, Repr

/-- hbm_decode (R211). -/
def hbmDecode (a : Nat) : HbmLoc :=
  let n := a / 0x1800000000
  let l := (a - n * 0x1800000000) / 128
  let pcg := l % 128
  ⟨n, pcg / 64, pcg % 64, l / 128⟩

/-- The granule of an HBM offset in its lantern (R211). -/
def hbmGran (a : Nat) : Nat := (a % 0x1800000000) / 0x40000000

/-- The slice of a gallery offset (R212). -/
def galSlice (a : Nat) : Nat := (a - galBase) / sliceBytes
/-- The region of a gallery offset in its slice (R212). -/
def galRegion (a : Nat) : Nat := (a - galBase) % sliceBytes / 0x10000000

/-- The home lantern of an offset (R327 for the other windows: assumption 14). -/
def homeLan (a : Nat) : Nat :=
  match windowOf a with
  | .hbm => (hbmDecode a).lan
  | .gallery | .reserved => galSlice a
  | _ => 0

/-- The byte lies in the partition's memory regions (R214). -/
def State.owns (s : State) (p a : Nat) : Bool :=
  match windowOf a with
  | .hbm =>
    let r := hbmOwnOff (a / 0x1800000000) (hbmGran a)
    s.bit r 2 && decide (s.fld r 1 0 = p)
  | .gallery =>
    let r := galRegionOff (galSlice a) (galRegion a)
    !s.bit r 0 && decide (s.fld r 3 2 = p)
  | _ => false

/-- The byte lies in a gallery scratchpad region of the partition. -/
def State.ownsGallery (s : State) (p a : Nat) : Bool := decide (windowOf a = .gallery) && s.owns p a

/-- The first byte of `[a, a + n)` that the test refuses; the answer can change only at multiples of
64 MiB. -/
def firstRefusedFrom (ok : Nat → Bool) : Nat → Nat → Nat → Option Nat
  | 0, _, _ => none
  | k + 1, a, e =>
    if e ≤ a then none
    else if ok a then firstRefusedFrom ok k ((a / 0x4000000 + 1) * 0x4000000) e
    else some a

/-- The first byte of `[a, a + n)` outside the partition's regions, if any (R215). -/
def State.refused (s : State) (p a n : Nat) : Option Nat :=
  firstRefusedFrom (s.owns p) (n / 0x4000000 + 2) a (a + n)

/-- The first byte of `[a, a + n)` outside the partition's gallery scratchpad, if any. -/
def State.refusedGal (s : State) (p a n : Nat) : Option Nat :=
  firstRefusedFrom (s.ownsGallery p) (n / 0x4000000 + 2) a (a + n)

/-- A partition's own node number (R543): FAB_NODE.NODE, or FAB_ALIAS.NODE while its VALID is 1 in a Keeper-enabled
partition (R388), unless the module answers for that node as its partner, which keeps its own number (R393;
assumption 120). -/
def State.ownNode (s : State) (p : Nat) : Nat :=
  let a := s.fld fabAliasOff 15 0
  if s.bit fabAliasOff 16 && s.bit (kprCtrlOff p) 0 && decide (s.keeper.served ≠ some (BitVec.ofNat 16 a)) then a
  else s.fld fabNodeOff 15 0

/-- A local pointer field's offset; nothing when its node field is neither 0 nor the partition's own node (R543). -/
def State.localPtr (s : State) (p v : Nat) : Option Nat :=
  let nd := bitsOf v 63 48
  if nd = 0 ∨ nd = s.ownNode p then some (v % 2 ^ 48) else none

/-- The global address of a partition's local offset. -/
def State.globalOf (s : State) (p a : Nat) : W64 := BitVec.ofNat 64 (s.ownNode p * 2 ^ 48 + a % 2 ^ 48)

/-! ## Stored data (R248 to R262) -/

/-- A byte with the poison mark it carries. -/
abbrev PByte := Byte × Bool

/-- Bytes without poison. -/
def clean (bs : List Byte) : List PByte := bs.map fun b => (b, false)

/-- The plain bytes. -/
def plain (bs : List PByte) : List Byte := bs.map (·.1)

/-- Some byte is poisoned. -/
def anyPoison (bs : List PByte) : Bool := bs.any (·.2)

/-- What memory reads as where nothing has been written (R218, R493; assumption 3). -/
def memDefault : Nat → Byte := fun _ => 0#8

/-- Metadata of a sector with correct check bits. -/
def SectorMeta.clean : SectorMeta := ⟨0, 0⟩

/-- The tag of a granule that holds no complete version (R156). -/
def TagState.none : TagState := ⟨0xFFFF#16, 0xFFFF#16, 0, false⟩

/-- The canonical form of the memory. -/
def Memory.wf (m : Memory) : Bool :=
  tblWf memDefault m.cells && tblWf (fun _ => SectorMeta.clean) m.sectors &&
    tblWf (fun _ => TagState.none) m.tags

/-- The index of a pseudo-channel in the module. -/
def HbmLoc.pcIx (h : HbmLoc) : Nat := (h.lan * 2 + h.ctl) * 64 + h.pc
/-- The row of a line in its pseudo-channel (R261). -/
def HbmLoc.row (h : HbmLoc) : Nat := h.line / 8

/-- The valid remap word that redirects a row, if any (R261). -/
def State.remapOf (s : State) (h : HbmLoc) : Option Nat :=
  (List.range 8).find? fun w =>
    let r := hbmRemapOff h.lan h.ctl h.pc w
    s.bit r 31 && decide (s.fld r 19 0 = h.row)

/-- Where a sector is stored: its own place, or the spare row that a remap word redirects its row to (R261);
spare rows have keys from 2^48 up. -/
def State.physSector (s : State) (sec : Nat) : Nat :=
  let a := sec * 32
  if a < 0xC000000000 then
    let h := hbmDecode a
    match s.remapOf h with
    | some w => (2 ^ 48 + (h.pcIx * 8 + w) * 1024 + h.line % 8 * 128 + a % 128) / 32
    | none => sec
  else sec

/-- The stored bytes of a stored sector. -/
def Memory.data (m : Memory) (k : Nat) : List Byte := tblRead memDefault m.cells (k * 32) 32

/-- The metadata of a stored sector. -/
def Memory.meta (m : Memory) (k : Nat) : SectorMeta := tblGet (fun _ => SectorMeta.clean) m.sectors k

/-- Store a sector's bytes from byte `i` on, and its metadata. -/
def Memory.put (m : Memory) (k i : Nat) (bs : List Byte) (md : SectorMeta) : Memory :=
  { m with cells := tblPut memDefault m.cells (k * 32 + i) bs,
           sectors := tblSet (fun _ => SectorMeta.clean) m.sectors k md }

/-- The metadata of a whole sector written with or without the poison mark (R251, R253). -/
def metaFor (hbm poison : Bool) : SectorMeta :=
  if poison then (if hbm then ⟨poisonDelta, 0⟩ else ⟨0, 3⟩) else SectorMeta.clean

/-- What a burst decodes to (R251): data, poison. -/
def eccDeliver (data : List Byte) (md : SectorMeta) : List Byte × Bool :=
  let fix := fun i e => if i < 32 then data.set i (data.getD i 0 ^^^ BitVec.ofNat 8 e) else data
  match eccClass md.delta with
  | .clean => (data, false)
  | .corrected i e => (fix i e, false)
  | .poisoned => (data, true)
  | .poisonedCorrected i e => (fix i e, true)
  | .uncorrectable => (data, true)

/-- Copy one sector of a row into the spare row with fresh check symbols (R262, step 2). -/
def Memory.respare (m : Memory) (src dst : Nat) : Memory :=
  let (d, p) := eccDeliver (m.data src) (m.meta src)
  m.put dst 0 d (metaFor true p)

/-- Promote a row into the remap table (R262); `ue` when an uncorrectable error caused it. -/
def State.promote (s : State) (h : HbmLoc) (ue : Bool) : State :=
  match (List.range 8).find? fun w => !s.bit (hbmRemapOff h.lan h.ctl h.pc w) 31 with
  | some w =>
    let rowBase := h.lan * 0x1800000000 + (h.row * 8 * 128 + h.ctl * 64 + h.pc) * 128
    let m := (List.range 32).foldl (fun m i =>
      let src := (rowBase + i / 4 * 16384 + i % 4 * 32) / 32
      m.respare src ((2 ^ 48 + (h.pcIx * 8 + w) * 1024 + i / 4 * 128 + i % 4 * 32) / 32)) s.mem
    let s := { s with mem := m }
    let s := s.setReg (hbmRemapOff h.lan h.ctl h.pc w)
      (BitVec.ofNat 64 (2 ^ 31 + (if ue then 2 ^ 30 else 0) + h.row))
    s.raise evHbmRemap none
  | none =>
    let s := s.setBit (hbmRemapCtrlOff h.lan h.ctl) 5
    if s.prot.remapFull.contains h.pcIx then s
    else { s with prot := { s.prot with remapFull := s.prot.remapFull ++ [h.pcIx] } }.raise evRemapFull none

/-- A pseudo-channel's tracker (R261). -/
def State.tracker (s : State) (h : HbmLoc) : List TrackEntry :=
  tblGet (fun _ => ([] : List TrackEntry)) s.prot.trackers h.pcIx

/-- Replace a pseudo-channel's tracker. -/
def State.setTracker (s : State) (h : HbmLoc) (t : List TrackEntry) : State :=
  { s with prot := { s.prot with trackers := tblSet (fun _ => []) s.prot.trackers h.pcIx t } }

/-- The tracker entry that a new row takes: the one with the lowest count, the oldest on a tie; entries stand
in the order in which they were taken, oldest first (R261). -/
def takeEntry (t : List TrackEntry) (row : Nat) : List TrackEntry :=
  if t.length < 4 then t ++ [⟨row, 1, false⟩]
  else
    let low := t.foldl (fun m e => Nat.min m e.count) (t.headD ⟨0, 0, false⟩).count
    let i := (t.findIdx? fun e => e.count == low).getD 0
    t.eraseIdx i ++ [⟨row, 1, false⟩]

/-- A correctable error at a row: counted as an event when the row has no entry, or has been written since
its last event; a promotion when the count reaches THRESH and AUTO is set (R261). -/
def State.trackCe (s : State) (h : HbmLoc) : State :=
  let t := s.tracker h
  let t' : List TrackEntry :=
    match t.find? fun e => e.row == h.row with
    | none => takeEntry t h.row
    | some e =>
      if e.written then t.map fun x => if x.row = h.row then ⟨x.row, x.count + 1, false⟩ else x else t
  let s' := s.setTracker h t'
  let ctl := hbmRemapCtrlOff h.lan h.ctl
  let n := ((t'.find? fun e => e.row == h.row).map (·.count)).getD 0
  if (t' != t) && decide (Nat.max 1 (s.fld ctl 3 0) ≤ n) && s.bit ctl 4 && (s.remapOf h).isNone then
    s'.promote h false
  else s'

/-- A write to a line sets the written bit of its row's tracker entry (R261). -/
def State.trackWrite (s : State) (h : HbmLoc) : State :=
  let t := s.tracker h
  if t.any fun e => e.row == h.row then
    s.setTracker h (t.map fun e => if e.row = h.row then { e with written := true } else e)
  else s

/-- Record a CE or UE in HBM_ECC_LAST (R264). -/
def State.eccLast (s : State) (h : HbmLoc) (sec kind sym : Nat) (patrol : Bool) : State :=
  s.setReg (hbmEccLastOff h.lan h.ctl) (BitVec.ofNat 64 (kind * 2 ^ 62 + (if patrol then 2 ^ 61 else 0) +
    h.pc * 2 ^ 55 + h.line % 2 ^ 23 * 2 ^ 32 + sec % 4 * 2 ^ 24 + sym * 2 ^ 16))

/-- What reading a burst counts and starts (R251, R261, R264): counters, HBM_ECC_LAST, tracker, promotion. -/
def State.eccNote (s : State) (h : HbmLoc) (sec : Nat) (c : EccClass) (patrol : Bool) : State :=
  let ce := if patrol then hbmCePatrolOff h.lan h.ctl else hbmCeDemandOff h.lan h.ctl
  match c with
  | .clean => s
  | .poisoned => s.count (hbmPoisonReadOff h.lan h.ctl)
  | .corrected i _ => ((s.count ce).eccLast h sec 1 i patrol).trackCe h
  | .poisonedCorrected i _ =>
    (((s.count ce).count (hbmPoisonReadOff h.lan h.ctl)).eccLast h sec 3 i patrol).trackCe h
  | .uncorrectable =>
    let s := (s.count (hbmUeOff h.lan h.ctl)).eccLast h sec 2 0xFF patrol
    if s.bit (hbmRemapCtrlOff h.lan h.ctl) 4 && (s.remapOf h).isNone then s.promote h true else s

/-- Read one sector by its number: the data delivered, its poison, and the state with what the read counted
or marked (R251, R253). -/
def State.readSector (s : State) (sec : Nat) : (List Byte × Bool) × State :=
  let k := s.physSector sec
  let d := s.mem.data k
  let md := s.mem.meta k
  if md = SectorMeta.clean then ((d, false), s)
  else if sec * 32 < 0xC000000000 then
    (eccDeliver d md, s.eccNote (hbmDecode (sec * 32)) sec (eccClass md.delta) false)
  else if md.delta = 0 then ((d, true), s)
  else if md.poison = 0 then
    let s := { s with mem := s.mem.put k 0 [] { md with poison := 3 } }
    ((d, true), s.count (galParPoisonedOff (galSlice (sec * 32))))
  else ((d, true), s)

/-- Read `n` bytes from local offset `a`, sector by sector. -/
def State.readFrom : Nat → State → Nat → Nat → List PByte × State
  | 0, s, _, _ => ([], s)
  | k + 1, s, a, n =>
    if n = 0 then ([], s)
    else
      let i := a % 32
      let m := Nat.min n (32 - i)
      let ((d, p), s) := s.readSector (a / 32)
      let (rest, s) := State.readFrom k s (a + m) (n - m)
      (((d.drop i).take m).map (fun b => (b, p)) ++ rest, s)

/-- Read `n` bytes from local offset `a`: each byte with its sector's poison mark (R256). -/
def State.readMem (s : State) (a n : Nat) : List PByte × State := State.readFrom (n / 32 + 2) s a n

/-- Write part of one sector (R252, R253): a write of all 32 bytes clears the poison and stores fresh check
bits; a partial write merges, and keeps or sets the poison. In HBM it reads the burst first, unless the line is in the
cache (`hit`), where it merges in the slice (R220); the write of the row comes after that read (R261). -/
def State.writeSector (s : State) (hit : Bool) (a : Nat) (bs : List PByte) : State :=
  let sec := a / 32
  let i := a % 32
  if a < 0xC000000000 then
    if bs.length = 32 then
      let s := s.trackWrite (hbmDecode a)
      { s with mem := s.mem.put (s.physSector sec) 0 (plain bs) (metaFor true (anyPoison bs)) }
    else
      let ((d, p), s') := s.readSector sec
      let s := (if hit then s else s').trackWrite (hbmDecode a)
      let d' := d.take i ++ plain bs ++ d.drop (i + bs.length)
      { s with mem := s.mem.put (s.physSector sec) 0 d' (metaFor true (p || anyPoison bs)) }
  else if bs.length = 32 then
    { s with mem := s.mem.put sec 0 (plain bs) (metaFor false (anyPoison bs)) }
  else
    let md := s.mem.meta sec
    let mask := BitVec.ofNat 32 ((2 ^ bs.length - 1) * 2 ^ i)
    let md : SectorMeta := ⟨md.delta &&& ~~~mask, if anyPoison bs then 3 else md.poison⟩
    { s with mem := s.mem.put sec i (plain bs) md }

/-- Write bytes from local offset `a`, sector by sector. -/
def State.writeFrom : Nat → State → Bool → Nat → List PByte → State
  | 0, s, _, _, _ => s
  | k + 1, s, hit, a, bs =>
    match bs with
    | [] => s
    | _ =>
      let m := 32 - a % 32
      State.writeFrom k (s.writeSector hit a (bs.take m)) hit (a + m) (bs.drop m)

/-- Write bytes from local offset `a`: a destination sector becomes poisoned when any byte written into it
is (R256). Tags are not touched. -/
def State.writeMem (s : State) (a : Nat) (bs : List PByte) : State :=
  State.writeFrom (bs.length / 32 + 2) s false a bs

/-! ## Version tags (R156, R157) -/

/-- The tag record of the 32 KiB granule that holds an offset: a tag that fails its parity reads as 0xFFFF (R248). -/
def State.tagAt (s : State) (a : Nat) : TagState :=
  let t := tblGet (fun _ => TagState.none) s.mem.tags (a / 32768)
  if t.bad then { t with tag := 0xFFFF#16 } else t

/-- Put the tag record of a granule, by granule number. -/
def State.setTag (s : State) (g : Nat) (t : TagState) : State :=
  { s with mem := { s.mem with tags := tblSet (fun _ => TagState.none) s.mem.tags g t } }

/-- An ordinary store into `[a, a + n)` leaves every granule it touches with no version (R156). -/
def State.untag (s : State) (a n : Nat) : State :=
  if n = 0 then s
  else { s with mem := { s.mem with tags := tblClear s.mem.tags (a / 32768) ((a + n - 1) / 32768 + 1) } }

/-- An ordinary store: the bytes, and the tags of the granules it touches become 0xFFFF. -/
def State.store (s : State) (a : Nat) (bs : List PByte) : State := (s.untag a bs.length).writeMem a bs

/-- A versioned write of one aligned 128-byte line (R157). -/
def State.vstoreLine (s : State) (a : Nat) (v : BitVec 16) (bs : List PByte) : State :=
  let g := a / 32768
  let t := s.tagAt a
  let t := if t.filling = v then t else { tag := 0xFFFF#16, filling := v, lines := 0, bad := false }
  let lines := t.lines ||| (1#256 <<< (a % 32768 / 128))
  let t := { t with lines := lines, tag := if lines = BitVec.allOnes 256 then v else t.tag, bad := false }
  (s.setTag g t).writeMem a bs

/-! ## The cache of a slice (R219 to R221) -/

/-- Cache regions that a partition owns in a slice, in region order (R221). -/
def State.cacheRegions (s : State) (p n : Nat) : List Nat :=
  (List.range 12).filter fun r => s.bit (galRegionOff n r) 0 && decide (s.fld (galRegionOff n r) 3 2 = p)

/-- Point the tree's bits away from way `w` (tree pseudo-LRU; a set bit means the upper half is older,
assumption 15). -/
def plruTouch (t : BitVec 15) (w : Nat) : BitVec 15 :=
  (List.range 4).foldl (fun t d =>
    let node := 2 ^ d - 1 + w / 2 ^ (4 - d)
    let up := bitOf w (3 - d)
    if up then t &&& ~~~(1#15 <<< node) else t ||| (1#15 <<< node)) t

/-- The way the tree's bits point at. -/
def plruVictim (t : BitVec 15) : Nat :=
  (List.range 4).foldl (fun w d =>
    let node := 2 ^ d - 1 + w
    w * 2 + (if t.getLsbD node then 1 else 0)) 0

/-- An empty set. -/
def CacheSet.empty : CacheSet := ⟨List.replicate 16 none, 0, 0⟩

/-- The key of the set that holds an HBM line of a partition, and the line's number in its lantern (R221); none where
the partition owns no cache region in the home slice, or the offset is not HBM. Keys: ((p × 8 + slice) × 12 + rank) ×
131,072 + set. -/
def State.cacheSlot (s : State) (p a : Nat) : Option (Nat × Nat) :=
  let n := a / 0x1800000000
  let rs := s.cacheRegions p n
  if a < 0xC000000000 ∧ !rs.isEmpty then
    let l := (a - n * 0x1800000000) / 128
    some (((p * 8 + n) * 12 + l % rs.length) * 131072 + l / rs.length % 131072, l)
  else none

/-- The cache set with a key. -/
def State.cacheSet (s : State) (key : Nat) : CacheSet := tblGet (fun _ => CacheSet.empty) s.prot.cache key

/-- Replace the cache set with a key. -/
def State.putCacheSet (s : State) (key : Nat) (c : CacheSet) : State :=
  { s with prot := { s.prot with cache := tblSet (fun _ => CacheSet.empty) s.prot.cache key c } }

/-- A set with the parity of way `w` good again. -/
def CacheSet.mend (c : CacheSet) (w : Nat) : CacheSet := { c with bad := c.bad &&& ~~~(1#16 <<< w) }

/-- The way of a set that holds a line. -/
def CacheSet.way (c : CacheSet) (l : Nat) : Option Nat := c.ways.findIdx? (· == some l)

/-- One access to an HBM line through the partition's cache: a present line is touched, an absent one is
allocated when the access allocates (R220, R221). A write of the whole line (`full`) leaves good parity. -/
def State.cacheLine (s : State) (p a : Nat) (alloc full : Bool) : State :=
  match s.cacheSlot p a with
  | none => s
  | some (key, l) =>
    let cs := s.cacheSet key
    match cs.way l with
    | some w =>
      let cs := if full then cs.mend w else cs
      s.putCacheSet key { cs with plru := plruTouch cs.plru w }
    | none =>
      if alloc then
        let w := (cs.ways.findIdx? (·.isNone)).getD (plruVictim cs.plru)
        let cs := cs.mend w
        s.putCacheSet key { cs with ways := cs.ways.set w (some l), plru := plruTouch cs.plru w }
      else s

/-- Accesses to `[a, a + n)` by a partition, line by line, through the cache where the offset is HBM. A write
that does not cover a line does not allocate (R220). -/
def State.cacheAccess (s : State) (p a n : Nat) (write alloc : Bool) : State :=
  if a < 0xC000000000 ∧ 0 < n ∧ !(s.cacheRegions p (a / 0x1800000000)).isEmpty then
    (List.range ((a + n - 1) / 128 + 1 - a / 128)).foldl (fun s i =>
      let la := (a / 128 + i) * 128
      let full := decide (a ≤ la) && decide (la + 128 ≤ a + n)
      s.cacheLine p la (alloc && (!write || full)) (write && full)) s
  else s

/-- Drop every cached line of a partition in a slice (R221). -/
def State.cacheDrop (s : State) (p n : Nat) : State :=
  { s with prot := { s.prot with
    cache := tblClear s.prot.cache ((p * 8 + n) * 12 * 131072) (((p * 8 + n) * 12 + 12) * 131072) } }

/-- The HBM line that holds an offset is in the partition's cache (R219, R221). -/
def State.cached (s : State) (p a : Nat) : Bool :=
  match s.cacheSlot p a with
  | none => false
  | some (key, l) => ((s.cacheSet key).way l).isSome

/-- A read of a cached line that fails its parity: the line is invalidated and fetched again from HBM, which counts what
that read finds (R253, R268). Any other line is left alone. -/
def State.refetch (s : State) (p a : Nat) : State :=
  match s.cacheSlot p a with
  | none => s
  | some (key, l) =>
    let cs := s.cacheSet key
    match cs.way l with
    | some w =>
      if cs.bad.getLsbD w then
        let s := s.putCacheSet key (cs.mend w)
        (s.readMem (a / 128 * 128) 128).2.count (galParRefetchOff (homeLan a))
      else s
    | none => s

/-- Read `[a, a + n)` line by line: a line in the cache is served from the slice, so its HBM burst is not read;
any other line is read at its home and allocated when the access allocates (R220). -/
def State.loadLines : Nat → State → Nat → Nat → Nat → Bool → List PByte × State
  | 0, s, _, _, _, _ => ([], s)
  | k + 1, s, p, a, n, alloc =>
    if n = 0 then ([], s)
    else
      let m := Nat.min n (128 - a % 128)
      let s := s.refetch p a
      let (bs, s') := s.readMem a m
      let s := if s.cached p a then s else s'
      let s := s.cacheAccess p a m false alloc
      let (rest, s) := State.loadLines k s p (a + m) (n - m) alloc
      (bs ++ rest, s)

/-- A transfer of bytes from or to `[a, …)` over the on-package network: what the next error on it does (R254). An error
in the payload poisons its sector; a header goes by its second copy, and is lost when both fail. Each counts at the home
lantern's ports (R268). -/
def State.network (s : State) (a : Nat) (bs : List PByte) : List PByte × State :=
  match s.prot.net with
  | [] => (bs, s)
  | h :: t =>
    let s : State := { s with prot := { s.prot with net := t } }
    let s := s.count (galParNetworkOff (homeLan a))
    match h with
    | .payload k => (bs.mapIdx (fun i b => if (a % 32 + i) / 32 = k then (b.1, true) else b), s)
    | .header both => (bs, if both then { s with prot := { s.prot with netLost := true } } else s)

/-- A partition's read of its memory. -/
def State.load (s : State) (p a n : Nat) : List PByte × State :=
  let (bs, s) := s.loadLines (n / 128 + 2) p a n true
  s.network a bs

/-- A matrix engine's stationary load, which allocates no line (R220). -/
def State.loadNoAlloc (s : State) (p a n : Nat) : List PByte × State :=
  let (bs, s) := s.loadLines (n / 128 + 2) p a n false
  s.network a bs

/-- Write bytes line by line, each merged in the slice where its line is in the partition's cache (R220). -/
def State.writeLines : Nat → State → Nat → Nat → List PByte → State
  | 0, s, _, _, _ => s
  | k + 1, s, p, a, bs =>
    match bs with
    | [] => s
    | _ =>
      let m := 128 - a % 128
      let part := bs.take m
      let s := if part.length = 128 then s else s.refetch p a
      let s := State.writeFrom 6 s (s.cached p a) a part
      State.writeLines k s p (a + m) (bs.drop m)

/-- What the home does with a partition's ordinary store: the tags of the granules it touches become 0xFFFF (R156). -/
def State.homeStore (s : State) (p a : Nat) (bs : List PByte) : State :=
  ((s.untag a bs.length).writeLines (bs.length / 128 + 2) p a bs).cacheAccess p a bs.length true true

/-- A partition's ordinary store to its memory, over the on-package network. -/
def State.storeP (s : State) (p a : Nat) (bs : List PByte) : State :=
  let (bs, s) := s.network a bs
  s.homeStore p a bs

/-- An unsigned little-endian value in memory, as the controllers take it whatever its marks (assumption 16, DEDUCED). -/
def State.peek (s : State) (a n : Nat) : Nat := leNat (plain (s.readMem a n).1)

/-- What a controller's read of bytes counts and marks, as any read of them does (R251, R253, R261). -/
def State.look (s : State) (a n : Nat) : State := (s.readMem a n).2

/-- Write an unsigned little-endian value with an ordinary store. -/
def State.poke (s : State) (a n v : Nat) : State := s.store a (clean (natLe n v))

/-- The local offset of the first poisoned sector of bytes read from `a`. -/
def firstPoison (a : Nat) : List PByte → Option Nat
  | [] => none
  | (_, true) :: _ => some (a / 32 * 32)
  | (_, false) :: t => firstPoison (a + 1) t

/-! ## Commands -/

/-- The command with this name, if the module holds it. -/
def State.cmd (s : State) (c : CmdId) : Option Cmd := s.cmds.find? fun x => x.id == c

/-- Change the command with this name. -/
def State.onCmd (s : State) (c : CmdId) (f : Cmd → Cmd) : State :=
  { s with cmds := s.cmds.map fun x => if x.id = c then f x else x }

/-- Word `i` of a command packet (R427). -/
def Cmd.word (x : Cmd) (i : Nat) : Nat := (x.words.getD i 0).toNat
/-- Parameter word `i` (R427). -/
def Cmd.par (x : Cmd) (i : Nat) : Nat := x.word (i + 2)
/-- OPCODE. -/
def Cmd.opcode (x : Cmd) : Nat := x.word 0 % 256
/-- FLAGS (R428). -/
def Cmd.flagBits (x : Cmd) : Nat := bitsOf (x.word 0) 15 8
/-- DEP. -/
def Cmd.dep (x : Cmd) : Bool := bitOf (x.word 0) 8
/-- MARK. -/
def Cmd.mark (x : Cmd) : Bool := bitOf (x.word 0) 9
/-- IRQ. -/
def Cmd.irq (x : Cmd) : Bool := bitOf (x.word 0) 10
/-- CMPL_LOCAL. -/
def Cmd.cmplLocal (x : Cmd) : Bool := bitOf (x.word 0) 11
/-- MBOX. -/
def Cmd.mbox (x : Cmd) : Nat := bitsOf (x.word 0) 19 16

/-- The partition of a function (R417): VF f serves partition f − 1. -/
def partOf (f : Func) : Option Part :=
  match f with
  | 0 => none
  | 1 => some 0
  | 2 => some 1
  | 3 => some 2
  | 4 => some 3

/-- The function that serves a partition. -/
def funcOf (p : Part) : Func := p.succ

end Sys2Proof.Machine

namespace Sys2Proof

/-- The partition index of a command's function; 0 for the PF, whose commands have no partition. -/
def CmdId.p (c : CmdId) : Nat := c.func.val - 1

/-- The partition of a command as an index. -/
def CmdId.part (c : CmdId) : Part := (Machine.partOf c.func).getD 0

end Sys2Proof

namespace Sys2Proof.Machine

/-- An access to a slice or its HBM broke R210 or R215: GAL_ERR.BOUNDS of the lantern that the byte belongs to
(R244). -/
def State.galBounds (s : State) (a : Nat) : State :=
  match windowOf a with
  | .hbm | .gallery | .reserved => s.setBit (galErrOff (homeLan a)) 1
  | _ => s

/-- The first byte that a command of a partition was refused in this module, as its DETAIL holds it (R434, R244). -/
def State.boundsNote (s : State) (p st detail : Nat) (dform : Bool) : State :=
  if st = stBounds ∧ !dform ∧ detail / 2 ^ 48 = s.ownNode p then s.galBounds (detail % 2 ^ 48) else s

/-- A notice to the Keeper controller (R258, R288, R405). -/
def State.notify (s : State) (p : Nat) (n : Notice) : State := s.onKpart p fun k => { k with notices := k.notices ++ [n] }

/-- A transfer of the command lost its header (R254): the Keeper is told, and the command will end with ST_DATAPATH. -/
def State.flitLost (s : State) (c : CmdId) : State :=
  { s with prot := { s.prot with netLost := false } }.notify c.p .datapath

/-- The command ends with this status and DETAIL; nothing of it is outstanding. ST_DATAPATH takes the place of any
other outcome when a transfer of it lost its header (R254). -/
def State.endCmd (s : State) (c : CmdId) (st : Nat) (detail : Nat := 0) (dform : Bool := false) : State :=
  if s.prot.netLost then (s.flitLost c).onCmd c fun x =>
    { x with phase := .ended, status := stDatapath, detail := 0, dform := false, pending := 0 }
  else (s.boundsNote c.p st detail dform).onCmd c fun x =>
    { x with phase := .ended, status := st, detail := BitVec.ofNat 64 detail, dform := dform, pending := 0 }

/-- Which of two failures decides (lower rank, then lower index; the earlier noted on a tie). -/
def Failure.before (a b : Failure) : Bool :=
  decide (a.rank < b.rank) || (decide (a.rank = b.rank) && decide (a.index < b.index))

/-- The failure that decides a command's status. -/
def decides : List Failure → Option Failure
  | [] => none
  | f :: t =>
    match decides t with
    | none => some f
    | some g => if g.before f then some g else some f

/-- Note a failure against a command. -/
def State.noteFail (s : State) (c : CmdId) (f : Failure) : State :=
  (s.boundsNote c.p f.status f.detail.toNat f.dform).onCmd c fun x => { x with fails := x.fails ++ [f] }

/-- When nothing of an issued command is outstanding, it ends with its deciding failure, or ST_OK. -/
def Cmd.settle (x : Cmd) : Cmd :=
  if x.phase = .issued ∧ x.pending = 0 then
    match decides x.fails with
    | none => { x with phase := .ended }
    | some f => { x with phase := .ended, status := f.status, detail := f.detail, dform := f.dform }
  else x

/-- A transfer lost its header while the command worked: noted as the failure that decides (R254). -/
def State.takeFlit (s : State) (c : CmdId) : State :=
  if s.prot.netLost then (s.flitLost c).onCmd c fun x => { x with fails := ⟨0, 0, stDatapath, 0, false⟩ :: x.fails }
  else s

/-- The command has issued all its work, with `n` pieces outstanding. -/
def State.issued (s : State) (c : CmdId) (n : Nat) : State :=
  (s.takeFlit c).onCmd c fun x => Cmd.settle { x with phase := .issued, pending := x.pending + n }

/-- One outstanding piece of a command has ended. -/
def State.pieceDone (s : State) (c : CmdId) : State :=
  (s.takeFlit c).onCmd c fun x => Cmd.settle { x with pending := x.pending - 1 }

/-- The row of a ring command acts only on a command that has started and carries the row's opcode
(assumption 17): the command, when it does. -/
def State.starting (s : State) (c : CmdId) (op : Nat) : Option Cmd :=
  match s.cmd c with
  | some x => if x.phase = .started ∧ x.opcode = op then some x else none
  | none => none

/-- The DETAIL of a malformed packet (R434). -/
abbrev detailPacket : Nat := 0xFFFFFFFFFFFFFFFF

/-- A command's packet is malformed (R434). -/
def State.badPacket (s : State) (c : CmdId) : State := s.endCmd c stMalformed detailPacket

/-- Bits beyond those a parameter word defines must be 0 (R435, R7). -/
def unusedZero (x : Cmd) (from_ : Nat) : Bool := (List.range 6).all fun i => i < from_ || x.par i == 0

/-- A bite of poison (R258): the event, with the sector's global address and the consuming block's code
(assumption 24), and the notice to the Keeper controller, which names the partition, the block and the sector. -/
def State.biteG (s : State) (p : Part) (blk : Nat) (g : W64) : State :=
  let s := s.raise evPoisonConsumed (some p) g.toNat (Config.blockCode blk)
  s.notify p.val (.poison (s.stepOf (some p)) blk g)

/-- A bite of poison at a local offset (R258). -/
def State.bite (s : State) (p : Part) (blk addr : Nat) : State := s.biteG p blk (s.globalOf p.val addr)

end Sys2Proof.Machine
end

