-- ==== Sys2Proof/Machine/Slots.lean ====
section
/-! DEFINITION. Scale slots in memory: their layout and validity, the check of the slots a command names,
and what conversions write into them (R33, R34, R54, R125, R126). -/

namespace Sys2Proof.Machine

/-- A slot's 128 bytes as one number (R125). -/
abbrev SlotRaw := Nat

/-- The local offset of slot `i` (R125, R144). -/
def State.slotAddr (s : State) (p i : Nat) : Nat := (s.reg (cmdSlotBaseOff p)).toNat % 2 ^ 48 + 128 * i

/-- CMD_SLOT_COUNT; values above 16,384 act as 16,384 (R145). -/
def State.slotCount (s : State) (p : Nat) : Nat := Nat.min 16384 (s.fld (cmdSlotCountOff p) 14 0)

/-- The stored contents of a slot. -/
def State.slot (s : State) (p i : Nat) : SlotRaw := s.peek (s.slotAddr p i) 128

/-- An 8-bit two's-complement field as an integer. -/
def sext8 (v : Nat) : Int := if v < 128 then v else (v : Int) - 256

/-- SIGMA. -/
def slSigma (r : SlotRaw) : Int := sext8 (bitsOf r 7 0)
/-- SIGMA_PEND. -/
def slPend (r : SlotRaw) : Int := sext8 (bitsOf r 15 8)
/-- FMT. -/
def slFmt (r : SlotRaw) : Nat := bitsOf r 19 16
/-- HEADROOM. -/
def slHeadroom (r : SlotRaw) : Nat := bitsOf r 23 20
/-- HLEN. -/
def slHlen (r : SlotRaw) : Nat := bitsOf r 28 24
/-- KIND: 0 ORDINARY, 1 MASTER, 2 WORKING, 3 FIXED. -/
def slKind (r : SlotRaw) : Nat := bitsOf r 31 29
/-- HEAD. -/
def slHead (r : SlotRaw) : Nat := bitsOf r 35 32
/-- REPLAY: 0 NONE, 1 LAYER, 2 STEP. -/
def slReplay (r : SlotRaw) : Nat := bitsOf r 37 36
/-- DRIFT. -/
def slDrift (r : SlotRaw) : Bool := bitOf r 38
/-- DRIFT_INIT. -/
def slDriftInit (r : SlotRaw) : Bool := bitOf r 39
/-- EXCESS. -/
def slExcess (r : SlotRaw) : Nat := bitsOf r 47 40
/-- REPLAYS. -/
def slReplays (r : SlotRaw) : Nat := bitsOf r 51 48
/-- SAT_THRESH. -/
def slSatThresh (r : SlotRaw) : Nat := bitsOf r 95 64
/-- SAT_COUNT. -/
def slSatCount (r : SlotRaw) : Nat := bitsOf r 127 96
/-- OVF_COUNT. -/
def slOvfCount (r : SlotRaw) : Nat := bitsOf r 159 128
/-- DRIFT_PHASE. -/
def slDriftPhase (r : SlotRaw) : Nat := bitsOf r 171 160
/-- ELEMENTS. -/
def slElements (r : SlotRaw) : Nat := bitsOf r 255 192
/-- DRIFT_PTR. -/
def slDriftPtr (r : SlotRaw) : Nat := bitsOf r 319 256
/-- ROWS. -/
def slRows (r : SlotRaw) : Nat := bitsOf r 479 448
/-- COLS. -/
def slCols (r : SlotRaw) : Nat := bitsOf r 511 480
/-- HIST[i]. -/
def slHist (r : SlotRaw) (i : Nat) : Nat := bitsOf r (512 + 32 * i + 31) (512 + 32 * i)

/-- A slot is valid (R126). -/
def slotValid (r : SlotRaw) : Bool :=
  decide (1 ≤ slHlen r) && decide (slHlen r ≤ 16) && decide (slHead r < slHlen r) &&
  decide (slKind r ≤ 3) && decide (slReplay r ≤ 2) && decide (slFmt r ≤ 7) &&
  decide (bitsOf r 63 52 = 0) && decide (bitsOf r 191 172 = 0) &&
  decide (-120 ≤ slSigma r) && decide (slSigma r ≤ 120) &&
  decide (-120 ≤ slPend r) && decide (slPend r ≤ 120) &&
  ((List.range 16).all fun i => decide (slHist r i < 0x7F800000) || decide (slHist r i = 0x80000000)) &&
  (if slKind r = 1 then decide (slRows r ≠ 0) && decide (slCols r ≠ 0) &&
      decide (slRows r * slCols r = slElements r)
   else decide (slRows r = 0) && decide (slCols r = 0))

/-- What the check of the slots a command names finds (R126). -/
inductive SlotCheck where
  | ok
  | poison (addr : Nat)
  | malformed
  deriving DecidableEq, Repr

/-- The first poisoned sector of a slot. -/
def State.slotPoison (s : State) (p i : Nat) : Option Nat :=
  firstPoison (s.slotAddr p i) (s.readMem (s.slotAddr p i) 128).1

/-- A slot number can be read: below the count, its record inside the partition's gallery scratchpad
(assumption 21, DEDUCED for the second). -/
def State.slotNamed (s : State) (p i : Nat) : Bool :=
  decide (i < s.slotCount p) && (s.refusedGal p (s.slotAddr p i) 128).isNone

/-- The check of the slots a command names: poison first, then validity (R126); 0xFFFF names none. -/
def State.checkSlots (s : State) (p : Nat) (is : List Nat) : SlotCheck :=
  let named := is.filter (· != 0xFFFF)
  let readable := named.filter (s.slotNamed p)
  match readable.findSome? (s.slotPoison p) with
  | some a => .poison a
  | none =>
    if readable.length = named.length && readable.all (fun i => slotValid (s.slot p i)) then .ok
    else .malformed

/-- What reading the slots that a command names counts and marks. -/
def State.lookSlots (s : State) (p : Nat) (is : List Nat) : State :=
  is.foldl (fun s i => if i ≠ 0xFFFF ∧ s.slotNamed p i then s.look (s.slotAddr p i) 128 else s) s

/-- σ of a slot field; 0 when it names none (R73). -/
def State.sigmaOf (s : State) (p i : Nat) : Int := if i = 0xFFFF then 0 else slSigma (s.slot p i)

/-- Write part of a slot: `n` bytes at byte `off`. -/
def State.slotPut (s : State) (p i off n v : Nat) : State := s.poke (s.slotAddr p i + off) n v

/-- An 8-bit field from an integer. -/
def toSext8 (v : Int) : Nat := (v % 256).toNat

/-- Set SIGMA. -/
def State.setSigma (s : State) (p i : Nat) (v : Int) : State := s.slotPut p i 0 1 (toSext8 v)

/-- What conversions add to a slot: saturations, recorded excess, non-finite sources, captured maximum. -/
structure SlotAcc where
  sat  : Nat
  exc  : Nat
  ovf  : Nat
  amax : Option Nat
  deriving DecidableEq, Repr

/-- Nothing yet. -/
def SlotAcc.none : SlotAcc := ⟨0, 0, 0, Option.none⟩

/-- Count one conversion (R33). -/
def SlotAcc.conv (a : SlotAcc) (c : Conv) : SlotAcc :=
  { a with sat := a.sat + (if c.sat.isSome then 1 else 0), exc := Nat.max a.exc (c.sat.getD 0),
           ovf := a.ovf + (if c.nonf then 1 else 0) }

/-- The captured form of a finite |v|: FP32 toward +∞, at most 0x7F7F_FFFF (R54). -/
def amaxCode (v : Rat) : Nat :=
  Nat.min 0x7F7FFFFF (convert (.fin false v) .fp32 3 0 0 false 0).code

/-- Capture one value (R54): finite values only. -/
def SlotAcc.capture (a : SlotAcc) (v : FVal) : SlotAcc :=
  match v with
  | .fin _ m => { a with amax := some (Nat.max (a.amax.getD 0) (amaxCode m)) }
  | _ => a

/-- Counts of two shares of work: every increment is applied, and the largest excess stands (R34). -/
def SlotAcc.join (a b : SlotAcc) : SlotAcc :=
  ⟨a.sat + b.sat, Nat.max a.exc b.exc, a.ovf + b.ovf,
    match a.amax, b.amax with
    | some x, some y => some (Nat.max x y)
    | some x, Option.none => some x
    | Option.none, y => y⟩

/-- Apply counts and a captured maximum to a slot (R33, R54). -/
def State.slotApply (s : State) (p i : Nat) (a : SlotAcc) : State :=
  if i = 0xFFFF ∨ a = SlotAcc.none then s
  else
    let r := s.slot p i
    let s := if a.sat = 0 then s else
      (s.slotPut p i 0x0C 4 (Nat.min 0xFFFFFFFF (slSatCount r + a.sat))).slotPut p i 5 1
        (Nat.max (slExcess r) (Nat.min 255 a.exc))
    let s := if a.ovf = 0 then s else s.slotPut p i 0x10 4 (Nat.min 0xFFFFFFFF (slOvfCount r + a.ovf))
    match a.amax with
    | Option.none => s
    | some m =>
      let h := slHist r (slHead r)
      let h := if h = 0x80000000 then 0 else h
      if h < m then s.slotPut p i (0x40 + 4 * slHead r) 4 m else s

end Sys2Proof.Machine
end

