-- ==== Sys2Proof/Machine/Flags.lean ====
section
/-! DEFINITION. IEEE 754 exception flags of the vector engines: the rounded result of an op with its flags
(R96, R97), and where flags are recorded (R97, R120). -/

namespace Sys2Proof.Machine

/-- Round an exact value into a format with the flags of R97: flags are raised only into FP64, FP32 and
FP16. -/
def roundTo (d : Fmt) (x : FVal) (mode r : Nat) : Nat × Flags :=
  let c := convert x d mode 0 0 false r
  (c.code, if d.ieee then c.flags else 0)

/-- Round to nearest, with flags (rn of R110). -/
def rnTo (d : Fmt) (x : FVal) : Nat × Flags := roundTo d x 0 0

/-- The flags of a NaN operand: invalid for a signalling one (R98). -/
def sigFlag (xs : List FVal) : Flags := if xs.any FVal.isSig then flInvalid else 0

/-- A flag that stands for an invalid operation. -/
def invFlag (b : Bool) : Flags := if b then flInvalid else 0

/-- IEEE 754-2019 maximum or minimum: a NaN propagates, −0 lies below +0 (R98, R106). -/
def fvExtreme (isMax : Bool) (a b : FVal) : FVal × Flags :=
  if a.isNan || b.isNan then (.nan false, sigFlag [a, b])
  else if isMax then (if fvLt true a b then b else a, 0)
  else (if fvLt true b a then b else a, 0)

/-- IEEE 754-2019 maximumNumber or minimumNumber: a NaN loses to a number (R106). -/
def fvExtremeNum (isMax : Bool) (a b : FVal) : FVal × Flags :=
  if a.isNan && b.isNan then (.nan false, sigFlag [a, b])
  else if a.isNan then (b, sigFlag [a])
  else if b.isNan then (a, sigFlag [b])
  else fvExtreme isMax a b

/-- √x and 1 ÷ √x as exact values with their flags (R106). -/
def fvSqrt (x : FVal) : FVal × Flags :=
  match x with
  | .nan s => (.nan false, invFlag s)
  | .inf false => (.inf false, 0)
  | .inf true => (.nan false, flInvalid)
  | .fin s m => if m = 0 then (.fin s 0, 0) else if s then (.nan false, flInvalid) else (.fin false (sqrtRat m), 0)

/-- 1 ÷ √x; ±0 gives +∞ with divide-by-zero (R106). -/
def fvRsqrt (x : FVal) : FVal × Flags :=
  match x with
  | .nan s => (.nan false, invFlag s)
  | .inf false => (.fin false 0, 0)
  | .inf true => (.nan false, flInvalid)
  | .fin s m =>
    if m = 0 then (.inf false, flDivZero)
    else if s then (.nan false, flInvalid) else (.fin false (sqrtRat (1 / m)), 0)

/-- The transcendental ops of R107. -/
inductive Trans where
  | exp | exp2 | log | log2 | sin | cos | tanh | sigmoid | erf
  deriving DecidableEq, Repr

/-- The mathematical value of a transcendental op with its special cases (R107). -/
def fvTrans (t : Trans) (x : FVal) : FVal × Flags :=
  match x with
  | .nan s => (.nan false, invFlag s)
  | .inf s =>
    match t with
    | .exp | .exp2 => (if s then .fin false 0 else .inf false, 0)
    | .log | .log2 => if s then (.nan false, flInvalid) else (.inf false, 0)
    | .sin | .cos => (.nan false, flInvalid)
    | .tanh | .erf => (.fin s 1, 0)
    | .sigmoid => (.fin false (if s then 0 else 1), 0)
  | .fin s m =>
    let q := x.rat
    match t with
    | .exp => (.fin false (expRat q), 0)
    | .exp2 => (.fin false (exp2Rat q), 0)
    | .log => if m = 0 then (.inf true, flDivZero) else if s then (.nan false, flInvalid) else (.ofRat (lnRat m), 0)
    | .log2 =>
      if m = 0 then (.inf true, flDivZero) else if s then (.nan false, flInvalid) else (.ofRat (log2Rat m), 0)
    | .sin => if m = 0 then (.fin s 0, 0) else (.ofRat (sinRat q), 0)
    | .cos => (if m = 0 then .fin false 1 else .ofRat (cosRat q), 0)
    | .tanh => if m = 0 then (.fin s 0, 0) else (.ofRat (tanhRat q), 0)
    | .sigmoid => (if m = 0 then .fin false (mkRat 1 2) else .fin false (sigmoidRat q), 0)
    | .erf => if m = 0 then (.fin s 0, 0) else (.ofRat (erfRat q), 0)

/-- Round a value to an integral value in a mode; the sign of the operand stays (R106, RINT). -/
def fvRint (x : FVal) (mode : Nat) : FVal × Flags :=
  match x with
  | .nan s => (.nan false, invFlag s)
  | .inf s => (.inf s, 0)
  | .fin s m => (.fin s (roundOn m 0 s mode 0 : Nat), 0)

/-- A value rounded to an integer in a mode, clamped to a range; NaN gives 0 (R108, CVT). -/
def fvToInt (x : FVal) (lo hi : Int) (mode r : Nat) : Int × Flags :=
  match x with
  | .nan _ => (0, flInvalid)
  | .inf s => (if s then lo else hi, flInvalid)
  | .fin s m =>
    let k : Int := roundOn m 0 s mode r
    let v := if s then -k else k
    if v < lo then (lo, flInvalid) else if hi < v then (hi, flInvalid)
    else (v, if (k : Rat) = m then 0 else flInexact)

/-- Flags accumulate in VE_FLAGS of the partition on a lantern (R97, R120). -/
def State.veFlag (s : State) (n p : Nat) (f : Flags) : State :=
  if f = 0 then s
  else s.setReg (veFlagsOff n p) (s.reg (veFlagsOff n p) ||| f.setWidth 64)

end Sys2Proof.Machine
end

