-- ==== Sys2Proof/Machine/Access.lean ====
section
/-! DEFINITION. Register accesses by the host and by the Keeper: which function reaches which register (R419,
R440, R498), 32-bit and 64-bit accesses (R422), reads with their side effects (R6, R245, R246, R446, R519),
and writes of fields by their access codes (R5, R7). -/

namespace Sys2Proof.Machine

/-! ## Which function reaches what -/

/-- The function answers host accesses (R417, R440): the module is past BOOT, the function is in D0, and a
virtual function is enabled. -/
def State.hostUp (s : State) (f : Func) : Bool :=
  decide (mStandby ≤ s.modState) && !(s.func f.val).d3hot && (decide (f = 0) || s.vfEnable)

/-- The function reads a register now: past BOOT, or during BOOT in the MOD and BOOT blocks (R498). -/
def State.readsUp (s : State) (f : Func) (off : Nat) : Bool :=
  s.hostUp f || (decide (s.modState = mBoot) && (decide (off < 0x10000) || (decide (0x40000 ≤ off) && decide (off < 0x50000))) &&
    !(s.func f.val).d3hot && (decide (f = 0) || s.vfEnable))

/-- A function writes module-wide registers: the PF alone (R419). -/
def State.mayMod (s : State) (by_ : Func) : Bool := s.hostUp by_ && decide (by_ = 0)

/-- A function writes a partition's registers: the PF and the partition's own function (R419). -/
def State.mayPart (s : State) (by_ : Func) (p : Part) : Bool :=
  s.hostUp by_ && (decide (by_ = 0) || decide (partOf by_ = some p))

/-- A function reaches a function page: the PF and the page's own function (R419). -/
def State.mayPage (s : State) (by_ page : Func) : Bool :=
  s.hostUp by_ && (decide (by_ = 0) || decide (by_ = page))

/-- A function reads a register (R419). -/
def mayRead (by_ : Func) (h : RegHit) : Bool :=
  match h.desc.scope with
  | .mod => true
  | .part | .partPf => decide (by_ = 0) || decide (h.ixs.getD h.desc.ixDim 0 + 1 = by_.val)
  | .page => decide (by_ = 0) || decide (h.ixs.getD h.desc.ixDim 0 = by_.val)

/-- A function writes a register (R419). -/
def mayWrite (by_ : Func) (h : RegHit) : Bool :=
  match h.desc.scope with
  | .mod | .partPf => decide (by_ = 0)
  | .part => decide (by_ = 0) || decide (h.ixs.getD h.desc.ixDim 0 + 1 = by_.val)
  | .page => decide (by_ = 0) || decide (h.ixs.getD h.desc.ixDim 0 = by_.val)

/-! ## Reads -/

/-- A class has a request outstanding: on a send half, or the MFLUSH of a multicast half. -/
def State.classBusy (s : State) (c : Nat) : Bool :=
  (s.fabric.send.any fun h => decide (h.2.tc.val = c) && decide (h.2.out ≠ 0)) ||
    s.fabric.mcRuns.any fun r => decide (r.tc.val = c) && r.sent && !r.members.isEmpty

/-- DRAINED of FAB_LL_CTRL: bit c while DRAIN bit c is set and no class-c send half has an outstanding request
(R338). -/
def State.drained (s : State) : Nat :=
  (List.range 4).foldl (fun a c => if s.bit fabLlCtrlOff (12 + c) && !s.classBusy c then a + 2 ^ c else a) 0

/-- The register of a region. -/
def regionOff : RegionId → Nat
  | .gallery n r => galRegionOff n.val r.val
  | .granule n g => hbmOwnOff n.val g.val

/-- A region's register with the fields that a write changes: MODE and OWNER, or VALID and OWNER (R242, R243). -/
def regionShown (r : RegionId) (old v : Nat) : Nat :=
  match r with
  | .gallery _ _ => setBits (setBits old 3 2 (bitsOf v 3 2)) 0 0 (bitsOf v 0 0)
  | .granule _ _ => setBits old 2 0 (v % 8)

/-- What a register reads as. Most read as stored; FAB_CTX_STATUS counts the halves that are open (R307),
FAB_LL_CTRL shows DRAINED (R338), and MOD_SIDEBAND the level of COOLANT_OK (R540). -/
def State.regView (s : State) (off : Nat) : W64 :=
  match s.changes.find? fun c => regionOff c.1 == off with
  | some (r, v) => BitVec.ofNat 64 (regionShown r (s.reg off).toNat v.toNat)
  | none =>
  if off = fabCtxStatusOff then
    BitVec.ofNat 64 (s.fabric.recv.length % 2 ^ 20 * 2 ^ 32 + s.fabric.send.length % 2 ^ 20)
  else if off = fabLlCtrlOff then BitVec.ofNat 64 (setBits (s.reg off).toNat 11 8 s.drained)
  else if off = modSidebandOff then
    BitVec.ofNat 64 (setBits (s.reg off).toNat 16 16 (if s.pins.coolantOk then 1 else 0))
  else s.reg off

/-- A read-to-clear field's bits of a register. -/
def RegDesc.rcMask (d : RegDesc) : W64 :=
  d.flds.foldl (fun m f => if f.acc = .rc then m ||| BitVec.ofNat 64 ((2 ^ (f.hi + 1 - f.lo) - 1) * 2 ^ f.lo) else m) 0

/-- A pool before its first INIT. -/
def PoolState.empty : PoolState := ⟨[0, 0, 0, 0], [], none, false⟩

/-- Pool q of partition p. -/
def State.pool (s : State) (p q : Nat) : PoolState := tblGet (fun _ => PoolState.empty) s.pools (4 * p + q)

/-- Buffers of a pool class that are allocated: COUNT − FREE (R245); none of a disabled pool (R236). -/
def State.poolAllocated (s : State) (off : Nat) : Nat :=
  let x := off - galPoolFreeOff 0 0 0
  (s.pool (x / 0x200) (x % 0x200 / 0x80)).live.getD (x % 0x80 / 0x20) 0 - s.fld off 18 0

/-- What an unwritten byte of a flash reads as (R492). -/
def flashDefault : Nat → Byte := fun _ => 0xFF#8

/-- Bytes of the identity flash (R492). -/
def State.idRead (s : State) (a n : Nat) : List Byte := tblRead flashDefault s.boot.idFlash a n

/-- An unsigned value in the identity flash. -/
def State.idNat (s : State) (a n : Nat) : Nat := leNat (s.idRead a n)

/-- The daymark's section table (R499): type, offset and length of each section. -/
def State.dmSections (s : State) : List (Nat × Nat × Nat) :=
  (List.range (s.idNat 7 1)).map fun i => (s.idNat (0x40 + 16 * i) 2, s.idNat (0x44 + 16 * i) 4, s.idNat (0x48 + 16 * i) 4)

/-- A daymark section: offset and length. -/
def State.dmSection (s : State) (ty : Nat) : Option (Nat × Nat) := (s.dmSections.find? fun x => x.1 == ty).map (·.2)

/-- A daymark byte as BOOT_DM_DATA shows it: the ATTEST section reads 0 (R510, R519). -/
def State.dmByte (s : State) (a : Nat) : Byte :=
  match s.dmSection 6 with
  | some (o, n) => if o ≤ a ∧ a < o + n then 0 else tblGet flashDefault s.boot.idFlash a
  | none => tblGet flashDefault s.boot.idFlash a

/-- Read a mailbox's ready word: READS counts a read in READY, this one included, up to 255 (R446, R447). -/
def State.readReady (s : State) (off : Nat) : State :=
  if s.fld off 1 0 = 2 then s.setFld off 15 8 (Nat.min 255 (s.fld off 15 8 + 1)) else s

/-- Read BOOT_DM_DATA: eight bytes of the daymark section at OFFSET, which then advances by 8 and wraps at the
section's end (R519). -/
def State.readDm (s : State) : W64 × State :=
  let o := s.fld bootDmOffsetOff 16 3 * 8
  (BitVec.ofNat 64 (leNat ((List.range 8).map fun i => s.dmByte (o + i))),
    s.setFld bootDmOffsetOff 16 3 (o / 8 + 1))

/-- Read one register with its side effects: the value, and the state after. -/
def State.readReg (s : State) (h : RegHit) (off : Nat) : W64 × State :=
  if h.desc.base = 0x1002000 then
    let s := s.readReady off
    (s.regView off, s)
  else if h.desc.base = 0x435010 then
    (s.regView off, s.setFld off 50 32 (s.poolAllocated off))
  else if off = bootDmDataOff then s.readDm
  else
    let v := s.regView off
    let m := h.desc.rcMask
    (v, if v &&& m = 0 then s else s.setReg off (v &&& ~~~m))

/-- Read the register at an offset by an access of its own width, for a reader that passes the filter. -/
def State.readAt (s : State) (ok : RegHit → Bool) (wide : Bool) (off : Nat) : W64 × State :=
  match regAt off with
  | none => (0, s)
  | some h =>
    if ok h && (decide (h.desc.width = 64) == wide) then s.readReg h off else (0, s)

/-- A 64-bit read (R422): the 64-bit register at the offset, or the 32-bit registers of its two halves, read
in ascending offset; 0 where the access is not aligned. -/
def State.read64 (s : State) (ok : RegHit → Bool) (off : Nat) : W64 × State :=
  if off % 8 ≠ 0 then (0, s)
  else
    match regAt off with
    | some h =>
      if h.desc.width = 64 then s.readAt ok true off
      else
        let (lo, s) := s.readAt ok false off
        let (hi, s) := s.readAt ok false (off + 4)
        (lo ||| (hi <<< 32), s)
    | none =>
      let (hi, s) := s.readAt ok false (off + 4)
      (hi <<< 32, s)

/-! ## Writes by access code -/

/-- Write one field by its access code (R5): RW takes the value, W1C clears and W1S sets the bits written 1. -/
def fldWrite (old new : Nat) (f : Fld) (acc : Nat) : Nat :=
  match f.acc with
  | .rw => setBits acc f.hi f.lo (bitsOf new f.hi f.lo)
  | .w1c => setBits acc f.hi f.lo (bitsOf old f.hi f.lo &&& (2 ^ (f.hi + 1 - f.lo) - 1 - bitsOf new f.hi f.lo))
  | .w1s => setBits acc f.hi f.lo (bitsOf old f.hi f.lo ||| bitsOf new f.hi f.lo)
  | .ro | .rc | .wo => acc

/-- What a register holds after a write by its fields' access codes. -/
def RegDesc.written (d : RegDesc) (old new : Nat) : Nat :=
  d.flds.foldl (fun acc f => fldWrite old new f acc) old

/-- A plain write of a register: its fields by their access codes (R5). -/
def State.writeFields (s : State) (h : RegHit) (off v : Nat) : State :=
  s.setReg off (BitVec.ofNat 64 (h.desc.written (s.reg off).toNat v))

end Sys2Proof.Machine
end

