-- ==== Sys2Proof/Machine/Pools.lean ====
section
/-! DEFINITION. Buffer pools (R234 to R241, R245, R246), region ownership (R214 to R216, R221, R242, R243) and
bandwidth regulators (R231 to R233, R247): the operations, and the meanings of their rows. -/

namespace Sys2Proof.Machine

/-! ## Buffer pools -/

/-- Buffer size of a class (R234). -/
def poolClassSize (c : Nat) : Nat := [256, 2048, 16384, 131072].getD c 256

/-- Change a pool's record. -/
def State.onPool (s : State) (p q : Nat) (f : PoolState → PoolState) : State :=
  { s with pools := tblSet (fun _ => PoolState.empty) s.pools (4 * p + q) (f (s.pool p q)) }

/-- The pool serves requests: EN (R246). -/
def State.poolOn (s : State) (p q : Nat) : Bool := s.bit (galPoolCtrlOff p q) 1

/-- CAP of a class. -/
def State.poolCap (s : State) (p q c : Nat) : Nat := s.fld (galPoolSizeOff p q c) 18 0

/-- COUNT of a class; values above CAP act as CAP (R245). -/
def State.poolCount (s : State) (p q c : Nat) : Nat :=
  Nat.min (s.fld (galPoolSizeOff p q c) 50 32) (s.poolCap p q c)

/-- Base offset of a class. -/
def State.poolBase (s : State) (p q c : Nat) : Nat := s.fld (galPoolBaseOff p q c) 47 0

/-- Side table offset. -/
def State.poolSide (s : State) (p q : Nat) : Nat := s.fld (galPoolSideOff p q) 47 0

/-- The byte ranges of a pool's classes. -/
def State.poolRanges (s : State) (p q : Nat) : List (Nat × Nat) :=
  (List.range 4).map fun c => (s.poolBase p q c, s.poolBase p q c + s.poolCap p q c * poolClassSize c)

/-- Two byte ranges overlap. -/
def overlap (a b : Nat × Nat) : Bool := decide (a.1 < b.2) && decide (b.1 < a.2)

/-- The layout check of R234 that INIT makes (R235). -/
def State.poolLayoutOk (s : State) (p q : Nat) : Bool :=
  let rs := s.poolRanges p q
  let side := s.poolSide p q
  ((List.range 4).all fun c =>
    decide (s.poolBase p q c % poolClassSize c = 0) && decide (s.poolCap p q c ≤ 2 ^ 18)) &&
  rs.all (fun r => (s.refusedGal p r.1 (r.2 - r.1)).isNone) &&
  ((List.range 4).all fun i => (List.range i).all fun j =>
    !overlap (rs.getD i (0, 0)) (rs.getD j (0, 0))) &&
  decide (side % 128 = 0) && (s.refusedGal p side 131072).isNone &&
  ((List.range 4).all fun q' =>
    q' == q || !s.poolOn p q' || rs.all fun a => (s.poolRanges p q').all fun b => !overlap a b)

/-- Where a buffer's state bit lies: byte offset and bit (R234). -/
def State.poolBitAt (s : State) (p q c i : Nat) : Nat × Nat :=
  (s.poolSide p q + c * 32768 + i / 8, i % 8)

/-- A buffer's state bit: set means free. -/
def State.poolFreeBit (s : State) (p q c i : Nat) : Bool :=
  let (a, b) := s.poolBitAt p q c i
  bitOf (s.peek a 1) b

/-- Set or clear a buffer's state bit. -/
def State.poolPutBit (s : State) (p q c i : Nat) (v : Bool) : State :=
  let (a, b) := s.poolBitAt p q c i
  (s.look a 1).poke a 1 (setBits (s.peek a 1) b b (if v then 1 else 0))

/-- Address of buffer i of a class. -/
def State.poolAddr (s : State) (p q c i : Nat) : Nat := s.poolBase p q c + i * poolClassSize c

/-- The class and index of the buffer that starts at an address, if one does. -/
def State.poolFind (s : State) (p q a : Nat) : Option (Nat × Nat) :=
  (List.range 4).findSome? fun c =>
    let b := s.poolBase p q c
    let sz := poolClassSize c
    if b ≤ a ∧ (a - b) % sz = 0 ∧ (a - b) / sz < s.poolCap p q c then some (c, (a - b) / sz) else none

/-- Set a class's head and free count; PEAK follows the number allocated (R245). -/
def State.poolPut (s : State) (p q c head free : Nat) : State :=
  let s := (s.setFld (galPoolHeadOff p q c) 47 0 head).setFld (galPoolFreeOff p q c) 18 0 free
  let n := (s.pool p q).live.getD c 0 - free
  if s.fld (galPoolFreeOff p q c) 50 32 < n then s.setFld (galPoolFreeOff p q c) 50 32 n else s

/-- Link buffers in front of a list's head, each to the one before it: the state and the new head. -/
def State.poolLink (s : State) (p q c head : Nat) (is : List Nat) : State × Nat :=
  is.foldl (fun r i =>
    let a := r.1.poolAddr p q c i
    (r.1.poke a 8 r.2, a)) (s, head)

/-- Push buffers on a class's free list, the last of the list first in the order given. -/
def State.poolPush (s : State) (p q c : Nat) (is : List Nat) : State :=
  let (s, head) := s.poolLink p q c (s.fld (galPoolHeadOff p q c) 47 0) is
  s.poolPut p q c head (s.fld (galPoolFreeOff p q c) 18 0 + is.length)

/-- Thread a class anew over the buffers `is`, in that order (R235). -/
def State.poolThread (s : State) (p q c : Nat) (is : List Nat) : State :=
  let (s, head) := s.poolLink p q c 0 is.reverse
  s.poolPut p q c head is.length

/-- The indices on a class's free list, head first, at most `n` of them. -/
def State.poolList (s : State) (p q c : Nat) : Nat → Nat → List Nat
  | 0, _ => []
  | n + 1, a =>
    if a = 0 then []
    else (a - s.poolBase p q c) / poolClassSize c :: State.poolList s p q c n (s.peek a 8)

/-- Start INIT (R235): the pool holds no free buffer while it runs (R236). A change of COUNT that waits is left to INIT,
which threads the COUNT that it finds at its end. -/
def State.poolInit (s : State) (p q : Nat) : State :=
  if s.bit (galPoolCtrlOff p q) 0 then s
  else
    let ok := s.poolLayoutOk p q
    let s := ((s.setFld (galPoolCtrlOff p q) 0 0 1).setFld (galPoolCtrlOff p q) 2 2 1).setFld (galPoolCtrlOff p q) 1 1 0
    let s := (List.range 4).foldl (fun s c =>
      (s.setFld (galPoolFreeOff p q c) 18 0 0).setFld (galPoolHeadOff p q c) 47 0 0) s
    s.onPool p q fun x => { x with init := some ok, live := [0, 0, 0, 0], pend := false }

/-- End INIT (R235): thread the lists, set the state bits and EN, or set ERR. -/
def State.poolInitEnd (s : State) (p q : Nat) : State :=
  match (s.pool p q).init with
  | none => s
  | some ok =>
    let s := (s.setFld (galPoolCtrlOff p q) 0 0 0).setFld (galPoolCtrlOff p q) 2 2 0
    let s := s.onPool p q fun x => { x with init := none, pend := false }
    if !ok then s.setBit (galPoolCtrlOff p q) 3
    else
      let s := s.onPool p q fun x =>
        { x with live := (List.range 4).map (s.poolCount p q), broken := [] }
      let s := s.setBit (galPoolCtrlOff p q) 1
      (List.range 4).foldl (fun s c =>
        let n := s.poolCount p q c
        let m := (s.poolCap p q c + 7) / 8
        let v := 2 ^ n - 1
        let s := s.store (s.poolSide p q + c * 32768) (clean (natLe m v))
        s.poolThread p q c (List.range n)) s

/-- The first failure of a pool in a step raises EV_POOL_EXHAUSTED (R236, R238); every failure counts. -/
def State.poolFail (s : State) (p : Part) (q cls : Nat) : State :=
  let s := s.count (galPoolFailsOff p.val q)
  let dis := !s.poolOn p.val q
  let key := if dis then q + 4 else q
  if (s.job p.val).poolSeen.contains key then s
  else
    (s.onJob p.val fun j => { j with poolSeen := j.poolSeen ++ [key] }).raise evPoolExhausted (some p) q
      (if dis then 0xF else cls)

/-- Try the classes from `c` up: pop the head of the first that is neither empty nor BROKEN, checking the link
it holds (R237, R240). -/
def State.poolPop (s : State) (p : Part) (q : Nat) : Nat → Nat → State × Option (Nat × Nat)
  | 0, _ => (s, none)
  | k + 1, c =>
    if 4 ≤ c then (s, none)
    else
      let h := s.fld (galPoolHeadOff p.val q c) 47 0
      if h = 0 || (s.pool p.val q).broken.contains c then State.poolPop s p q k (c + 1)
      else
        let link := s.peek h 8
        let s := s.look h 8
        let ok := decide (link = 0) || (match s.poolFind p.val q link with
          | some (c', i) => c' == c && s.poolFreeBit p.val q c i
          | none => false)
        if ok then
          let i := (h - s.poolBase p.val q c) / poolClassSize c
          let s := s.poolPutBit p.val q c i false
          (s.poolPut p.val q c link (s.fld (galPoolFreeOff p.val q c) 18 0 - 1), some (c, h))
        else
          let s := (s.onPool p.val q fun x => { x with broken := x.broken ++ [c] }).setBit
            (galPoolCtrlOff p.val q) (12 + c)
          State.poolPop (s.raise evPoolCorrupt (some p) q c) p q k (c + 1)

/-- Allocate a buffer of class `c` or larger (R237, R238): the class and offset granted, or none. -/
def State.poolAlloc (s : State) (p : Part) (q c : Nat) : State × Option (Nat × Nat) :=
  if !s.poolOn p.val q then (s.poolFail p q c, none)
  else
    match s.poolPop p q 4 c with
    | (s, some g) => (s, some g)
    | (s, none) => (s.poolFail p q c, none)

/-- A refused free (R236, R239): the event and the count. -/
def State.poolBadFree (s : State) (p : Part) (q ev a : Nat) : State :=
  (s.count (galPoolDfreeOff p.val q)).raise ev (some p) a q

/-- Free the buffer at an address (R239, R240). -/
def State.poolFree (s : State) (p : Part) (q a : Nat) : State :=
  if !s.poolOn p.val q then s.poolBadFree p q evPoolBadFree a
  else
    match s.poolFind p.val q a with
    | none => s.poolBadFree p q evPoolBadFree a
    | some (c, i) =>
      if s.poolFreeBit p.val q c i then s.poolBadFree p q evPoolDoubleFree a
      else
        let s := s.poolPutBit p.val q c i true
        if (s.pool p.val q).broken.contains c || decide ((s.pool p.val q).live.getD c 0 ≤ i) then s
        else s.poolPush p.val q c [i]

/-- Apply a class's COUNT (R241). -/
def State.poolApplyClass (s : State) (p q c : Nat) : State :=
  let old := (s.pool p q).live.getD c 0
  let n := s.poolCount p q c
  let s := s.onPool p q fun x => { x with live := x.live.set c n }
  if (s.pool p q).broken.contains c || n = old then s
  else if old < n then
    s.poolPush p q c (((List.range (n - old)).map (· + old)).filter (s.poolFreeBit p q c)).reverse
  else
    let free := s.fld (galPoolFreeOff p q c) 18 0
    let is := s.poolList p q c free (s.fld (galPoolHeadOff p q c) 47 0)
    let s := is.foldl (fun s i => s.look (s.poolAddr p q c i) 8) s
    s.poolThread p q c (is.filter (· < n))

/-- Apply the COUNT values of a pool (R241). -/
def State.poolApply (s : State) (p q : Nat) : State :=
  let s := (s.onPool p q fun x => { x with pend := false }).setFld (galPoolCtrlOff p q) 2 2 0
  (List.range 4).foldl (fun s c => s.poolApplyClass p q c) s

/-- Write GAL_POOL_SIZE of a class: CAP, and COUNT, which an enabled pool applies later (R241, R245). -/
def State.poolSetSize (s : State) (p q c v : Nat) : State :=
  let old := s.poolCount p q c
  let s := (s.setFld (galPoolSizeOff p q c) 50 32 (bitsOf v 50 32)).setFld (galPoolSizeOff p q c) 18 0 (bitsOf v 18 0)
  if s.poolOn p q && s.poolCount p q c != old then
    (s.onPool p q fun x => { x with pend := true }).setFld (galPoolCtrlOff p q) 2 2 1
  else s

/-- POOL_INIT: write 1 to GAL_POOL_CTRL.INIT (R235). -/
def execPoolInit (by_ : Func) (p : Part) (q : Fin 4) (s : State) : Host.Outcome State Fault Refusal :=
  .next (if s.mayPart by_ p then s.poolInit p.val q.val else s)

/-- POOL_INIT_END (R235). -/
def execPoolInitEnd (p : Part) (q : Fin 4) (s : State) : Host.Outcome State Fault Refusal :=
  .next (s.poolInitEnd p.val q.val)

/-- A write of GAL_POOL_REQ (R237, R246). -/
def State.poolRequest (s : State) (p : Part) (q c : Nat) : State :=
  let g := galPoolGrantOff p.val q
  if s.bit g 63 then s.count (galPoolDfreeOff p.val q)
  else
    let (s, r) := s.poolAlloc p q c
    match r with
    | some (c, a) => s.setReg g (BitVec.ofNat 64 (2 ^ 63 + c * 2 ^ 60 + a))
    | none => s.setReg g (BitVec.ofNat 64 (2 ^ 63 + 2 ^ 62))

/-- POOL_REQUEST: write GAL_POOL_REQ (R237). -/
def execPoolRequest (by_ : Func) (p : Part) (q : Fin 4) (cls : Fin 4) (s : State) :
    Host.Outcome State Fault Refusal :=
  .next (if s.mayPart by_ p then s.poolRequest p q.val cls.val else s)

/-- Read one of the 64-bit registers with a partition index for a host function, the answer on the link. -/
def State.hostRead64 (s : State) (by_ : Func) (off : Nat) : State :=
  if s.readsUp by_ off then
    let (v, s) := s.read64 (mayRead by_) off
    s.emit (.readData by_ (natLe 8 v.toNat) false)
  else s

/-- POOL_GRANT_READ: the host reads GAL_POOL_GRANT, which clears it (R246). -/
def execPoolGrantRead (by_ : Func) (p : Part) (q : Fin 4) (s : State) : Host.Outcome State Fault Refusal :=
  .next (s.hostRead64 by_ (galPoolGrantOff p.val q.val))

/-- POOL_FREE_READ: the host reads GAL_POOL_FREE, which restarts PEAK (R245). -/
def execPoolFreeRead (by_ : Func) (p : Part) (q : Fin 4) (cls : Fin 4) (s : State) :
    Host.Outcome State Fault Refusal :=
  .next (s.hostRead64 by_ (galPoolFreeOff p.val q.val cls.val))

/-- POOL_RELEASE: write GAL_POOL_RELEASE (R239). -/
def execPoolRelease (by_ : Func) (p : Part) (q : Fin 4) (v : W64) (s : State) :
    Host.Outcome State Fault Refusal :=
  .next (if s.mayPart by_ p then s.poolFree p q.val (v.toNat % 2 ^ 48) else s)

/-- POOL_COUNT_WRITE: write GAL_POOL_SIZE (R241). -/
def execPoolCountWrite (by_ : Func) (p : Part) (q : Fin 4) (cls : Fin 4) (v : W64) (s : State) :
    Host.Outcome State Fault Refusal :=
  .next (if s.mayPart by_ p then s.poolSetSize p.val q.val cls.val v.toNat else s)

/-- POOL_COUNT_APPLY (R241). -/
def execPoolCountApply (p : Part) (q : Fin 4) (s : State) : Host.Outcome State Fault Refusal :=
  .next (if (s.pool p.val q.val).pend then s.poolApply p.val q.val else s)

/-! ## Region ownership -/

/-- The fields a write of the register changes: MODE and OWNER, or VALID and OWNER. -/
def regionFields (r : RegionId) (v : Nat) : Nat :=
  match r with
  | .gallery _ _ => setBits (setBits 0 3 2 (bitsOf v 3 2)) 0 0 (bitsOf v 0 0)
  | .granule _ _ => v % 8

/-- The partition that a region's register gives it to, if any. -/
def regionOwner (r : RegionId) (v : Nat) : Option Nat :=
  match r with
  | .gallery _ _ => some (bitsOf v 3 2)
  | .granule _ _ => if bitOf v 2 then some (v % 4) else none

/-- A write of GAL_REGION or HBM_OWN (R216, R242, R243): a change is noted and BUSY set; issue of the old and
the new owner stops until it is applied. -/
def State.regionWrite (s : State) (r : RegionId) (v : W32) : State :=
  let cur := (s.reg (regionOff r)).toNat
  let held := (s.changes.find? fun c => c.1 == r).map (·.2.toNat)
  let fixed := match r with
    | .gallery _ _ => bitOf cur 6 && bitOf v.toNat 0
    | .granule _ _ => false
  if fixed || regionFields r v.toNat = regionFields r (held.getD cur) then s
  else
    let cs := s.changes.filter fun c => c.1 != r
    ({ s with changes := cs ++ [(r, v)] }).setBit (regionOff r) 7

/-- REGION_OWNERSHIP_WRITE (R216): the PF writes the register. -/
def execRegionOwnershipWrite (by_ : Func) (r : RegionId) (v : W32) (s : State) :
    Host.Outcome State Fault Refusal :=
  .next (if s.mayMod by_ then s.regionWrite r v else s)

/-- A partition's issue is stopped by a region change (R216). -/
def State.issueStopped (s : State) (p : Nat) : Bool :=
  s.changes.any fun (r, v) => regionOwner r (s.reg (regionOff r)).toNat == some p || regionOwner r v.toNat == some p

/-- Some command of a partition is running. -/
def State.partRunning (s : State) (p : Nat) : Bool :=
  s.cmds.any fun x => decide (x.id.func.val = p + 1) && decide (x.id.ring = 0) &&
    (decide (x.phase = .started) || decide (x.phase = .issued))

/-- Drop the cached lines of a partition in a slice whose lantern-relative line index lies in [lo, hi). -/
def State.cacheDropLines (s : State) (p n lo hi : Nat) : State :=
  let inset := fun k => decide (k / (12 * 131072) = p * 8 + n)
  let cache := s.prot.cache.filterMap fun (k, cs) =>
    if inset k then
      let ways := cs.ways.map fun w => w.filter fun l => decide (l < lo) || decide (hi ≤ l)
      let cs := { cs with ways := ways }
      if cs = CacheSet.empty then none else some (k, cs)
    else some (k, cs)
  { s with prot := { s.prot with cache := cache } }

/-- Zero a byte range of stored memory with correct check bits; the granules hold no version (R156, R216). -/
def State.zeroRange (s : State) (a n : Nat) : State :=
  { s with mem := { cells := tblClear s.mem.cells a (a + n),
                    sectors := tblClear s.mem.sectors (a / 32) ((a + n) / 32),
                    tags := tblClear s.mem.tags (a / 32768) ((a + n) / 32768) } }

/-- Zero the spare rows that rows of a granule are redirected to (R261). -/
def State.zeroSpares (s : State) (n g : Nat) : State :=
  (List.range 2).foldl (fun s c => (List.range 64).foldl (fun s pc => (List.range 8).foldl (fun s w =>
    let r := hbmRemapOff n c pc w
    if s.bit r 31 && decide (s.fld r 19 0 / 8192 = g) then
      s.zeroRange (2 ^ 48 + (((n * 2 + c) * 64 + pc) * 8 + w) * 1024) 1024
    else s) s) s) s

/-- The rows of a granule that trackers hold have been written (R261). -/
def State.trackRows (s : State) (n g : Nat) : State :=
  { s with prot := { s.prot with trackers := s.prot.trackers.map fun (k, t) =>
      if k / 128 = n then (k, t.map fun e => if e.row / 8192 = g then { e with written := true } else e)
      else (k, t) } }

/-- Apply a region change (R216): the new register value, cache lines invalidated, the region zeroed. -/
def State.regionApply (s : State) (r : RegionId) (v : W32) : State :=
  let old := (s.reg (regionOff r)).toNat
  let ps := [regionOwner r old, regionOwner r v.toNat].filterMap id
  let s := { s with changes := s.changes.filter fun c => c.1 != r }
  let s := s.setReg (regionOff r) (BitVec.ofNat 64 (setBits (regionShown r old v.toNat) 7 7 0))
  match r with
  | .gallery n r =>
    (ps.foldl (fun s p => s.cacheDrop p n.val) s).zeroRange
      (galBase + n.val * sliceBytes + r.val * 0x10000000) 0x10000000
  | .granule n g =>
    let s := ps.foldl (fun s p => s.cacheDropLines p n.val (g.val * 8388608) ((g.val + 1) * 8388608)) s
    let s := (s.zeroSpares n.val g.val).trackRows n.val g.val
    s.zeroRange (n.val * 0x1800000000 + g.val * 0x40000000) 0x40000000

/-- REGION_CHANGE_APPLY (R216): once no command of the old and new owners runs. -/
def execRegionChangeApply (r : RegionId) (s : State) : Host.Outcome State Fault Refusal :=
  match s.changes.find? fun c => c.1 == r with
  | none => .next s
  | some (_, v) =>
    let ps := [regionOwner r (s.reg (regionOff r)).toNat, regionOwner r v.toNat].filterMap id
    .next (if ps.any s.partRunning then s else s.regionApply r v)

/-! ## Bandwidth regulators -/

/-- A resource's place in the order of R231. -/
def resIx : Resource → Nat
  | .hbm n c => 2 * n.val + c.val
  | .crossLantern n => 16 + n.val
  | .injection n => 24 + n.val
  | .pcieOut => 32
  | .pcieIn => 33

/-- A partition's configuration register and counter on a resource (R231). -/
def resRegs (r : Resource) (p : Nat) : Nat × Nat :=
  match r with
  | .hbm n c => (hbmRgOff n.val c.val p, hbmRgCntOff n.val c.val p)
  | .crossLantern n => (galXlRgOff n.val p, galXlRgCntOff n.val p)
  | .injection n => (fabInjRgOff n.val p, fabInjRgCntOff n.val p)
  | .pcieOut => (modPcieRgM2hOff p, modPcieRgM2hCntOff p)
  | .pcieIn => (modPcieRgH2mOff p, modPcieRgH2mCntOff p)

/-- P of a resource in bytes a nanosecond, times 3 (R231, R328). -/
def resPeak3 : Resource → Nat
  | .hbm _ _ => 7374
  | .crossLantern _ => 12000
  | .injection _ => 2048
  | .pcieOut | .pcieIn => 363

/-- All resources. -/
def resAll : List Resource :=
  ((List.finRange 8).flatMap fun n => [.hbm n 0, .hbm n 1]) ++ (List.finRange 8).map .crossLantern ++
    (List.finRange 8).map .injection ++ [.pcieOut, .pcieIn]

/-- The depth of a bucket in units of 1 ÷ 3,072 byte: BURST KiB, 0 acting as 1 (R247). -/
def State.bucketMax (s : State) (r : Resource) (p : Nat) : Nat :=
  Nat.max 1 (s.fld (resRegs r p).1 47 32) * 1024 * 3072

/-- A bucket's contents in units of 1 ÷ 3,072 byte, never more than its depth (R247). -/
def State.bucket (s : State) (r : Resource) (p : Nat) : Nat :=
  Nat.min (s.bucketMax r p) (tblGet (fun _ => 0) s.buckets (4 * (resIx r) + p))

/-- Set a bucket's contents. -/
def State.setBucket (s : State) (r : Resource) (p v : Nat) : State :=
  { s with buckets := tblSet (fun _ => 0) s.buckets (4 * (resIx r) + p) v }

/-- A write of a regulator's configuration (R247): the bucket keeps its contents, clamped to the new BURST. -/
def State.rgWrite (s : State) (h : RegHit) (off v : Nat) : State :=
  let s := s.writeFields h off v
  match resAll.findSome? fun r => ((List.range 4).find? fun p => decide ((resRegs r p).1 = off)).map fun p => (r, p) with
  | some (r, p) => s.setBucket r p (s.bucket r p)
  | none => s

/-- One nanosecond of refill of one bucket: RATE × P ÷ 1,024 bytes while EN is set (R232). -/
def State.refill1 (s : State) (r : Resource) (p : Nat) : State :=
  let cfg := (resRegs r p).1
  if s.bit cfg 16 then
    s.setBucket r p (Nat.min (s.bucketMax r p) (s.bucket r p + Nat.min 1024 (s.fld cfg 10 0) * resPeak3 r))
  else s

/-- One nanosecond of refill of every bucket (R232). -/
def State.refill (s : State) : State :=
  resAll.foldl (fun s r => (List.range 4).foldl (fun s p => s.refill1 r p) s) s

/-- The order of grant within a class (R232): PRIO descending, then round-robin from the partition after the
last one granted; the first in that order of the candidates. -/
def State.grantPick (s : State) (r : Resource) (c : List (Part × Nat)) : Option (Part × Nat) :=
  let last := tblGet (fun _ => 3) s.rgLast (resIx r)
  let rank := fun (p : Nat) => (3 - s.fld (resRegs r p).1 19 18) * 4 + (p + 3 - last) % 4
  c.foldl (fun b x => match b with
    | none => some x
    | some y => if rank x.1.val < rank y.1.val then some x else some y) none

/-- The class of a request of `n` bytes (R232): 0 for A, 1 for B, none while it waits for refill. -/
def State.rgClass (s : State) (r : Resource) (p n : Nat) : Option Nat :=
  let cfg := (resRegs r p).1
  if !s.bit cfg 16 || decide (n * 3072 ≤ s.bucket r p) then some 0
  else if s.bit cfg 17 then some 1 else none

/-- A grant of `n` bytes (R231, R232): counted, and debited from the bucket of an enabled class-A partition. -/
def State.rgGive (s : State) (r : Resource) (p n : Nat) : State :=
  let s' : State := { (s.count (resRegs r p).2 n) with rgLast := tblSet (fun _ => 3) s.rgLast (resIx r) p }
  if s.bit (resRegs r p).1 16 && s.rgClass r p n == some 0 then s'.setBucket r p (s.bucket r p - n * 3072) else s'

/-- A grant opportunity of a resource (R232): class A first, then class B. -/
def State.grant (s : State) (r : Resource) (pending : List (Part × Nat)) : State :=
  let class_ := fun (k : Nat) => pending.filter fun x => s.rgClass r x.1.val x.2 == some k
  match (s.grantPick r (class_ 0)).or (s.grantPick r (class_ 1)) with
  | some x => s.rgGive r x.1.val x.2
  | none => s

/-- REGULATOR_GRANT (R232). -/
def execRegulatorGrant (res : Resource) (pending : List (Part × Nat)) (s : State) :
    Host.Outcome State Fault Refusal :=
  .next (s.grant res pending)

end Sys2Proof.Machine
end

