-- ==== Sys2Proof/Machine/Protect.lean ====
section
/-! DEFINITION. The checker test port (R263, R270) and the patrol (R260): the operations, and the meanings of
their rows. -/

namespace Sys2Proof.Machine

/-- The test port's target: HBM, or a gallery scratchpad region outside the reserved area, aligned to 32 bytes
(R263). -/
def State.chkTarget (s : State) (a : Nat) : Bool :=
  decide (a % 32 = 0) &&
  match windowOf a with
  | .hbm => true
  | .gallery => !s.bit (galRegionOff (galSlice a) (galRegion a)) 0
  | _ => false

/-- An operation of the test port ends: DONE, with ERR when its target was refused. -/
def State.chkDone (s : State) (err : Bool) : State :=
  let s := s.setBit modChkCtrlOff 0
  if err then s.setBit modChkCtrlOff 9 else s

/-- WRITE_RAW at a sector (R263): the data and check bits as given, or the data under the poison mark. -/
def State.writeRaw (s : State) (a : Nat) : State :=
  let data := (List.range 4).flatMap fun i => natLe 8 (s.reg (modChkDataOff i)).toNat
  let check := (s.reg modChkCheckOff).setWidth 32
  let poison := s.bit modChkCtrlOff 6
  let k := s.physSector (a / 32)
  if a < 0xC000000000 then
    let md : SectorMeta := if poison then ⟨poisonDelta, 0⟩ else ⟨check ^^^ eccCheck data, 0⟩
    let n := a / 0x1800000000
    let l := (a - n * 0x1800000000) / 128
    let s := (List.range 4).foldl (fun s p => s.cacheDropLines p n l (l + 1)) (s.trackWrite (hbmDecode a))
    { s with mem := s.mem.put k 0 data md }
  else
    { s with mem := s.mem.put k 0 data ⟨check ^^^ parityBits data, if poison then 3 else 0⟩ }

/-- READ_RAW at a sector (R263): the stored symbols, or data, parity bits and poison state. -/
def State.readRaw (s : State) (a : Nat) : State :=
  let k := s.physSector (a / 32)
  let data := s.mem.data k
  let md := s.mem.meta k
  let s := (List.range 4).foldl (fun s i =>
    s.setReg (modChkDataOff i) (BitVec.ofNat 64 (leNat ((data.drop (8 * i)).take 8)))) s
  if a < 0xC000000000 then s.setReg modChkCheckOff ((eccCheck data ^^^ md.delta).setWidth 64)
  else
    (s.setReg modChkCheckOff ((parityBits data ^^^ md.delta).setWidth 64)).setFld modChkCtrlOff 8 8
      (if md.poison = 0 then 0 else 1)

/-- The RW and W1C fields of a write of MOD_CHK_CTRL (R270). -/
def State.chkCtrlFields (s : State) (v : W32) : State :=
  match regAt modChkCtrlOff with
  | some h => s.writeFields h modChkCtrlOff v.toNat
  | none => s

/-- A write of MOD_CHK_CTRL: its fields, then the operation that OP starts while EN is 1 (R263, R270). -/
def State.chkWrite (s : State) (v : W32) : State :=
  let s := s.chkCtrlFields v
  let op := bitsOf v.toNat 3 2
  let a := s.fld modChkAddrOff 47 0
  if !s.bit modChkCtrlOff 7 || !(op == 1 || op == 2) then s
  else if !s.chkTarget a then s.chkDone true
  else if op = 1 then (s.writeRaw a).chkDone false
  else (s.readRaw a).chkDone false

/-- WRITE_RAW (R263): a write of MOD_CHK_CTRL with OP 1. -/
def execWriteRaw (by_ : Func) (v : W32) (s : State) : Host.Outcome State Fault Refusal :=
  .next (if s.mayMod by_ then s.chkWrite (BitVec.ofNat 32 (setBits v.toNat 3 2 1)) else s)

/-- READ_RAW (R263): a write of MOD_CHK_CTRL with OP 2. -/
def execReadRaw (by_ : Func) (v : W32) (s : State) : Host.Outcome State Fault Refusal :=
  .next (if s.mayMod by_ then s.chkWrite (BitVec.ofNat 32 (setBits v.toNat 3 2 2)) else s)

/-! ## Patrol -/

/-- A patrol unit's number in its table of positions. -/
def patrolIx : PatrolUnit → Nat
  | .hbm n c => 2 * n.val + c.val
  | .gallery n => 16 + n.val

/-- A patrol unit's next position. -/
def State.patrolPos (s : State) (u : PatrolUnit) : Nat := tblGet (fun _ => 0) s.prot.patrolNext (patrolIx u)

/-- Move a patrol unit on, round its whole range (R260). -/
def State.patrolMove (s : State) (u : PatrolUnit) (pos : Nat) : State :=
  { s with prot := { s.prot with patrolNext := tblSet (fun _ => 0) s.prot.patrolNext (patrolIx u) pos } }

/-- The patrol of a controller reads one codeword (R260): counted as it is found, nothing rewritten. -/
def State.patrolHbm (s : State) (n c pos : Nat) : State :=
  let j := pos / 4
  let a := n * 0x1800000000 + (j / 64 * 128 + c * 64 + j % 64) * 128 + pos % 4 * 32
  s.eccNote (hbmDecode a) (a / 32) (eccClass (s.mem.meta (s.physSector (a / 32))).delta) true

/-- The patrol of a slice reads one line of a cache region: the way of a set that lies there, the region holding sets in
order with their ways side by side (assumption 119). A cached line that fails parity is counted and invalidated, and not
fetched again (R260). -/
def State.patrolWay (s : State) (n r j : Nat) : State :=
  let p := s.fld (galRegionOff n r) 3 2
  let rank := (s.cacheRegions p n).idxOf r
  let key := ((p * 8 + n) * 12 + rank) * 131072 + j / 16
  let cs := s.cacheSet key
  if cs.bad.getLsbD (j % 16) && (cs.ways.getD (j % 16) none).isSome then
    (s.putCacheSet key { cs.mend (j % 16) with ways := cs.ways.set (j % 16) none }).count (galParPatrolOff n)
  else s

/-- The patrol of a slice reads one line (R260): a scratchpad sector that fails parity is counted and marked
poisoned. -/
def State.patrolGal (s : State) (n pos : Nat) : State :=
  let a := galBase + n * sliceBytes + pos * 128
  let r := galRegion a
  if s.bit (galRegionOff n r) 0 then s.patrolWay n r (pos % 0x200000)
  else
    (List.range 4).foldl (fun s i =>
      let k := a / 32 + i
      let md := s.mem.meta k
      if md.delta = 0 then s
      else
        let s := s.count (galParPatrolOff n)
        { s with mem := s.mem.put k 0 [] { md with poison := 3 } }) s

/-- PATROL_READ (R260): the unit's next codeword or line, while its period is not 0. -/
def execPatrolRead (u : PatrolUnit) (s : State) : Host.Outcome State Fault Refusal :=
  let pos := s.patrolPos u
  match u with
  | .hbm n c =>
    let r := hbmScrubOff n.val c.val
    if s.fld r 7 0 = 0 then .next (s.setFld r 31 31 0)
    else
      let next := (pos + 1) % 0x60000000
      .next (((s.patrolHbm n.val c.val pos).patrolMove u next).setFld r 31 31 (if next = 0 then 0 else 1))
  | .gallery n =>
    let r := galScrubOff n.val
    if s.fld r 7 0 = 0 then .next (s.setFld r 31 31 0)
    else
      let next := (pos + 1) % 0x1800000
      .next (((s.patrolGal n.val pos).patrolMove u next).setFld r 31 31 (if next = 0 then 0 else 1))

end Sys2Proof.Machine
end

