-- ==== Sys2Proof/Machine/Vector.lean ====
section
/-! DEFINITION. The vector engines' micro-ops on the lane registers of the element in hand (R103, R104, R106
to R108, R110, R112, R142). One function per opcode; a micro-op list runs the same functions (Lists.lean). -/

namespace Sys2Proof.Machine

/-- A list header with nothing in it: one element, RN, no stream. -/
def VHeader.empty : VHeader :=
  { n := 1, seg := 0, ops := 1, rnd := 0, update := false, stream := 0, redPtr := 0, redInit := 0, idxBase := 0,
    streams := [], consts := [], rsvd := false }

/-- A lane at the start of an element's list: sixteen registers of zero bits (R103). -/
def Lane.fresh (h : VHeader) (p : Part) (e g j : Nat) : Lane :=
  { regs := Vector.replicate 16 0, marks := [], elem := e, segm := g, pos := j, opIx := 0, hdr := h, part := p,
    flags := 0, leaves := [], loaded := [], drift := [], g4 := [], bitten := none, refused := none }

/-- The lane an engine holds; before any list, a fresh one of partition 0. -/
def State.lane (s : State) (v : Nat) : Lane :=
  tblGet (fun _ => Lane.fresh VHeader.empty 0 0 0 0) s.lanes v

/-- Replace the lane an engine holds. -/
def State.setLane (s : State) (v : Nat) (l : Lane) : State :=
  { s with lanes := tblSet (fun _ => Lane.fresh VHeader.empty 0 0 0 0) s.lanes v l }

/-- The segment length in force: SEG, or N when SEG is 0 (R100). -/
def VHeader.segLen (h : VHeader) : Nat := if h.seg = 0 then h.n else h.seg

/-- Elements of segment `g`; the last segment holds what remains (R99). -/
def VHeader.segSize (h : VHeader) (g : Nat) : Nat := Nat.min h.segLen (h.n - g * h.segLen)

/-- Register `i`. -/
def Lane.reg (l : Lane) (i : Nat) : W64 := l.regs[i]?.getD 0

/-- The operand of an op of type T: bits [31:0] for FP32 and INT32 (R103). -/
def Lane.src (l : Lane) (t : Nat) (i : Nat) : Nat :=
  if t % 2 = 0 then (l.reg i).toNat % 2 ^ 32 else (l.reg i).toNat

/-- Write a result: 32-bit types clear bits [63:32] (R103); the poison mark goes with it. -/
def Lane.dst (l : Lane) (t i v : Nat) (mark : Option Nat) : Lane :=
  { l with regs := l.regs.setIfInBounds i (BitVec.ofNat 64 (if t % 2 = 0 then v % 2 ^ 32 else v)),
           marks := match mark with
             | some a => keySet l.marks i a
             | none => keyDel l.marks i }

/-- The sector of the first poisoned source among these registers. -/
def Lane.marked (l : Lane) (rs : List (Fin 16)) : Option Nat := rs.findSome? fun i => keyGet l.marks i.val

/-- The lane has bitten or met a refused address: it does nothing more of its list (R112). -/
def Lane.stopped (l : Lane) : Bool := l.bitten.isSome || l.refused.isSome

/-- The floating-point format of T (0 FP32, 1 FP64). -/
def fpOf (t : BitVec 2) : Fmt := if t = 1 then .fp64 else .fp32

/-- The rounding code in force for an op (R102). -/
def Lane.mode (l : Lane) (u : MicroOp) : Nat := if u.ovr then u.rnd.toNat else l.hdr.rnd

/-- The random value of an op at the lane's list position (R104); drawn from the seed and step in force. -/
def State.laneRandom (s : State) (l : Lane) : Nat :=
  let pl := (s.job l.part.val).plan
  srBits (pl.elim 0 (·.seed)) (pl.elim 0 (·.step))
    (tensorId (if l.hdr.update then .update else .vector) (l.hdr.stream + l.opIx)) (l.hdr.idxBase.toNat + l.elem)

/-- The random value where the mode is SR. -/
def State.laneR (s : State) (l : Lane) (mode : Nat) : Nat := if mode = 2 then s.laneRandom l else 0

/-- Raise flags on the lane and in VE_FLAGS of the lantern (R97). -/
def raiseFlags (v : Nat) (f : Flags) (ls : Lane × State) : Lane × State :=
  ({ ls.1 with flags := ls.1.flags ||| f }, ls.2.veFlag (v / 2) ls.1.part.val f)

/-- What one micro-op does: the engine, its fields, the lane and the state to what they become. -/
abbrev OpSem := Nat → MicroOp → Lane → State → Lane × State

/-- An op that computes with its sources: a marked source bites (R112). -/
def computing (srcs : MicroOp → List (Fin 16)) (f : OpSem) : OpSem := fun v u l s =>
  match l.marked (srcs u) with
  | some a => ({ l with bitten := some a }, s)
  | none => f v u l s

/-- A rounded floating-point op (R96): the exact value of the operands with its flags, rounded once. -/
def fpOp (srcs : MicroOp → List (Fin 16)) (g : Nat → List FVal → FVal × Flags) : OpSem :=
  computing srcs fun v u l s =>
    let f := fpOf u.t
    let m := l.mode u
    let (x, fl) := g m ((srcs u).map fun i => f.decode (l.src u.t.toNat i.val))
    let (c, fl') := roundTo f x m (s.laneR l m)
    raiseFlags v (fl ||| fl') (l.dst u.t.toNat u.d.val c none, s)

/-- A floating-point op whose result is one of its operands or the canonical NaN: nothing is rounded. -/
def fpPick (g : List FVal → FVal × Flags) : OpSem :=
  computing (fun u => [u.a, u.b]) fun v u l s =>
    let f := fpOf u.t
    let (x, fl) := g ([u.a, u.b].map fun i => f.decode (l.src u.t.toNat i.val))
    raiseFlags v fl (l.dst u.t.toNat u.d.val (rnCode f x) none, s)

/-- A bitwise or integer op of two sources. -/
def intOp (g : Nat → Nat → Nat → Nat) : OpSem :=
  computing (fun u => [u.a, u.b]) fun _ u l s =>
    let w := if u.t.toNat % 2 = 0 then 32 else 64
    (l.dst u.t.toNat u.d.val (g w (l.src u.t.toNat u.a.val) (l.src u.t.toNat u.b.val) % 2 ^ w) none, s)

/-- NOP: nothing. -/
def opNop : OpSem := fun _ _ l s => (l, s)

/-- MOV: bits copied, the mark with them (R112). -/
def opMov : OpSem := fun _ u l s => (l.dst u.t.toNat u.d.val (l.src u.t.toNat u.a.val) (l.marked [u.a]), s)

/-- An FP32 code widened exactly to FP64 (R106); a NaN becomes the canonical one
(R31; DEDUCED, assumption 118). -/
def widen (c : Nat) : Nat := rnCode .fp64 (Fmt.fp32.decode c)

/-- 32 bits sign-extended to 64. -/
def sext32 (v : Nat) : Nat := if v < 2 ^ 31 then v else v + (2 ^ 64 - 2 ^ 32)

/-- A 32-bit constant as type T takes it (CONST, BCAST in R106). -/
def constOf (t : BitVec 2) (c : Nat) : Nat :=
  if t = 1 then widen c else if t = 3 then sext32 c else c

/-- CONST. -/
def opConst : OpSem := fun _ u l s => (l.dst u.t.toNat u.d.val (constOf u.t u.imm.toNat) none, s)

/-- BCAST. -/
def opBcast : OpSem := fun _ u l s =>
  (l.dst u.t.toNat u.d.val (constOf u.t (l.hdr.consts.getD (u.imm.toNat % 16) 0).toNat) none, s)

/-- IDX: the index, or the position in the segment. -/
def opIdx : OpSem := fun _ u l s =>
  (l.dst 3 u.d.val (if bitOf u.imm.toNat 0 then l.pos else l.hdr.idxBase.toNat + l.elem) none, s)

/-- Two sources, A and B. -/
def srcAB (u : MicroOp) : List (Fin 16) := [u.a, u.b]
/-- Three sources, A, B and C. -/
def srcABC (u : MicroOp) : List (Fin 16) := [u.a, u.b, u.c]
/-- One source, A. -/
def srcA (u : MicroOp) : List (Fin 16) := [u.a]

/-- Operand `i` of a list of values. -/
def arg (xs : List FVal) (i : Nat) : FVal := xs.getD i .zero

/-- ADD. -/
def opAdd : OpSem := fpOp srcAB fun m xs => let (v, i) := fvAdd (arg xs 0) (arg xs 1) m; (v, invFlag i)
/-- SUB. -/
def opSub : OpSem := fpOp srcAB fun m xs =>
  let (v, i) := fvAdd (arg xs 0) (arg xs 1).negate m; (v, invFlag i)
/-- MUL. -/
def opMul : OpSem := fpOp srcAB fun _ xs => let (v, i) := fvMul (arg xs 0) (arg xs 1); (v, invFlag i)
/-- DIV. -/
def opDiv : OpSem := fpOp srcAB fun _ xs => fvDiv (arg xs 0) (arg xs 1)
/-- FMA. -/
def opFma : OpSem := fpOp srcABC fun m xs =>
  let (v, i) := fvFma (arg xs 0) (arg xs 1) (arg xs 2) m; (v, invFlag i)
/-- FMS. -/
def opFms : OpSem := fpOp srcABC fun m xs =>
  let (v, i) := fvFma (arg xs 0) (arg xs 1) (arg xs 2).negate m; (v, invFlag i)
/-- FNMA: −(A × B) + C. -/
def opFnma : OpSem := fpOp srcABC fun m xs =>
  let (v, i) := fvFma (arg xs 0).negate (arg xs 1) (arg xs 2) m; (v, invFlag i)
/-- SQRT. -/
def opSqrt : OpSem := fpOp srcA fun _ xs => fvSqrt (arg xs 0)
/-- RSQRT. -/
def opRsqrt : OpSem := fpOp srcA fun _ xs => fvRsqrt (arg xs 0)

/-- The bits of A with the sign that `g` makes of A's and B's (ABS, NEG, COPYSIGN): NaNs are copied (R106; assumption 22
for COPYSIGN). -/
def withSign (u : MicroOp) (l : Lane) (g : Bool → Bool → Bool) : Lane :=
  let w := if u.t.toNat % 2 = 0 then 31 else 63
  let a := l.src u.t.toNat u.a.val
  let sg := g (bitOf a w) (bitOf (l.src u.t.toNat u.b.val) w)
  l.dst u.t.toNat u.d.val (a % 2 ^ w + (if sg then 2 ^ w else 0)) none

/-- ABS, which raises no flag. -/
def opAbs : OpSem := computing srcA fun _ u l s => (withSign u l fun _ _ => false, s)
/-- NEG, which raises no flag. -/
def opNeg : OpSem := computing srcA fun _ u l s => (withSign u l fun a _ => !a, s)
/-- COPYSIGN: a signalling NaN raises invalid (R98). -/
def opCopysign : OpSem := computing srcAB fun v u l s =>
  let f := fpOf u.t
  raiseFlags v (sigFlag [f.decode (l.src u.t.toNat u.a.val), f.decode (l.src u.t.toNat u.b.val)])
    (withSign u l fun _ b => b, s)

/-- MIN. -/
def opMin : OpSem := fpPick fun xs => fvExtreme false (arg xs 0) (arg xs 1)
/-- MAX. -/
def opMax : OpSem := fpPick fun xs => fvExtreme true (arg xs 0) (arg xs 1)
/-- MINNUM. -/
def opMinnum : OpSem := fpPick fun xs => fvExtremeNum false (arg xs 0) (arg xs 1)
/-- MAXNUM. -/
def opMaxnum : OpSem := fpPick fun xs => fvExtremeNum true (arg xs 0) (arg xs 1)

/-- 32 bits as a signed integer. -/
def sInt32 (v : Nat) : Int := if v % 2 ^ 32 < 2 ^ 31 then (v % 2 ^ 32 : Nat) else (v % 2 ^ 32 : Nat) - 2 ^ 32
/-- 64 bits as a signed integer. -/
def sInt64 (v : Nat) : Int := if v % 2 ^ 64 < 2 ^ 63 then (v % 2 ^ 64 : Nat) else (v % 2 ^ 64 : Nat) - 2 ^ 64
/-- Bits of type T (2 INT32, 3 INT64) as a signed integer. -/
def intOf (t : BitVec 2) (v : Nat) : Int := if t.toNat % 2 = 0 then sInt32 v else sInt64 v
/-- The low 64 bits of an integer. -/
def ofInt64 (i : Int) : Nat := (i % 2 ^ 64).toNat

/-- SCALEB: A × 2^B, B as INT32. An exponent beyond ±5,000 acts as that limit, which rounds alike. -/
def opScaleb : OpSem := computing srcAB fun v u l s =>
  let f := fpOf u.t
  let m := l.mode u
  let a := f.decode (l.src u.t.toNat u.a.val)
  let k := max (-5000) (min 5000 (sInt32 (l.reg u.b.val).toNat))
  let (c, fl) := roundTo f (a.scale k) m (s.laneR l m)
  raiseFlags v (fl ||| sigFlag [a]) (l.dst u.t.toNat u.d.val c none, s)

/-- RINT. -/
def opRint : OpSem := computing srcA fun v u l s =>
  let f := fpOf u.t
  let (x, fl) := fvRint (f.decode (l.src u.t.toNat u.a.val)) (l.mode u)
  raiseFlags v fl (l.dst u.t.toNat u.d.val (rnCode f x) none, s)

/-- A CMP predicate between floating-point values with its flags (R108). -/
def fpCompare (pr : Nat) (a b : FVal) : Bool × Flags :=
  let un := a.isNan || b.isNan
  let quiet := sigFlag [a, b]
  let eq := !un && !fvLt false a b && !fvLt false b a
  match pr with
  | 0 => (eq, quiet)
  | 1 => (!eq, quiet)
  | 2 => if un then (false, flInvalid) else (fvLt false a b, 0)
  | 3 => if un then (false, flInvalid) else (fvLt false a b || eq, 0)
  | 4 => (un, quiet)
  | _ => (false, 0)

/-- A CMP predicate between integer bits (R108). -/
def intCompare (pr : Nat) (sa sb : Int) (a b : Nat) : Bool :=
  match pr with
  | 0 => a == b
  | 1 => a != b
  | 2 => decide (sa < sb)
  | 3 => decide (sa ≤ sb)
  | 5 => decide (a < b)
  | 6 => decide (a ≤ b)
  | _ => false

/-- CMP: INT32 1 or 0. -/
def opCmp : OpSem := computing srcAB fun v u l s =>
  let a := l.src u.t.toNat u.a.val
  let b := l.src u.t.toNat u.b.val
  let pr := u.imm.toNat % 8
  let (r, fl) :=
    if u.t.toNat < 2 then fpCompare pr ((fpOf u.t).decode a) ((fpOf u.t).decode b)
    else (intCompare pr (intOf u.t a) (intOf u.t b) a b, 0)
  raiseFlags v fl (l.dst 2 u.d.val (if r then 1 else 0) none, s)

/-- SEL: A when C[31:0] ≠ 0, else B; a poisoned C bites, and only the chosen operand's mark travels (R112). -/
def opSel : OpSem := computing (fun u => [u.c]) fun _ u l s =>
  let i := if (l.reg u.c.val).toNat % 2 ^ 32 = 0 then u.b else u.a
  (l.dst u.t.toNat u.d.val (l.src u.t.toNat i.val) (l.marked [i]), s)

/-- A transcendental op (R107). -/
def opTrans (t : Trans) : OpSem := fpOp srcA fun _ xs => fvTrans t (arg xs 0)

/-- IADD. -/
def opIadd : OpSem := intOp fun _ a b => a + b
/-- ISUB. -/
def opIsub : OpSem := intOp fun w a b => a + 2 ^ w - b
/-- IMUL. -/
def opImul : OpSem := intOp fun _ a b => a * b
/-- AND. -/
def opAnd : OpSem := intOp fun _ a b => a &&& b
/-- OR. -/
def opOr : OpSem := intOp fun _ a b => a ||| b
/-- XOR. -/
def opXor : OpSem := intOp fun _ a b => a ^^^ b
/-- SHL. -/
def opShl : OpSem := intOp fun w a b => a <<< (b % w)
/-- SHR. -/
def opShr : OpSem := intOp fun w a b => a >>> (b % w)
/-- SAR. -/
def opSar : OpSem := intOp fun w a b =>
  let i : Int := if w = 32 then sInt32 a else sInt64 a
  ofInt64 (i >>> (b % w))

/-- The range of INT32 or INT64. -/
def intRange (t : BitVec 2) : Int × Int :=
  if t.toNat % 2 = 0 then (-(2 ^ 31), 2 ^ 31 - 1) else (-(2 ^ 63), 2 ^ 63 - 1)

/-- CVT from type IMM[1:0] to T (R108). -/
def opCvt : OpSem := computing srcA fun v u l s =>
  let ft : BitVec 2 := u.imm.setWidth 2
  let a := l.src ft.toNat u.a.val
  let m := l.mode u
  let t := u.t.toNat
  if ft = u.t then (l.dst t u.d.val a none, s)
  else if ft.toNat < 2 ∧ t < 2 then
    let x := (fpOf ft).decode a
    let (c, fl) := roundTo (fpOf u.t) x m (s.laneR l m)
    raiseFlags v (fl ||| sigFlag [x]) (l.dst t u.d.val c none, s)
  else if ft.toNat < 2 then
    let (lo, hi) := intRange u.t
    let (i, fl) := fvToInt ((fpOf ft).decode a) lo hi m (s.laneR l m)
    raiseFlags v fl (l.dst t u.d.val (ofInt64 i) none, s)
  else if t < 2 then
    let (c, fl) := roundTo (fpOf u.t) (.ofRat (intOf ft a : Int)) m (s.laneR l m)
    raiseFlags v fl (l.dst t u.d.val c none, s)
  else (l.dst t u.d.val (ofInt64 (intOf ft a)) none, s)

/-! ## Streams -/

/-- A stream that is not used. -/
def VStream.unused : VStream :=
  { ptr := 0, stride := 0, fmt := 0, mode := 3, out := false, inf := false, amax := false, rsvd := 0,
    slot := 0xFFFF, scPtr := 0 }

/-- Stream `i` of a header. -/
def VHeader.streamAt (h : VHeader) (i : Nat) : VStream := h.streams.getD i VStream.unused

/-- The format of a stream. -/
def VStream.format (st : VStream) : Fmt := (Fmt.ofCode st.fmt).getD .fp32

/-- The local offset of a stream's element at segment g, position j, and of its G4 block scale (R101). -/
def VStream.addr (st : VStream) (h : VHeader) (g j : Nat) : Nat × Nat :=
  let p := st.ptr.toNat % 2 ^ 48
  let sc := st.scPtr.toNat % 2 ^ 48
  let off := fun j => if st.format = .g4 then j / 2 else j * st.format.bytes
  match st.mode with
  | 0 => (p + g * st.stride + off j, sc + g * ((h.segLen + 31) / 32) + j / 32)
  | 1 => (p + g * st.stride, sc + g)
  | _ => (p, sc)

/-- Integer formats of one width are one register format (INT32 and UINT32, INT64 and UINT64). -/
def sameReg (f : Fmt) (t : BitVec 2) : Bool :=
  match f with
  | .fp32 => t == 0
  | .fp64 => t == 1
  | .int32 | .uint32 => t == 2
  | .int64 | .uint64 => t == 3
  | _ => false

/-- The signed or unsigned value of an integer format's code. -/
def Fmt.intVal (f : Fmt) (c : Nat) : Int :=
  match f with
  | .int32 => sInt32 c
  | .int64 => sInt64 c
  | _ => c

/-- A code of an element format as a value; an integer format's as its integer. -/
def Fmt.value (f : Fmt) (c : Nat) : FVal := if f.isInt then .ofRat (f.intVal c : Int) else f.decode c

/-- The range of an integer format. -/
def Fmt.intRange (f : Fmt) : Int × Int :=
  match f with
  | .int32 => (-(2 ^ 31), 2 ^ 31 - 1)
  | .uint32 => (0, 2 ^ 32 - 1)
  | .int64 => (-(2 ^ 63), 2 ^ 63 - 1)
  | _ => (0, 2 ^ 64 - 1)

/-- The lane meets an address outside its partition's regions: VE_ERR.BOUNDS, nothing touched (R112). -/
def refuse (v a : Nat) (l : Lane) (s : State) : Lane × State :=
  ({ l with refused := some a }, s.setBit (veErrOff (v / 2) (v % 2)) 1)

/-- Convert a loaded code to type T (R104): the exact value under the stream's scales, rounded once, with its flags, which
an integer destination does not raise (R97). An integer format's codes are the integers they spell, and between integer
formats with σ = 0 extend or keep their low bits as CVT does (assumption 23, DEDUCED). -/
def loadValue (f : Fmt) (c : Nat) (sigma : Int) (blk : Option Int) (t : BitVec 2) (m r : Nat) : Nat × Flags :=
  let x := if f.isInt then (f.value c).scale (-sigma) else decodeScaled f c sigma blk
  let x := if !f.isInt && (f.decode c).isSig then .nan true else x
  if t.toNat < 2 then
    let (c, fl) := roundTo (fpOf t) x m r
    (c, fl ||| sigFlag [x])
  else if f.isInt ∧ sigma = 0 then (ofInt64 (f.intVal c), 0)
  else
    let (lo, hi) := Machine.intRange t
    (ofInt64 (fvToInt x lo hi m r).1, 0)

/-- A value as an exact rational; none for a NaN or an infinity. -/
def FVal.rat? : FVal → Option Rat
  | .fin s m => some (if s then -m else m)
  | _ => none

/-- LOAD (R104). The code is copied unchanged where the formats are equal and σ is 0 (R98). A SEG or SCALAR stream has one
value, element 0 of its G4 block (R21, R101). -/
def opLoad : OpSem := fun v u l s =>
  let st := l.hdr.streamAt u.s.val
  let f := st.format
  let p := l.part.val
  let (a, sca) := st.addr l.hdr l.segm l.pos
  let n := Nat.max 1 f.bytes
  match s.refused p a n with
  | some b => refuse v b l s
  | none =>
    let (bs, s) := s.load p a n
    let c := if f = .g4 then elemCode .g4 (plain bs) (if st.mode = 0 then l.pos % 2 else 0) else leNat (plain bs)
    let sg := s.sigmaOf p st.slot
    let (sb, s) := if f = .g4 then s.load p sca 1 else ([], s)
    let blk := if f = .g4 then scaleExp (leNat (plain sb)) else some 0
    let w := if f.isInt then (f.value c).scale (-sg) else decodeScaled f c sg blk
    let l := { l with loaded := keySet l.loaded u.s.val w.rat? }
    if sameReg f u.t && decide (sg = 0) then (l.dst u.t.toNat u.d.val c (firstPoison a bs), s)
    else
      match (firstPoison a bs).or (firstPoison sca sb) with
      | some b => ({ l with bitten := some b }, s)
      | none =>
        let m := l.mode u
        let (x, fl) := loadValue f c sg blk u.t m (s.laneR l m)
        raiseFlags v fl (l.dst u.t.toNat u.d.val x none, s)

/-- Add a capture where the stream asks for it. -/
def captureIf (on : Bool) (x : FVal) (a : SlotAcc) : SlotAcc := if on then a.capture x else a

/-- One MW16 ulp at a stored master value m under exponent σ, in real units (R142). -/
def mw16Ulp (m : Rat) (sg : Int) : Rat :=
  let a := if m < 0 then -m else m
  if a = 0 then pow2 (-17 - sg) else pow2 (max (floorLog2 (a * pow2 sg)) (-6) - 11 - sg)

/-- The tensor index of the element in hand (R142). -/
def Lane.index (l : Lane) : Nat := l.hdr.idxBase.toNat + l.elem

/-- Where the shadow of the element in hand lies, when the MASTER slot samples it (R142). -/
def driftPlace (l : Lane) (r : SlotRaw) : Option Nat :=
  if slKind r = 1 ∧ slDrift r ∧ l.index % 4096 = slDriftPhase r then
    some (slDriftPtr r % 2 ^ 48 + 4 * (l.index / 4096))
  else none

/-- A rational that may be missing, as a value. -/
def valOf : Option Rat → FVal
  | some q => .ofRat q
  | none => .nan false

/-- The drift monitor's sample at a store of stream `i` (R142): the new shadow at `a` from
the `old` one, and the drift in ulps, which is no
number where the old or the new value is none (assumption 121). -/
def driftSample (l : Lane) (s : State) (i a old : Nat) (wn : FVal) (code : Nat) : Lane × State :=
  let st := l.hdr.streamAt i
  let p := l.part.val
  let r := s.slot p st.slot
  let w := valOf ((keyGet l.loaded i).getD none)
  let old := if slDriftInit r then rnVal .fp32 w else Fmt.fp32.decode old
  let sh := rnCode .fp32 (fvAdd old (fvAdd wn w.negate 0).1 0).1
  let pend := slPend r
  let d := match ((st.format.value code).scale (-pend)).rat?, (Fmt.fp32.decode sh).rat? with
    | some m, some q => some ((m - q) / mw16Ulp m pend)
    | _, _ => none
  ({ l with drift := l.drift ++ [(st.slot, l.index, d)] }, s.storeP p a (clean (natLe 4 sh)))

/-- Write a G4 block once all its elements have stored by one STORE (R112): the scale of R24 from its own values. -/
def writeG4 (l : Lane) (s : State) (i b : Nat) (capture : Bool) (sg : Int) : State :=
  let st := l.hdr.streamAt i
  let p := l.part.val
  let lo := 32 * b
  let n := Nat.min 32 (l.hdr.segSize l.segm - lo)
  let es := l.g4.filter fun e => e.stream == i && e.segm == l.segm && e.pos / 32 == b && e.op == l.opIx
  if es.length < n then s
  else
    let val := fun (e : G4Store) => (if e.fp64 then Fmt.fp64 else Fmt.fp32).decode e.v.toNat
    let xe := blockScaleExp (es.filterMap fun e => match val e with
      | .fin _ m => some (m * pow2 sg)
      | _ => none)
    let conv := fun j => (es.find? fun e => e.pos == lo + j).map fun e =>
      (convert (val e) .g4 e.mode sg xe false e.r, val e)
    let cs := (List.range n).filterMap conv
    let acc := cs.foldl (fun a (c, x) => captureIf capture x (a.conv c)) SlotAcc.none
    let code := fun j => ((cs[j]?).map fun c => c.1.code).getD 0
    let bytes := (List.range ((n + 1) / 2)).map fun k => BitVec.ofNat 8 (code (2 * k) + 16 * code (2 * k + 1))
    let (a, sca) := st.addr l.hdr l.segm lo
    let s := s.storeP p a (clean bytes)
    let s := s.storeP p sca (clean [BitVec.ofNat 8 (scaleCode xe)])
    s.slotApply p st.slot acc

/-- Convert a value into an integer format under σ (R22, R97): rounded and clamped as CVT does, with no flag; a value
beyond the format's range is a saturation of R33 (assumption 23, DEDUCED). -/
def convertInt (x : FVal) (f : Fmt) (mode : Nat) (sigma : Int) (r : Nat) : Conv :=
  let (lo, hi) := f.intRange
  let y := x.scale sigma
  let code := ofInt64 (fvToInt y lo hi mode r).1
  match y with
  | .fin s m =>
    let k : Int := roundOn m 0 s mode r
    let v := if s then -k else k
    if v < lo ∨ hi < v then ⟨code, some (max 0 (min 255 (floorLog2 m - floorLog2 hi))).toNat, false, 0⟩
    else ⟨code, none, false, 0⟩
  | _ => ⟨code, none, true, 0⟩

/-- The conversion of a STORE into a format other than G4 (R28, R104). Between integers with σ = 0 the low bits are kept
(assumption 23, DEDUCED). -/
def storeConv (st : VStream) (x : FVal) (int? : Option Int) (m : Nat) (sg : Int) (r : Nat) : Conv :=
  match int? with
  | some i => if st.format.isInt ∧ sg = 0 then ⟨ofInt64 i, none, false, 0⟩
    else if st.format.isInt then convertInt x st.format m sg r else convert x st.format m sg 0 st.inf r
  | none => if st.format.isInt then convertInt x st.format m sg r else convert x st.format m sg 0 st.inf r

/-- STORE (R104): a copy where the formats are equal and σ is 0 (R98), else a conversion by R28 with the stream's σ and INF
flag, counted in its slot (R33). A copy makes no conversion, so it counts no NaN and no infinity, and captures where the
stream asks for it (assumption 57, DESIGN CHOICE). A store to a MASTER slot rounds SR under SIGMA_PEND, captures (R140)
and takes the drift monitor's sample, whose shadow's poison or place stops the lane before it stores (R112, R142). -/
def opStore : OpSem := fun v u l s =>
  let st := l.hdr.streamAt u.s.val
  let f := st.format
  let p := l.part.val
  let (a, _) := st.addr l.hdr l.segm l.pos
  let slot := s.slot p st.slot
  let master := decide (st.slot ≠ 0xFFFF) && decide (slKind slot = 1)
  let place := if master then driftPlace l slot else none
  match (s.refused p a (Nat.max 1 f.bytes)).or (place.bind fun d => s.refused p d 4) with
  | some b => refuse v b l s
  | none =>
    let c := l.src u.t.toNat u.a.val
    let sg := if master then slPend slot else s.sigmaOf p st.slot
    let m := if master then 2 else l.mode u
    let r := s.laneR l m
    let isFp := decide (u.t.toNat < 2)
    let copy := sameReg f u.t && decide (sg = 0)
    let x := if isFp then (fpOf u.t).decode c else .ofRat (if copy then f.intVal c else intOf u.t c : Int)
    let (old, s) := match place with
      | some d => if slDriftInit slot then ([], s) else s.load p d 4
      | none => ([], s)
    let mk := l.marked [u.a]
    match (if copy && place.isNone then none else mk).or (firstPoison (place.getD 0) old) with
    | some b => ({ l with bitten := some b }, s)
    | none =>
      let capture := st.amax || master
      if f = .g4 then
        let l := { l with g4 := l.g4 ++ [⟨u.s.val, l.segm, l.pos, BitVec.ofNat 64 c, u.t == 1, m, r, l.opIx⟩] }
        (l, writeG4 l s u.s.val (l.pos / 32) capture sg)
      else
        let cv := if copy then ⟨c, none, false, 0⟩ else storeConv st x (if isFp then none else some (intOf u.t c)) m sg r
        let s := s.storeP p a ((natLe f.bytes cv.code).map fun b => (b, copy && mk.isSome))
        let s := s.slotApply p st.slot (captureIf capture x (SlotAcc.none.conv cv))
        let fl := if f.ieee && !copy then cv.flags ||| sigFlag [x] else 0
        let (l, s) := raiseFlags v fl (l, s)
        match place with
        | some d => driftSample l s u.s.val d (leNat (plain old)) x cv.code
        | none => (l, s)

/-! ## Reductions -/

/-- One value of a reduction tree: the code of the value, mean or m; of M2 or s; the count (R110). -/
structure Red where
  v : Nat
  w : Nat
  n : Nat
  deriving DecidableEq, Repr

/-- The reduction ops of R110. -/
inductive RedOp where
  | sum | max | min | ssq | mv | smx
  deriving DecidableEq, Repr

/-- The reduction op of an opcode. -/
def RedOp.ofCode (op : Nat) : Option RedOp :=
  match op with
  | 0x38 => some .sum
  | 0x39 => some .max
  | 0x3A => some .min
  | 0x3B => some .ssq
  | 0x3C => some .mv
  | 0x3D => some .smx
  | _ => none

/-- The leaf of an element's value (R110). -/
def redLeaf (o : RedOp) (f : Fmt) (x : Nat) : Red × Flags :=
  let a := f.decode x
  match o with
  | .ssq =>
    let (p, i) := fvMul a a
    let (c, fl) := rnTo f p
    (⟨c, 0, 1⟩, fl ||| invFlag i)
  | .smx =>
    let (c, fl) := rnTo f a
    if a = .inf true then (⟨c, 0, 1⟩, 0) else (⟨c, rnCode f (.ofRat 1), 1⟩, fl ||| sigFlag [a])
  | _ => let (c, fl) := rnTo f a; (⟨c, 0, 1⟩, fl ||| sigFlag [a])

/-- An rn'd sum of two codes. -/
def rnAdd (f : Fmt) (a b : Nat) : Nat × Flags :=
  let (v, i) := fvAdd (f.decode a) (f.decode b) 0
  let (c, fl) := rnTo f v
  (c, fl ||| invFlag i)

/-- An rn'd fused a × b + c of codes. -/
def rnFma (f : Fmt) (a b c : Nat) : Nat × Flags :=
  let (v, i) := fvFma (f.decode a) (f.decode b) (f.decode c) 0
  let (r, fl) := rnTo f v
  (r, fl ||| invFlag i)

/-- comb_mv (R110). -/
def combMv (f : Fmt) (a b : Red) : Red × Flags :=
  let n := a.n + b.n
  let (d0, i) := fvAdd (f.decode b.v) (f.decode a.v).negate 0
  let (d, f1) := rnTo f d0
  let (w, f2) := rnTo f (.ofRat (mkRat b.n n))
  let (mean, f3) := rnFma f d w a.v
  let (t0, j) := fvMul (f.decode d) (f.decode d)
  let (t, f4) := rnTo f t0
  let (c, f5) := rnTo f (.ofRat (mkRat (a.n * b.n) n))
  let (m0, f6) := rnAdd f a.w b.w
  let (m2, f7) := rnFma f t c m0
  (⟨mean, m2, n⟩, f1 ||| f2 ||| f3 ||| f4 ||| f5 ||| f6 ||| f7 ||| invFlag (i || j))

/-- The exact exponential of a difference (comb_smx). -/
def expDiff (x m : FVal) : FVal × Flags :=
  let (d, i) := fvAdd x m.negate 0
  let (e, fl) := fvTrans .exp d
  (e, fl ||| invFlag i)

/-- comb_smx (R110). -/
def combSmx (f : Fmt) (a b : Red) : Red × Flags :=
  let (m, fm) := fvExtreme true (f.decode a.v) (f.decode b.v)
  let mc := rnCode f m
  if m = .inf true then (⟨mc, 0, a.n + b.n⟩, fm)
  else
    let (xa, g1) := expDiff (f.decode a.v) m
    let (xb, g2) := expDiff (f.decode b.v) m
    let (ea, f1) := rnTo f xa
    let (eb, f2) := rnTo f xb
    let (t0, i) := fvMul (f.decode b.w) (f.decode eb)
    let (t, f3) := rnTo f t0
    let (sv, f4) := rnFma f a.w ea t
    (⟨mc, sv, a.n + b.n⟩, fm ||| g1 ||| g2 ||| f1 ||| f2 ||| f3 ||| f4 ||| invFlag i)

/-- comb(a, b) of a reduction op in a precision (R110). -/
def comb (o : RedOp) (f : Fmt) (a b : Red) : Red × Flags :=
  match o with
  | .sum | .ssq => let (c, fl) := rnAdd f a.v b.v; (⟨c, 0, a.n + b.n⟩, fl)
  | .max => let (m, fl) := fvExtreme true (f.decode a.v) (f.decode b.v); (⟨rnCode f m, 0, a.n + b.n⟩, fl)
  | .min => let (m, fl) := fvExtreme false (f.decode a.v) (f.decode b.v); (⟨rnCode f m, 0, a.n + b.n⟩, fl)
  | .mv => combMv f a b
  | .smx => combSmx f a b

/-- The largest power of two below n (R109); 1 for n = 2. -/
def halfOf (n : Nat) : Nat := 2 ^ (n - 1).log2

/-- The fixed tree of R109 over the leaves, with a bound on its depth. -/
def reduceTree (o : RedOp) (f : Fmt) : Nat → List Red → Red × Flags
  | 0, vs => (vs.headD ⟨0, 0, 0⟩, 0)
  | k + 1, vs =>
    match vs with
    | [] => (⟨0, 0, 0⟩, 0)
    | [x] => (x, 0)
    | _ =>
      let h := halfOf vs.length
      let (a, f1) := reduceTree o f k (vs.take h)
      let (b, f2) := reduceTree o f k (vs.drop h)
      let (c, f3) := comb o f a b
      (c, f1 ||| f2 ||| f3)

/-- The 32-byte record of an accumulator (R111). -/
def Red.bytes (r : Red) : List Byte := natLe 8 r.v ++ natLe 8 r.w ++ natLe 8 r.n ++ natLe 8 0

/-- Read a record's 32 bytes. -/
def Red.ofBytes (bs : List Byte) : Red := ⟨leNat (bs.take 8), leNat ((bs.drop 8).take 8), leNat ((bs.drop 16).take 8)⟩

/-- A reduction op: one leaf into accumulator IMM[2:0] (R109). -/
def opReduce (code : Nat) : OpSem := computing srcA fun v u l s =>
  match RedOp.ofCode code with
  | none => (l, s)
  | some o =>
    let (r, fl) := redLeaf o (fpOf u.t) (l.src u.t.toNat u.a.val)
    let leaf : Leaf := ⟨u.imm.toNat % 8, code, u.t == 1, BitVec.ofNat 64 r.v, BitVec.ofNat 64 r.w, r.n⟩
    raiseFlags v fl ({ l with leaves := l.leaves ++ [leaf] }, s)

/-- One op of the lane's list: nothing once the lane has stopped; the list position advances (R103, R112). -/
def laneStep (f : OpSem) : OpSem := fun v u l s =>
  let (l, s) := if l.stopped then (l, s) else f v u l s
  ({ l with opIx := l.opIx + 1 }, s)

/-- A micro-op row: the op on the lane that engine `v` holds; VE_STATUS.OP shows the list position. -/
def State.microOp (s : State) (v : VeIx) (u : MicroOp) (f : OpSem) : State :=
  let l := s.lane v.val
  let (l', s) := laneStep f v.val u l s
  (s.setLane v.val l').setFld (veStatusOff (v.val / 2) (v.val % 2)) 5 0 l.opIx

end Sys2Proof.Machine
end

