-- ==== Sys2Proof/Machine/Atomics.lean ====
section
/-! DEFINITION. Reductions and atomics at a gallery slice (R225 to R230). -/

namespace Sys2Proof.Machine

/-- The types of R226. -/
def redType (c : Nat) : Option Fmt :=
  match Fmt.ofCode c with
  | some .fp32 => some .fp32
  | some .bf16 => some .bf16
  | some .int32 => some .int32
  | some .uint32 => some .uint32
  | some .int64 => some .int64
  | some .uint64 => some .uint64
  | _ => none

/-- One element of a reduction (R226, R227): the new code of the target. -/
def redElem (op : Nat) (f : Fmt) (a b : Nat) : Nat :=
  if f.isInt then
    let less := decide (f.intVal a < f.intVal b)
    match op with
    | 0 => (a + b) % 2 ^ f.bits
    | 1 => if less then b else a
    | 2 => if less then a else b
    | 3 => a ||| b
    | 4 => a &&& b
    | _ => a ^^^ b
  else
    let x := f.decode a
    let y := f.decode b
    match op with
    | 0 =>
      match (fvAdd x y 0).1 with
      | .fin _ m => if m = 0 then 0 else rnCode f (fvAdd x y 0).1
      | v => rnCode f v
    | 1 => rnCode f (fvExtreme true x y).1
    | _ => rnCode f (fvExtreme false x y).1

/-- The rules of R228 on an operation's code, type, alignment and extent. -/
def redAllowed (op : Nat) (ty : Option Fmt) (a n : Nat) : Bool :=
  match ty with
  | none => false
  | some f =>
    decide (op ≤ 5) && (decide (op ≤ 2) || f.isInt) && decide (4 ≤ n) && decide (n ≤ 128) &&
    decide (a % f.bytes = 0) && decide (n % f.bytes = 0) && decide (a % 128 + n ≤ 128)

/-- The combined elements, each with the poison of its operand and its target (R230). -/
def redBytes (op : Nat) (f : Fmt) : Nat → List PByte → List PByte → List PByte
  | 0, _, _ => []
  | k + 1, t, o =>
    if t.isEmpty then []
    else
      let w := f.bytes
      let p := anyPoison (t.take w) || anyPoison (o.take w)
      let v := redElem op f (leNat (plain (t.take w))) (leNat (plain (o.take w)))
      (natLe w v).map (fun b => (b, p)) ++ redBytes op f k (t.drop w) (o.drop w)

/-- Apply a reduction at the line's home (R225 to R230): the prior contents, whether poison was met, the state. The line
is read once, then merged in the slice or in its line buffer (R220). -/
def State.reduce (s : State) (p : Part) (op : Nat) (f : Fmt) (a : Nat) (operand : List PByte) :
    List PByte × Bool × State :=
  let (old, s) := s.load p.val a operand.length
  let new := redBytes op f operand.length old operand
  let s := ((s.untag a new.length).writeFrom 6 true a new).cacheAccess p.val a new.length true true
  if anyPoison new then
    let at_ := (firstPoison a new).getD (a / 32 * 32)
    (old, true, (s.setBit (galErrOff (homeLan a)) 0).bite p blkAtomic at_)
  else (old, false, s)

end Sys2Proof.Machine
end

