-- ==== Sys2Proof/Machine/SplitDesc.lean ====
section
/-! DEFINITION. The split descriptor (R113, R114) and the presence bits of a collector's slots (R115, R119). -/

namespace Sys2Proof.Machine

/-- A split descriptor. -/
structure SplitDesc where
  ncon    : Nat
  index   : Nat
  method  : Nat
  nrec    : Nat
  cross   : Nat
  collect : Nat
  table   : Nat
  result  : Nat
  grp     : Nat
  cast    : Bool
  rsvd    : Bool
  deriving DecidableEq, Repr

/-- Read a descriptor from its 64 bytes. -/
def SplitDesc.ofRaw (r : Nat) : SplitDesc :=
  let d := fun o => bitsOf r (8 * o + 63) (8 * o)
  { ncon := bitsOf (d 0) 31 0, index := bitsOf (d 0) 63 32, method := bitsOf (d 8) 1 0, nrec := bitsOf (d 8) 10 8 + 1,
    cross := bitsOf (d 8) 63 32, collect := d 0x10, table := d 0x18, result := d 0x20, grp := bitsOf (d 0x28) 13 0,
    cast := bitOf (d 0x28) 14,
    rsvd := decide (bitsOf (d 8) 7 2 ≠ 0) || decide (bitsOf (d 8) 31 11 ≠ 0) || decide (bitsOf (d 0x28) 63 15 ≠ 0) ||
      decide (r / 2 ^ 384 ≠ 0) }

/-- The lantern that receives a reduction's records: the home of COLLECT_PTR's offset. -/
def SplitDesc.lan (d : SplitDesc) : Nat := homeLan (d.collect % 2 ^ 48)

/-- CHAIN is used (R114). -/
def State.splitChain (s : State) (p : Nat) (d : SplitDesc) : Bool :=
  let cross := if d.cross = 0 then s.fld (veSplitOff d.lan p) 31 16 else d.cross
  d.method == 2 || (d.method == 0 && decide (cross < d.ncon))

/-- Bytes of the slot array. -/
def SplitDesc.slotBytes (d : SplitDesc) : Nat := d.ncon * d.nrec * 32

/-- Contributor i's presence bit at the collector. -/
def State.splitPresent (s : State) (d : SplitDesc) (i : Nat) : Bool :=
  bitOf (s.peek (d.collect % 2 ^ 48 + d.slotBytes + i / 8) 1) (i % 8)

/-- The descriptor of an issued SPLIT_REDUCE command, as it stands in memory. -/
def State.splitOf (s : State) (x : Cmd) : Option SplitDesc :=
  if x.opcode = 0x22 ∧ x.phase = .issued then
    (s.localPtr x.id.p (x.par 0)).map fun a => SplitDesc.ofRaw (s.peek a 64)
  else none

/-- The descriptor of a SPLIT_REDUCE command that the module holds, from its consumption until it ends: the module knows
the slots that it collects in by nothing else (assumption 122, DESIGN CHOICE). -/
def State.splitHeld (s : State) (x : Cmd) : Option SplitDesc :=
  if x.opcode = 0x22 ∧ x.phase ≠ .ended then (s.localPtr x.id.p (x.par 0)).map fun a => SplitDesc.ofRaw (s.peek a 64) else none

/-- A store of a partition falls into a slot that is present already, of a reduction that this module collects: the
contributor's index, and whether the store reaches the slot's first byte (R119). -/
def State.splitDup (s : State) (p : Part) (a : Nat) : Option (Nat × Bool) :=
  s.cmds.findSome? fun x =>
    if x.id.part = p then
      match s.splitHeld x with
      | some d =>
        let c := d.collect % 2 ^ 48
        let node := d.collect / 2 ^ 48
        if (node = s.ownNode p.val ∨ node = s.fld fabNodeOff 15 0) ∧ !s.splitChain p.val d ∧ c ≤ a ∧ a < c + d.slotBytes ∧
            s.splitPresent d ((a - c) / (d.nrec * 32)) then
          some ((a - c) / (d.nrec * 32), (a - c) % (d.nrec * 32) == 0)
        else none
      | none => none
    else none

end Sys2Proof.Machine
end

