-- ==== Sys2Proof/Machine/Fabric.lean ====
section
/-! DEFINITION. Fabric memory operations (R271 to R303, R544, R332): what a target does with a request that
arrives, the flow contexts with their windows and timeouts, and what a source does with the answers. -/

namespace Sys2Proof.Machine

/-! ## Packets -/

/-- A packet with every field zero. -/
def Packet.zero : Packet :=
  { dst := 0, src := 0, op := 0, tc := 0, part := 0, age := 0, hops := 0, epoch := false, fog := false,
    echo := false, code := 0, ctx := 0, seq := 0, offset := 0, len := 0, mcg := 0, poison := 0, ver := 0,
    rop := 0, rtype := 0, rsvd := 0, payload := [] }

/-- The POISON bits of payload bytes: bit k for bytes 32k to 32k + 31 (R321). -/
def poisonBits (bs : List PByte) : BitVec 4 :=
  (List.range 4).foldl (fun m k => if anyPoison ((bs.drop (32 * k)).take 32) then m ||| (1#4 <<< k) else m) 0

/-- The payload with its poison marks (R256). -/
def pkBytes (pk : Packet) : List PByte :=
  pk.payload.zipIdx.map fun (b, i) => (b, pk.poison.getLsbD (i / 32))

/-- A packet that carries these bytes as its payload. -/
def pkWith (pk : Packet) (bs : List PByte) : Packet :=
  { pk with payload := plain bs, len := BitVec.ofNat 8 bs.length, poison := poisonBits bs }

/-- Word i of a packet's payload (R544). -/
def pkWord (pk : Packet) (i : Nat) : Nat := leNat ((pk.payload.drop (8 * i)).take 8)

/-- A node number names this module (R272, R323, R543). -/
def State.here (s : State) (n : Nat) : Bool :=
  decide (n = s.fld fabNodeOff 15 0) || (s.bit fabAliasOff 16 && decide (n = s.fld fabAliasOff 15 0))

/-- The multicast half of a partition and group, in the numbers above the unicast halves (assumption 27). -/
def mcHalf (p : Part) (grp : BitVec 14) : BitVec 20 := BitVec.ofNat 20 (524288 + p.val * 16384 + grp.toNat)

/-- The home lantern of a request (R327): of its line, or L0 for XALLOC, CLOSE and KCTL. -/
def reqHome (pk : Packet) : Lan :=
  if pk.op = 0x0C ∨ pk.op = 0x12 ∨ pk.op = 0x14 then 0 else Fin.ofNat 8 (homeLan pk.offset.toNat)

/-- Put a packet at the end of a lantern's injection port (R328). -/
def State.inject (s : State) (n : Lan) (pk : Packet) : State :=
  let q := tblGet (fun _ => ([] : List InjPkt)) s.fabric.injq n.val
  let pk : Packet := { pk with age := 0, hops := 0, fog := false }
  { s with fabric := { s.fabric with
      injq := tblSet (fun _ => []) s.fabric.injq n.val (q ++ [⟨pk, 0⟩]) } }

/-! ## Engines whose work the fabric brings -/

/-- A matrix engine with nothing to do. -/
def MeState.idle : MeState :=
  { queue := [], pass := 0, active := [], shadow := [], acc := [], accBad := [], mode := 0, ended := [], lines := [],
    asked := 0, fail := none, waiting := none }

/-- A matrix engine's record. -/
def State.me (s : State) (e : Nat) : MeState := tblGet (fun _ => MeState.idle) s.mes e

/-- Change a matrix engine's record. -/
def State.onMe (s : State) (e : Nat) (f : MeState → MeState) : State :=
  { s with mes := tblSet (fun _ => MeState.idle) s.mes e (f (s.me e)) }

/-- A channel's entries. -/
def State.gc (s : State) (ch : Nat) : List GcEntry := tblGet (fun _ => ([] : List GcEntry)) s.gcs ch

/-- Replace a channel's entries. -/
def State.setGc (s : State) (ch : Nat) (es : List GcEntry) : State :=
  { s with gcs := tblSet (fun _ => []) s.gcs ch es }

/-- The committed chunk that an entry takes next (R544). -/
def State.gcArrival (s : State) (e : GcEntry) : Option GArrival :=
  s.gcIn.find? fun g => g.part == e.cmd.part && g.shard == e.shard && g.step == e.step && g.chunk == e.next

/-- A channel is in FAULT, which it leaves when the completion of the command that it holds has been posted (R63). -/
def State.gcFaulted (s : State) (ch : Nat) : Bool := (keyGet s.holders (152 + ch)).isSome

/-- FAB_GC_STATUS of a channel: in FAULT, or as its front entry is: waiting, running, or idle (R311). -/
def State.gcShow (s : State) (ch : Nat) : State :=
  if s.gcFaulted ch then s.setFld (fabGcStatusOff ch) 31 30 3
  else
    match s.gc ch with
    | [] => s.setFld (fabGcStatusOff ch) 31 30 0
    | e :: _ =>
      let st := if 0 < e.pos ∧ (s.gcArrival e).isNone then 2 else 1
      s.setReg (fabGcStatusOff ch) (BitVec.ofNat 64 (st * 2 ^ 30 + e.cmd.p * 2 ^ 28 + e.ix % 2 ^ 16))

/-- FAB_GC_STATUS of every channel. -/
def State.gcShowAll (s : State) : State := (List.range 4).foldl State.gcShow s

/-- A channel does no more for a command that has failed on it, and is in FAULT (R63, R300): its entries that are dropped
end. -/
def State.gcFail (s : State) (ch : Nat) (c : CmdId) : State :=
  let es := s.gc ch
  let s := s.setGc ch (es.filter fun e => e.cmd != c)
  let s : State := { s with holders := keySet s.holders (152 + ch) c }
  (es.filter fun e => e.cmd == c).foldl (fun s _ => s.pieceDone c) (s.gcShow ch)

/-! ## The target -/

/-- What a target answers: the reply code, the data and the tag it returns. -/
structure Answer where
  code : Nat
  data : List PByte
  ver  : BitVec 16
  deriving DecidableEq, Repr

/-- An answer without data. -/
def Answer.ofCode (c : Nat) : Answer := ⟨c, [], 0⟩

/-- A request breaks R275, R228, R544 or a reserved field (R276). -/
def pkMalformed (pk : Packet) : Bool :=
  let n := pk.len.toNat
  let a := pk.offset.toNat
  let within := decide (1 ≤ n) && decide (a % 128 + n ≤ 128)
  let ty := redType pk.rtype.toNat
  decide (pk.rsvd ≠ 0) ||
  match pk.op.toNat with
  | 0x00 | 0x01 | 0x03 | 0x08 => !within
  | 0x04 | 0x09 => !(decide (n = 128) && decide (a % 128 = 0) && decide (pk.ver.toNat ≤ 0xFFFB))
  | 0x05 => !redAllowed pk.rop.toNat ty a n
  | 0x06 => !(redAllowed pk.rop.toNat ty a n && (decide (n = 4) || decide (n = 8)) && decide (a % n = 0))
  | 0x0A => !(decide (n = 8) && decide (pkWord pk 0 < 2 ^ 32))
  | 0x0C => !(decide (n = 8) && decide (a = 0) && decide (pkWord pk 0 < 4))
  | 0x0E => !(decide (n = 16) && decide (pkWord pk 0 = a))
  | 0x0F => !(decide (n = 32) && decide (pkWord pk 2 < 2 ^ 34) && decide (pkWord pk 3 = 0))
  | 0x12 => !(decide (n = 0) && decide (a = 0))
  | _ => false

/-- A request falls outside the regions of the partition its packet carries (R273). -/
def State.pkRefused (s : State) (pk : Packet) : Bool :=
  match pk.op.toNat with
  | 0x0A | 0x0C | 0x12 | 0x14 => false
  | 0x0E | 0x0F => (s.refused pk.part.val pk.offset.toNat 1).isSome
  | _ => (s.refused pk.part.val pk.offset.toNat pk.len.toNat).isSome

/-- A parcel that is handed over in a buffer of pool 0 waits there (R192), unless its exchange direction has
completed here: then it is discarded and counted (R202). -/
def State.parcelIn (s : State) (p : Part) (exchId : W32) (buf bytes : Nat) : State :=
  let w := s.peek (buf + 8) 8
  let dir : Fin 4 := Fin.ofNat 4 (bitsOf w 20 19)
  let s := s.look (buf + 4) 12
  if s.exchDone.contains (p, exchId, BitVec.ofNat 32 (s.peek (buf + 4) 4), dir) then
    let s := s.poolFree p 0 buf
    let s := (s.count (suLateOff 0)).setBit (suErrOff 0) 5
    s.raise evExchLate (some p) (bitsOf w 15 0) exchId.toNat
  else { s with parcels := s.parcels ++ [⟨p, exchId, buf, bytes⟩] }

/-- What the home does with a request that passes R276 (R285, R286, R157, R229, R296, R544). -/
def State.applyGood (s : State) (pk : Packet) : Answer × State :=
  let p := pk.part
  let a := pk.offset.toNat
  let n := pk.len.toNat
  match pk.op.toNat with
  | 0x00 => let (bs, s) := s.load p.val a n; (⟨0, bs, 0⟩, s)
  | 0x01 => let (bs, s) := s.load p.val a n; (⟨0, bs, (s.tagAt a).tag⟩, s)
  | 0x03 | 0x08 =>
    match s.splitDup p a with
    | some (i, first) => (.ofCode 0, if first then s.raise evReduceDup (some p) i else s)
    | none => (.ofCode 0, s.storeP p.val a (pkBytes pk))
  | 0x04 | 0x09 => (.ofCode 0, (s.cacheAccess p.val a n true true).vstoreLine a pk.ver (pkBytes pk))
  | 0x05 | 0x06 =>
    let (old, bad, s) := s.reduce p pk.rop.toNat ((redType pk.rtype.toNat).getD .uint64) a (pkBytes pk)
    (⟨if bad then 3 else 0, if pk.op = 0x06 then old else [], 0⟩, s)
  | 0x0C =>
    match s.poolAlloc p 0 (pkWord pk 0 % 4) with
    | (s, some (c, b)) => (⟨0, clean (natLe 8 (b + c * 2 ^ 48)), 0⟩, { s with xallocs := keySet s.xallocs b p.val })
    | (s, none) => (.ofCode 4, s)
  | 0x0E =>
    let b := pkWord pk 0 % 2 ^ 48
    if keyGet s.xallocs b = some p.val then
      let w := pkWord pk 1
      (.ofCode 0, { s with xallocs := keyDel s.xallocs b }.parcelIn p (BitVec.ofNat 32 w) b (w / 2 ^ 32))
    else (.ofCode 0, s)
  | 0x0F =>
    let g : GArrival :=
      { part := p, shard := BitVec.ofNat 32 (pkWord pk 0), step := BitVec.ofNat 32 (pkWord pk 0 / 2 ^ 32),
        chunk := pkWord pk 1 % 2 ^ 32, count := pkWord pk 1 / 2 ^ 32, tokens := pkWord pk 2 % 2 ^ 32,
        last := bitOf (pkWord pk 2) 32, tpoison := bitOf (pkWord pk 2) 33 }
    (.ofCode 0, ({ s with gcIn := s.gcIn ++ [g] } : State).gcShowAll)
  | _ => (.ofCode 0, s)

/-- A reduction or an atomic breaks R228 itself (R244). -/
def breaksAtomic (pk : Packet) : Bool :=
  (decide (pk.op = 0x05) || decide (pk.op = 0x06)) &&
    !redAllowed pk.rop.toNat (redType pk.rtype.toNat) pk.offset.toNat pk.len.toNat

/-- The checks of R276 and the application of a request, in that order. A request that loses its header inside the target
(R254) is answered with the one code that ends it with ST_DATAPATH (assumption 126). -/
def State.applyOp (s : State) (pk : Packet) : Answer × State :=
  let a := pk.offset.toNat
  if pkMalformed pk then (.ofCode 2, if breaksAtomic pk then s.setBit (galErrOff (homeLan a)) 2 else s)
  else if s.pkRefused pk then
    (.ofCode 1, s.galBounds ((s.refused pk.part.val a (Nat.max 1 pk.len.toNat)).getD a))
  else
    let (an, s) := s.applyGood pk
    if s.prot.netLost then
      (.ofCode 6, ({ s with prot := { s.prot with netLost := false } } : State).notify pk.part.val .datapath)
    else (an, s)

/-- The operation code of the reply to a request (R274, R544). -/
def replyOp (op : Nat) : BitVec 6 :=
  match op with
  | 0x00 | 0x01 => 0x02
  | 0x06 => 0x07
  | 0x0C => 0x0D
  | _ => 0x10

/-- Send a reply from the request's home, from the node it was sent to (a member answers a multicast packet from its
own): its class, its FOG in ECHO (R331), its offset (R544, assumption 28). -/
def State.reply (s : State) (pk : Packet) (an : Answer) : State :=
  let op := pk.op.toNat
  let r : Packet := { Packet.zero with
    dst := pk.src, src := if pk.dst = 0xFFFF then BitVec.ofNat 16 (s.ownNode pk.part.val) else pk.dst, op := replyOp op, tc := pk.tc, part := pk.part, echo := pk.fog,
    code := BitVec.ofNat 4 an.code, ctx := pk.ctx, seq := pk.seq,
    offset := if op = 0x0C ∨ op = 0x0A then 0 else pk.offset, ver := an.ver }
  s.inject (reqHome pk) (pkWith r an.data)

/-- A receive half's key: source node and the source's half number (R277). -/
def recvKey (pk : Packet) : Nat := pk.src.toNat * 2 ^ 20 + pk.ctx.toNat

/-- Store a receive half. -/
def State.setRecv (s : State) (k : Nat) (h : RecvHalf) : State :=
  { s with fabric := { s.fabric with recv := keySet s.fabric.recv k h } }

/-- Free a receive half. -/
def State.delRecv (s : State) (k : Nat) : State :=
  { s with fabric := { s.fabric with recv := keyDel s.fabric.recv k } }

/-- How far sequence `a` is newer than `b`, modulo 2^24 (R280). -/
def seqDist (a b : BitVec 24) : Nat := (a - b).toNat

/-- Bit j of MAP stands for sequence TOP − j. -/
def RecvHalf.answered (h : RecvHalf) (q : BitVec 24) : Bool :=
  let j := seqDist h.top q
  decide (63 < j) || h.map.getLsbD j

/-- Every lower sequence within the window has been answered (R296, R299). A half whose first sequence is below
64 counts from 0 (assumption 29). -/
def RecvHalf.commitReady (h : RecvHalf) (q : BitVec 24) : Bool :=
  let d := seqDist q h.low
  (List.range (if 2 ^ 23 ≤ d then 0 else Nat.min 63 d)).all fun j => h.answered (q - BitVec.ofNat 24 (j + 1))

/-- The four most recent retained replies: of five, the one with the lowest sequence goes (R280, R282). -/
def keepReplies (rs : List Retained) (r : Retained) : List Retained :=
  if rs.length < 4 then rs ++ [r]
  else
    let newer := fun (a b : BitVec 24) => decide (0 < seqDist a b) && decide (seqDist a b < 2 ^ 23)
    let all := rs ++ [r]
    let low := all.foldl (fun m x => if newer m x.seq then x.seq else m) r.seq
    all.filter fun x => x.seq != low

/-- Record the answer of a request in its half: the bit in MAP and what a duplicate will be told (R281, R282). -/
def RecvHalf.record (h : RecvHalf) (pk : Packet) (an : Answer) : RecvHalf :=
  let r : Retained := ⟨pk.seq, BitVec.ofNat 4 an.code, an.data⟩
  let h := { h with map := h.map ||| (1#64 <<< seqDist h.top pk.seq) }
  match pk.op.toNat with
  | 0x00 | 0x01 => h
  | 0x06 | 0x0C => { h with replies := keepReplies h.replies r }
  | _ => { h with codes := h.codes.filter (fun x => decide (seqDist h.top x.seq ≤ 63)) ++ [r] }

/-- What a refused or bounced arrival sets and counts (R276, R292, R308). -/
def State.noteAnswer (s : State) (c : Nat) : State :=
  match c with
  | 1 => s.setBit fabErrOff 0
  | 2 => s.setBit fabErrOff 1
  | 4 | 5 => s.count fabBouncesSentOff
  | _ => s

/-- The code of an answer that is given later: nothing is recorded or sent now. -/
abbrev laterCode : Nat := 16

/-- Answer a request of an open half: recorded, counted, replied; a CLOSE frees the half. -/
def State.answer (s : State) (k : Nat) (pk : Packet) (an : Answer) : State :=
  if an.code = laterCode then s
  else
  let s := s.noteAnswer an.code
  let s := match keyGet s.fabric.recv k with
    | some h => if pk.op = 0x12 ∧ an.code = 0 then s.delRecv k else s.setRecv k (h.record pk an)
    | none => s
  s.reply pk an

/-- Apply the commits that waited for lower sequences and need wait no longer (R296). -/
def State.releaseHeld (k : Nat) : Nat → State → State
  | 0, s => s
  | fuel + 1, s =>
    match keyGet s.fabric.recv k with
    | none => s
    | some h =>
      match h.held.find? fun q => h.commitReady q.seq with
      | none => s
      | some q =>
        let s := s.setRecv k { h with held := h.held.filter fun x => x.seq != q.seq }
        let (an, s) := s.applyOp q
        State.releaseHeld k fuel (s.answer k q an)

/-- A request that its half has not answered: applied and answered, or held while it is a commit with lower
sequences unanswered (R281, R296). -/
def State.receiveNew (s : State) (k : Nat) (pk : Packet) (f : State → Packet → Answer × State) : State :=
  match keyGet s.fabric.recv k with
  | none => s
  | some h =>
    let commit := decide (pk.op = 0x0E) || decide (pk.op = 0x0F)
    if commit && !pkMalformed pk && !s.pkRefused pk && !h.commitReady pk.seq then
      if h.held.any fun x => x.seq == pk.seq then s else s.setRecv k { h with held := h.held ++ [pk] }
    else
      let (an, s) := f s pk
      let s := s.answer k pk an
      State.releaseHeld k (h.held.length + 1) s

/-- A duplicate is answered without effect (R281, R282). -/
def State.duplicate (s : State) (h : RecvHalf) (pk : Packet) (f : State → Packet → Answer × State) : State :=
  let s := s.count fabDuplicatesOff
  let again := fun (s : State) (rs : List Retained) =>
    match rs.find? fun x => x.seq == pk.seq with
    | some r => s.reply pk ⟨r.code.toNat, r.data, 0⟩
    | none => s
  match pk.op.toNat with
  | 0x00 | 0x01 => let (an, s) := f s pk; s.reply pk an
  | 0x06 | 0x0C => again s h.replies
  | _ => again s h.codes

/-- A flow-context entry has failed parity (R291): the event, FAB_ERR and the notice to the Keeper controller. -/
def State.ctxParity (s : State) (p : Part) : State :=
  ((s.setBit fabErrOff 4).raise evCtxParity (some p)).notify p.val .datapath

/-- A receive half whose entry fails parity becomes BROKEN at the arrival that meets it (R291). -/
def State.meetRecv (s : State) (k : Nat) (h : RecvHalf) (p : Part) : RecvHalf × State :=
  if h.bad then
    let h := { h with broken := true, bad := false }
    (h, (s.setRecv k h).ctxParity p)
  else (h, s)

/-- A request arrives at its receive half (R279, R281, R291); `f` applies it. -/
def State.receive (s : State) (pk : Packet) (f : State → Packet → Answer × State := State.applyOp) : State :=
  let k := recvKey pk
  match keyGet s.fabric.recv k with
  | none =>
    if 524288 ≤ s.fabric.recv.length then (s.noteAnswer 5).reply pk (.ofCode 5)
    else
      let low := if pk.seq.toNat < 64 then 0 else pk.seq
      (s.setRecv k ⟨low, pk.seq, 0, [], false, [], [], false⟩).receiveNew k pk f
  | some h =>
    let (h, s) := s.meetRecv k h pk.part
    if h.broken then
      if pk.op = 0x12 then (s.delRecv k).reply pk (.ofCode 0) else s.reply pk (.ofCode 6)
    else
      let d := seqDist pk.seq h.top
      if 0 < d ∧ d < 2 ^ 23 then
        (s.setRecv k { h with top := pk.seq, map := if d < 64 then h.map <<< d else 0 }).receiveNew k pk f
      else if seqDist h.top pk.seq ≤ 63 then
        if h.map.getLsbD (seqDist h.top pk.seq) then s.duplicate h pk f else s.receiveNew k pk f
      else s.count fabStaleOff

/-! ## Send halves -/

/-- Change a send half. -/
def State.onSend (s : State) (c : Nat) (f : SendHalf → SendHalf) : State :=
  match keyGet s.fabric.send c with
  | some h => { s with fabric := { s.fabric with send := keySet s.fabric.send c (f h) } }
  | none => s

/-- FAB_CC.WIN_INIT: 0 acts as 1, above 64 as 64 (R350). -/
def State.winInit (s : State) : Nat := Nat.max 1 (Nat.min 64 (s.fld fabCcOff 22 16))

/-- Stripes of a class: 2^STRIPES, values above 4 acting as 4 (R306). -/
def State.stripes (s : State) (tc : Nat) : Nat := 2 ^ Nat.min 4 (s.fld fabCtxCtrlOff (4 * tc + 3) (4 * tc))

/-- The lowest key a table does not have, from `k` up. -/
def firstFree {α : Type} : List (Nat × α) → Nat → Nat
  | [], k => k
  | (k', _) :: t, k => if k' = k then firstFree t (k + 1) else k

/-- The send half of a key, if one is held. -/
def State.sendFor (s : State) (node : Node) (tc : Fin 4) (p : Part) (stripe : Nat) : Option (Nat × SendHalf) :=
  s.fabric.send.find? fun (_, h) => h.node == node && h.tc == tc && h.part == p && h.stripe == stripe

/-- MOD_TIME. -/
def State.now (s : State) : Nat := (s.reg modTimeOff).toNat

/-- Open a send half (R279, R332): its number, or none when the table is full. -/
def State.openSend (s : State) (node : Node) (tc : Fin 4) (p : Part) (stripe : Nat) : Option (Nat × State) :=
  let c := firstFree s.fabric.send 0
  if 524288 ≤ c then none
  else
    let h : SendHalf :=
      { node := node, tc := tc, part := p, stripe := stripe, next := 0, oldest := 0, out := 0, win := s.winInit,
        rpend := 0, recent := [], life := .open_, credit := 0, hold := none, used := s.now, bad := false }
    some (c, { s with fabric := { s.fabric with send := keySet s.fabric.send c h } })

/-- Set bits of a 64-bit map. -/
def popCount (v : BitVec 64) : Nat := (List.range 64).foldl (fun n i => if v.getLsbD i then n + 1 else n) 0

/-- The window loop of R332 on a reply's ECHO, or on a resend, which acts as an ECHO of 1. -/
def SendHalf.window (h : SendHalf) (shift ai : Nat) (seq : BitVec 24) (echo : Bool) : SendHalf :=
  if echo then
    let older := match h.hold with
      | some hd => decide (0 < seqDist hd seq) && decide (seqDist hd seq < 2 ^ 23)
      | none => false
    if older then h
    else { h with win := Nat.max 1 (h.win - h.win / 2 ^ Nat.max 1 shift), credit := 0, hold := some h.next }
  else
    let c := (h.credit + ai) % 256
    if h.win ≤ c then { h with credit := c - h.win, win := Nat.min 64 (h.win + 1) } else { h with credit := c }

/-- Move OLDEST past the sequences that have their final reply. -/
def SendHalf.advance : Nat → SendHalf → SendHalf
  | 0, h => h
  | k + 1, h =>
    if h.oldest = h.next ∨ h.out.getLsbD 0 then h
    else SendHalf.advance k { h with oldest := h.oldest + 1, out := h.out >>> 1 }

/-- A request's final reply leaves the half's window (R277, R280). -/
def SendHalf.final (h : SendHalf) (seq : BitVec 24) (op : BitVec 6) : SendHalf :=
  let out := h.out &&& ~~~(1#64 <<< seqDist seq h.oldest)
  let r := if op = 0x06 ∨ op = 0x0C then h.rpend - 1 else h.rpend
  SendHalf.advance 64 { h with out := out, rpend := r }

/-- A LOST half that FAB_REOPEN has named reopens once nothing is outstanding on it (R290). -/
def State.reopenIf (s : State) (c : Nat) : State :=
  s.onSend c fun h =>
    if h.life = .reopening ∧ h.out = 0 then
      { h with life := .open_, oldest := h.next, out := 0, rpend := 0, recent := [], win := s.winInit }
    else h

/-- A request leaves the outstanding ones with its final reply, or as lost. -/
def State.final (s : State) (r : Req) : State :=
  let s := { s with fabric := { s.fabric with
    flying := s.fabric.flying.filter fun x => !(x.pk.ctx == r.pk.ctx && x.pk.seq == r.pk.seq) } }
  (s.onSend r.pk.ctx.toNat fun h => { h.final r.pk.seq r.pk.op with used := s.now }).reopenIf r.pk.ctx.toNat

/-- A node has been declared lost in a partition, and its halves have not been reopened since (R288). -/
def State.lostTo (s : State) (node : Node) (p : Part) : Bool := s.fabric.lostTo.contains (node, p)

/-- DRAIN holds back the injection of new requests of a class (R338). -/
def State.draining (s : State) (tc : Nat) : Bool := !s.bit fabLlCtrlOff 3 && s.bit fabLlCtrlOff (12 + tc)

/-- The bank that an injected packet is routed by (R337, R340). -/
def State.injBank (s : State) : Nat :=
  if s.bit fabLlCtrlOff 3 then s.fld fabLlCtrlOff 2 2 else s.fld fabLlCtrlOff 0 0

/-- A light-list entry's productive ports in rank order (R334, R335). -/
def State.llPorts (s : State) (bank : Nat) (dst : Nat) : List Nat :=
  let own := s.fld fabNodeOff 15 0
  let e := if dst / 32 = own / 32 then (s.reg (fabLlLocalOff bank (dst % 32))).toNat
    else (s.reg (fabLlGroupOff bank (dst / 32))).toNat
  (List.range 8).filterMap fun r => if bitOf e (8 * r + 7) then some (bitsOf e (8 * r + 5) (8 * r)) else none

/-! ## Sources -/

/-- The global address an operation names. -/
def reqAddr (r : Req) : Nat := r.pk.dst.toNat * 2 ^ 48 + r.pk.offset.toNat

/-- Which failure decides a command's status: the orders of R300 and R202; elsewhere the issue order. -/
def failRank (op st : Nat) : Nat :=
  let place := fun (l : List Nat) => (l.findIdx? (· == st)).getD l.length
  if op = 0x25 then place [stPoison, stBounds, stDatapath, stTargetLost, stNoContext, stNoBuffer, stReduceTimeout]
  else if 0x30 ≤ op ∧ op ≤ 0x33 then
    place [stExchTimeout, stPoison, stDatapath, stTargetLost, stNoBuffer, stNoContext, stPlanMismatch]
  else 0

/-- A fabric operation of a command failed; ST_POISON carries the sector's address, and UPDATE_SHARDS, whose pieces
are numbered by shard entry, the entry and the line's local offset (R434). -/
def State.opFailed (s : State) (c : CmdId) (ix st addr : Nat) : State :=
  let op := ((s.cmd c).map Cmd.opcode).getD 0
  let addr := if st = stPoison then addr / 32 * 32 else addr
  if op = 0x27 then s.noteFail c ⟨0, ix, st, BitVec.ofNat 64 (ix * 2 ^ 48 + addr % 2 ^ 48), true⟩
  else s.noteFail c ⟨failRank op st, ix, st, BitVec.ofNat 64 addr, false⟩

/-- One piece of a command ended with a status. -/
def State.pieceEnd (s : State) (c : Option CmdId) (ix st addr : Nat) : State :=
  match c with
  | none => s
  | some c => ((if st = stOk then s else s.opFailed c ix st addr)).pieceDone c

/-- The status a reply code gives (R276). -/
def codeStatus (c : Nat) : Nat :=
  match c with
  | 0 => stOk
  | 1 => stBounds
  | 2 => stMalformed
  | 3 => stPoison
  | 4 => stNoBuffer
  | 5 => stNoContext
  | _ => stDatapath

/-- The bytes that a lost LOAD or FETCH returns: its full length, poisoned (R288). -/
def lostData (r : Req) : List PByte :=
  (List.range r.pk.len.toNat).map fun i => (Config.lostByte (r.pk.offset.toNat + i), true)

/-- A STORE of bytes to a global address for the same work as a request. -/
def storeFor (r : Req) (addr : W64) (bs : List PByte) (cont : Cont) : Req :=
  { r with
    pk := pkWith { r.pk with dst := BitVec.ofNat 16 (addr.toNat / 2 ^ 48), op := 0x03, ver := 0,
                             offset := BitVec.ofNat 48 addr.toNat } bs,
    cont := cont, resends := 0, bounces := 0, backoff := false }

/-- A bounced request waits before the requests that were issued after it (R284, R299). -/
def State.enqueueFront (s : State) (rs : List Req) : State :=
  { s with fabric := { s.fabric with waiting := rs ++ s.fabric.waiting } }

/-- Requests join the waiting ones in issue order. -/
def State.enqueue (s : State) (rs : List Req) : State :=
  { s with fabric := { s.fabric with waiting := s.fabric.waiting ++ rs } }

/-- The STOREs and the XCOMMIT of an exchange send whose buffer has been granted (R296). -/
def xsendReqs (r : Req) (id : Nat) (x : XSend) (buf : Nat) : List Req :=
  let bs := x.data.zip x.poison
  let lines := (List.range ((bs.length + 127) / 128)).map fun i =>
    storeFor r (BitVec.ofNat 64 (x.node.toNat * 2 ^ 48 + buf + 128 * i)) ((bs.drop (128 * i)).take 128) (.xstore id)
  let c := storeFor r (BitVec.ofNat 64 (x.node.toNat * 2 ^ 48 + buf))
    (clean (natLe 8 buf ++ natLe 8 (x.exchId.toNat + bs.length * 2 ^ 32))) (.xcommit id)
  lines ++ [{ c with pk := { c.pk with op := 0x0E } }]

/-- A failed exchange send ends every send of its stream that is not complete; the command goes on with its
other streams (R546). -/
def State.xsendFail (s : State) (id st : Nat) : State :=
  match keyGet s.xsends id with
  | none => s
  | some x =>
    let s := s.opFailed x.cmd 0 st (x.node.toNat * 2 ^ 48)
    let dead := s.xsends.filter fun (_, y) => y.cmd == x.cmd && y.st == x.st && y.node == x.node
    dead.foldl (fun s (k, _) =>
      let mine := fun (r : Req) => decide (r.cont = .xalloc k) || decide (r.cont = .xstore k) || decide (r.cont = .xcommit k)
      let s := { s with xsends := keyDel s.xsends k,
                        fabric := { s.fabric with waiting := s.fabric.waiting.filter fun r => !mine r } }
      s.pieceDone x.cmd) s

/-- A run's members have all answered, been repaired or been declared lost: its piece ends (R295). -/
def State.mcSettle (s : State) (run : Nat) : State :=
  match s.fabric.mcRuns.find? fun r => r.id == run with
  | none => s
  | some r =>
    if r.sent && r.members.isEmpty && r.repairs == 0 then
      let s := { s with fabric := { s.fabric with mcRuns := s.fabric.mcRuns.filter fun x => x.id != run } }
      let low := r.lost.foldl (fun m (x : Node) => Nat.min m x.toNat) 0xFFFF
      let off := ((r.data.head?).map fun d => d.2.offset.toNat).getD 0
      s.pieceEnd r.cmd r.ix (if r.lost.isEmpty then stOk else stTargetLost) (low * 2 ^ 48 + off)
    else s

/-- Change a multicast run. -/
def State.onRun (s : State) (run : Nat) (f : McRun → McRun) : State :=
  { s with fabric := { s.fabric with mcRuns := s.fabric.mcRuns.map fun r => if r.id = run then f r else r } }

/-- The MFLUSH of a run (R294). -/
def mflushPk (r : McRun) (own : Nat) : Packet :=
  pkWith { Packet.zero with
    dst := 0xFFFF, src := BitVec.ofNat 16 own, op := 0x0A, tc := r.tc, part := r.part, ctx := mcHalf r.part r.grp,
    seq := BitVec.ofNat 24 r.id, mcg := r.grp } (clean (natLe 8 r.data.length))

/-- Send the runs whose data has all been read and that follow no unfinished run of their group and partition:
the data, then MFLUSH, with an answer owed by every member (R293, R294), once DRAIN lets them (R338); with no member none
is owed. -/
def State.mcStart (s : State) : State :=
  s.fabric.mcRuns.foldl (fun s r =>
    let earlier := s.fabric.mcRuns.any fun x => x.id != r.id && x.grp == r.grp && x.part == r.part && x.sent
    let first := (s.fabric.mcRuns.find? fun x => x.grp == r.grp && x.part == r.part).map (·.id)
    if r.sent || earlier || s.draining r.tc.val || first != some r.id || r.data.any (!·.1) then s
    else
      let own := s.ownNode r.part.val
      let s := r.data.foldl (fun s d => s.inject r.lantern d.2) s
      let pk := mflushPk r own
      let s := s.inject r.lantern pk
      let ms := Config.groupMembers r.grp.toNat r.id
      let q : Req := { pk := pk, cmd := r.cmd, ix := r.ix, cont := .mflush r.id, lantern := r.lantern,
                       stripe := none, resends := 0, bounces := 0, backoff := false }
      let s := s.onRun r.id fun x => { x with sent := true, members := ms }
      if ms.isEmpty then s.mcSettle r.id
      else { s with fabric := { s.fabric with flying := s.fabric.flying ++ [q] } }) s

/-- A member has answered, or is declared lost: its run goes on (R295). The MFLUSH stays outstanding while a
member owes an answer. -/
def State.mcMember (s : State) (run : Nat) (f : McRun → McRun) : State :=
  let s := s.onRun run f
  match s.fabric.mcRuns.find? fun r => r.id == run with
  | none => s
  | some r =>
    let s := if r.members.isEmpty then
        { s with fabric := { s.fabric with flying := s.fabric.flying.filter fun x => decide (x.cont ≠ .mflush run) } }
      else s
    (s.mcSettle run).mcStart

/-- The repair of a member that answered SHORT: the run's data again, as unicast stores (R295). -/
def repairReqs (r : McRun) (node : Node) : List Req :=
  (r.data.map (·.2)).map fun pk =>
    { pk := { pk with dst := node, op := if pk.op = 0x09 then 0x04 else 0x03, mcg := 0, ctx := 0, seq := 0 },
      cmd := r.cmd, ix := r.ix, cont := .repair r.id, lantern := r.lantern, stripe := none, resends := 0,
      bounces := 0, backoff := false }

/-- A member's answer to MFLUSH (R294, R295). -/
def State.mflushAnswer (s : State) (run : Nat) (node : Node) (short : Bool) : State :=
  match s.fabric.mcRuns.find? fun r => r.id == run with
  | none => s
  | some r =>
    if !r.members.contains node then s
    else
      let rs := if short then repairReqs r node else []
      let s := if short then (s.count fabMcRepairsOff).enqueue rs else s
      s.mcMember run fun x => { x with members := x.members.filter (· != node), repairs := x.repairs + rs.length }

/-- A line of LOAD_WEIGHTS arrived with its granule's tag (R163): another version than the one asked for ends the
command with the shard entry, that version and the tag found (R434). -/
def State.weightLine (s : State) (r : Req) (shard : Nat) (ver : BitVec 16) (addr : Nat) (data : List PByte)
    (tag : BitVec 16) : State :=
  if tag = ver then
    ((s.cacheAccess r.pk.part.val addr data.length true true).vstoreLine addr ver data).pieceEnd r.cmd r.ix stOk 0
  else
    match r.cmd with
    | some c =>
      let d := shard * 2 ^ 32 + ver.toNat * 2 ^ 16 + tag.toNat
      (s.noteFail c ⟨0, r.ix, stVersionPassed, BitVec.ofNat 64 d, false⟩).pieceDone c
    | none => s

/-- Write the pieces of a copy to host memory in their order, up to the first that failed or holds poison: there
the command ends (R257, R438). `at_` is the source's address, `to` the host's. -/
def State.hostPieces (s : State) (c : CmdId) : Nat → Nat → List (Nat × Nat × List PByte) → State
  | _, _, [] => s.pieceDone c
  | at_, tgt, (ix, st, bs) :: t =>
    if st ≠ stOk ∧ st ≠ stPoison ∨ bs = [] then (s.opFailed c ix st at_).pieceDone c
    else
      match firstPoison at_ bs with
      | some g =>
        let n := (bs.takeWhile fun b => !b.2).length
        let s := (s.hostWrite tgt (plain (bs.take n))).biteG c.part blkDma (BitVec.ofNat 64 g)
        (s.opFailed c ix stPoison g).pieceDone c
      | none => State.hostPieces (s.hostWrite tgt (plain bs)) c (at_ + bs.length) (tgt + bs.length) t

/-- A piece of a copy to host memory has been read; when it is the last, the copy is written (R438). -/
def State.hostPiece (s : State) (c : CmdId) (ix st : Nat) (data : List PByte) : State :=
  let s := s.onCmd c fun x => { x with left := x.left - 1, got := keySet x.got ix (st, data) }
  match s.cmd c with
  | some x => if x.left = 0 then s.hostPieces c (x.par 0) (x.par 1) x.got else s
  | none => s

/-- An operation of a gradient channel failed (R300): the channel does no more for the command, and what it has not
issued is dropped. -/
def State.chunkFail (s : State) (r : Req) (ch st : Nat) : State :=
  match r.cmd with
  | none => s
  | some c =>
    let s := (s.opFailed c r.ix st (reqAddr r)).pieceDone c
    let mine := fun (x : Req) => decide (x.cmd = some c) && decide (x.cont = .chunk ch)
    let n := (s.fabric.waiting.filter mine).length
    let s : State := { s with fabric := { s.fabric with waiting := s.fabric.waiting.filter fun x => !mine x } }
    (List.range n).foldl (fun s _ => s.pieceDone c) (s.gcFail ch c)

/-- A piece that the Keeper pulls has come, or has failed (R391). -/
def State.pullPiece (s : State) (p : Part) (good : Bool) : State :=
  s.onKpart p.val fun k =>
    { k with pull := k.pull.map fun (u : Pull) => { u with left := u.left - 1, bad := u.bad || !good } }

/-- A store of a mirror record that goes back to its owner has ended: after the last, MIR_RESTORE is answered (R407),
with result bit 0 set when one failed. -/
def State.restored (s : State) (id : Nat) (good : Bool) : State :=
  match s.keeper.restores.find? fun x => x.1 == id with
  | none => s
  | some (_, pk, n, res) =>
    let res := if good then res else res ||| 1
    let others := s.keeper.restores.filter fun x => x.1 != id
    if n ≤ 1 then
      ({ s with keeper := { s.keeper with restores := others } } : State).answer (recvKey pk) pk ⟨0, clean (natLe 8 res), 0⟩
    else { s with keeper := { s.keeper with restores := others ++ [(id, pk, n - 1, res)] } }

/-- A Keeper request for a mirror record (R407, MIR_RESTORE). -/
def restoreAsked (pk : Packet) : Bool := decide (pk.payload.headD 0 = 0x0D)

/-- What becomes of a completed operation: its status, its data and the tag it returned. -/
def State.finish (s : State) (r : Req) (st : Nat) (data : List PByte) (tag : BitVec 16) : State :=
  let ok := decide (st = stOk) || decide (st = stPoison)
  match r.cont with
  | .chunk ch =>
    if ok then s.pieceEnd r.cmd r.ix st (reqAddr r) else s.chunkFail r ch st
  | .pull a =>
    let good := ok && !data.isEmpty
    (if good then s.store a data else s).pullPiece r.pk.part good
  | .pullLine ver a =>
    let good := ok && !data.isEmpty && tag == ver
    (if good then s.vstoreLine a ver data else s).pullPiece r.pk.part good
  | .restore id => s.restored id (decide (st = stOk))
  | .kctl => if st ≠ stOk ∧ restoreAsked r.pk then s.pullPiece r.pk.part false else s
  | .none | .presence => s.pieceEnd r.cmd r.ix st (reqAddr r)
  | .toLocal a =>
    let s := if data.isEmpty then s else s.storeP r.pk.part.val a data
    s.pieceEnd r.cmd r.ix st (reqAddr r)
  | .toRemote a =>
    if data.isEmpty then s.pieceEnd r.cmd r.ix st (reqAddr r)
    else
      let s := match r.cmd with
        | some c => if ok then s else s.opFailed c r.ix st (reqAddr r)
        | none => s
      s.enqueue [storeFor r a data .none]
  | .toHost =>
    match r.cmd with
    | some c => s.hostPiece c r.ix st data
    | none => s
  | .mcData run ix =>
    if ok then
      (s.onRun run fun x => { x with data := x.data.mapIdx fun i d => if i = ix then (true, pkWith d.2 data) else d }).mcStart
    else if s.fabric.mcRuns.any fun x => x.id == run then
      ({ s with fabric := { s.fabric with mcRuns := s.fabric.mcRuns.filter fun x => x.id != run } }.pieceEnd
        r.cmd r.ix st (reqAddr r)).mcStart
    else s
  | .weight sh ver a => if ok && !data.isEmpty then s.weightLine r sh ver a data tag else s.pieceEnd r.cmd r.ix st (reqAddr r)
  | .meLoad e pos =>
    s.onMe e fun m =>
      if ok then { m with lines := keySet m.lines pos (data, tag), asked := m.asked - 1 }
      else { m with fail := some (m.fail.getD (st, reqAddr r)), asked := m.asked - 1 }
  | .xalloc id =>
    match keyGet s.xsends id with
    | none => s
    | some x =>
      if ok then
        let buf := leNat (plain data) % 2 ^ 48
        { s with xsends := keySet s.xsends id { x with buf := some buf } }.enqueue (xsendReqs r id x buf)
      else s.xsendFail id st
  | .xstore id => if ok then s else s.xsendFail id st
  | .xcommit id =>
    match keyGet s.xsends id with
    | none => s
    | some x => if ok then { s with xsends := keyDel s.xsends id }.pieceDone x.cmd else s.xsendFail id st
  | .closeHalf =>
    { s with fabric := { s.fabric with send := keyDel s.fabric.send r.pk.ctx.toNat } }
  | .repair run =>
    let s := if ok || st == stTargetLost then s else match r.cmd with
      | some c => s.opFailed c r.ix st (reqAddr r)
      | none => s
    s.mcMember run fun x =>
      { x with repairs := x.repairs - 1,
               lost := if st = stTargetLost ∧ !x.lost.contains r.pk.dst then x.lost ++ [r.pk.dst] else x.lost }
  | .mflush _ => s

/-- Operations that hand over what earlier STOREs of the same send wrote (R296, R299). -/
def commitOp (op : BitVec 6) : Bool := decide (op = 0x0E) || decide (op = 0x0F)

/-- Operations that name a line (R284). -/
def lineOp (op : BitVec 6) : Bool := decide (op.toNat ≤ 0x06) || commitOp op

/-- Two requests that R284 keeps apart: one line, destination, partition and class. -/
def sameLine (a b : Req) : Bool :=
  lineOp a.pk.op && lineOp b.pk.op && a.pk.dst == b.pk.dst && a.pk.part == b.pk.part && a.pk.tc == b.pk.tc &&
    decide (a.pk.offset.toNat / 128 = b.pk.offset.toNat / 128)

/-- A Keeper MIR_COMMIT (R407), which follows the STOREs of its record (R379). -/
def mirrorCommit (pk : Packet) : Bool := decide (pk.op = 0x14) && decide (pk.payload.headD 0 = 0x0B)

/-- A commit waits until every STORE of its send has its final reply (assumption 30), and so does a presence bit for
the records of its slot (assumption 63). -/
def commitWaits (r x : Req) : Bool :=
  (commitOp r.pk.op && decide (x.pk.op = 0x03) || mirrorCommit r.pk && decide (x.pk.op = 0x03) || decide (r.cont = .presence) && decide (x.cont = .none)) && x.pk.dst == r.pk.dst && x.pk.part == r.pk.part &&
    x.stripe == r.stripe && decide (x.cmd = r.cmd)

/-- Execute a request to the module itself: the home's work, and its end, or the back-off of a bounce. -/
def State.localOp (s : State) (r : Req) : State × List Req :=
  let pk : Packet := { r.pk with src := r.pk.dst }
  let (an, s) := s.applyOp pk
  if an.code = 4 then
    let q : Packet := { r.pk with ctx := 0xFFFFF, seq := BitVec.ofNat 24 s.fabric.nextLocal }
    ({ s with fabric := { s.fabric with nextLocal := s.fabric.nextLocal + 1 } },
      [{ r with pk := { q with code := 4 }, backoff := true, bounces := r.bounces + 1 }])
  else (s.finish r (codeStatus an.code) an.data an.ver, [])

/-- Put a request on its half (R277, R280): the next sequence, outstanding, and into the injection port. -/
def State.launch (s : State) (c : Nat) (h : SendHalf) (r : Req) : State :=
  let pk : Packet := { r.pk with ctx := BitVec.ofNat 20 c, seq := h.next, code := 0, src := BitVec.ofNat 16 (s.ownNode r.pk.part.val) }
  let s := s.onSend c fun h =>
    { h with used := s.now, next := h.next + 1, out := h.out ||| (1#64 <<< seqDist h.next h.oldest),
             rpend := if pk.op = 0x06 ∨ pk.op = 0x0C then h.rpend + 1 else h.rpend,
             recent := if pk.op = 0x06 ∨ pk.op = 0x0C then (h.recent ++ [pk.seq]).drop (h.recent.length - 3) else h.recent }
  let s := { s with fabric := { s.fabric with flying := s.fabric.flying ++ [{ r with pk := pk }] } }
  s.inject r.lantern pk

/-- A sequence has no final reply yet. -/
def SendHalf.outstanding (h : SendHalf) (q : BitVec 24) : Bool :=
  decide (seqDist q h.oldest < 64) && h.out.getLsbD (seqDist q h.oldest)

/-- The half has room for another request (R280, R282): a FETCH or XALLOC waits while four are outstanding, or while the
lowest of the last four has no reply. -/
def SendHalf.room (h : SendHalf) (op : BitVec 6) : Bool :=
  decide (seqDist h.next h.oldest < 64) && decide (popCount h.out < h.win) &&
    !((op == 0x06 || op == 0x0C) && (decide (4 ≤ h.rpend) || (decide (4 ≤ h.recent.length) && h.recent.head?.any h.outstanding)))

/-- The CLOSE of a half. -/
def closeReq (c : Nat) (h : SendHalf) : Req :=
  { pk := { Packet.zero with dst := h.node, op := 0x12, tc := 2, part := h.part, ctx := BitVec.ofNat 20 c },
    cmd := none, ix := 0, cont := .closeHalf, lantern := 0, stripe := none, resends := 0, bounces := 0, backoff := false }

/-- A half becomes CLOSING, with its CLOSE to be sent (R279): nothing for one that is closing. -/
def State.startClose (s : State) (c : Nat) : List Req × State :=
  match keyGet s.fabric.send c with
  | none => ([], s)
  | some h => if h.life = .closing then ([], s) else ([closeReq c h], s.onSend c fun h => { h with life := .closing })

/-- A half that has been open with nothing outstanding for this long, in ns (R279). -/
def SendHalf.idleFor (h : SendHalf) (now ns : Nat) : Bool :=
  decide (h.life = .open_) && decide (h.out = 0) && decide (h.used + ns ≤ now)

/-- A full send table closes the least recently used half that has had nothing outstanding for 100 µs, one at a time
(R279). -/
def State.makeRoom (s : State) : List Req × State :=
  if s.fabric.send.any fun e => decide (e.2.life = .closing) then ([], s)
  else
    let older := fun (b : Option (Nat × SendHalf)) (e : Nat × SendHalf) =>
      if e.2.idleFor s.now 100000 && (b.all fun x => decide (e.2.used < x.2.used)) then some e else b
    match s.fabric.send.foldl older none with
    | some (c, _) => s.startClose c
    | none => ([], s)

/-- The request belongs to an exchange send that has failed (R546). -/
def State.sendGone (s : State) (r : Req) : Bool :=
  match r.cont with
  | .xalloc id | .xstore id | .xcommit id => (keyGet s.xsends id).isNone
  | _ => false

/-- Try to issue one waiting request, `kept` being those before it that stay: the state after, and the requests
that stay waiting in its place (R272, R278 to R288, R338). -/
def State.tryIssue (s : State) (kept : List Req) (r : Req) : State × List Req :=
  let tc := r.pk.tc
  let node := r.pk.dst
  if s.sendGone r then (s, [])
  else if r.cont = .presence ∧ (r.cmd.bind s.cmd).any (fun x => !x.fails.isEmpty) then (s.finish r stOk [] 0, [])
  else if r.backoff then (s, [r])
  else if r.cont = .closeHalf then
    match keyGet s.fabric.send r.pk.ctx.toNat with
    | none => (s, [])
    | some h =>
      if h.life = .lost then (s.finish r stTargetLost [] 0, [])
      else if (s.llPorts s.injBank node.toNat).isEmpty then ((s.setBit fabErrOff 2).finish r stNoRoute [] 0, [])
      else if h.room r.pk.op ∧ !s.draining tc.val then (s.launch r.pk.ctx.toNat h r, []) else (s, [r])
  else if (kept ++ s.fabric.flying).any fun x => sameLine r x || commitWaits r x then (s, [r])
  else if s.here node.toNat then s.localOp r
  else if tc.val ≤ 2 ∧ s.lostTo node r.pk.part then (s.finish r stTargetLost (if r.pk.op.toNat ≤ 1 ∨ r.pk.op = 0x06 then lostData r else []) 0, [])
  else if (s.llPorts s.injBank node.toNat).isEmpty then ((s.setBit fabErrOff 2).finish r stNoRoute [] 0, [])
  else if s.draining tc.val then (s, [r])
  else
    let stripe := (r.stripe.getD (r.pk.offset.toNat / 128)) % s.stripes tc.val
    match s.sendFor node tc r.pk.part stripe with
    | some (c, h) => if h.life = .open_ ∧ h.room r.pk.op then (s.launch c h r, []) else (s, [r])
    | none =>
      match s.openSend node tc r.pk.part stripe with
      | none => let (cl, s) := s.makeRoom; (s, r :: cl)
      | some (c, s) =>
        match keyGet s.fabric.send c with
        | some h => (s.launch c h r, [])
        | none => (s, [r])

/-- A send half whose entry fails parity (R291): every request outstanding on it ends with ST_DATAPATH, and the half is
closed. -/
def State.sendBroken (s : State) (c : Nat) (h : SendHalf) : State :=
  let s := (s.onSend c fun h => { h with bad := false }).ctxParity h.part
  let rs := s.fabric.flying.filter fun r => r.pk.ctx.toNat == c
  let s := rs.foldl (fun s r => (s.final r).finish r stDatapath [] 0) s
  let (cl, s) := s.startClose c
  s.enqueue cl

/-- A waiting request is for a half. -/
def SendHalf.wanted (c : Nat) (h : SendHalf) (r : Req) : Bool :=
  !r.backoff && (if r.cont = .closeHalf then r.pk.ctx.toNat == c
    else r.pk.dst == h.node && r.pk.tc == h.tc && r.pk.part == h.part)

/-- The halves that waiting requests are for meet their parity errors. -/
def State.meetSends (s : State) : State :=
  s.fabric.send.foldl (fun s (c, h) =>
    if h.bad && s.fabric.waiting.any (h.wanted c) then s.sendBroken c h else s) s

/-- One pass over the waiting requests, in issue order. What they make anew waits for the next pass. -/
def State.pumpOnce (s : State) : State :=
  let s := s.meetSends
  let rs := s.fabric.waiting
  let (s, kept) := rs.foldl (fun (x : State × List Req) r =>
    let (s, k) := x.1.tryIssue x.2 r
    (s, x.2 ++ k)) ({ s with fabric := { s.fabric with waiting := [] } }, [])
  { s with fabric := { s.fabric with waiting := kept ++ s.fabric.waiting } }

/-- Issue what can be issued: passes until none makes new requests (a send takes three). -/
def State.pump (s : State) : State :=
  (List.range 6).foldl (fun s _ => if s.fabric.waiting.all (·.backoff) then s else s.pumpOnce) s

/-- Issue requests. -/
def State.fabIssue (s : State) (rs : List Req) : State := (s.enqueue rs).pump

/-- Close a half: CLOSING, and a CLOSE on it (R279). -/
def State.closeSend (s : State) (c : Nat) : State :=
  let (cl, s) := s.startClose c
  s.fabIssue cl

/-! ## Answers at the source -/

/-- The outstanding request that a reply answers: the first reply to each sequence is accepted (R282). -/
def State.answering (s : State) (pk : Packet) : Option Req :=
  s.fabric.flying.find? fun r =>
    r.pk.ctx == pk.ctx && r.pk.seq == pk.seq && r.pk.dst == pk.src && replyOp r.pk.op.toNat == pk.op &&
      decide (pk.code.toNat ≤ 6)

/-- A bounced request waits out its back-off, its last bounce in its CODE (R292). -/
def State.bounced (s : State) (r : Req) (code : BitVec 4) : State :=
  (s.count fabBouncesReceivedOff).enqueueFront
    [{ r with pk := { r.pk with code := code }, backoff := true, bounces := r.bounces + 1, resends := 0 }]

/-- The half of an outstanding request fails parity when the module comes back to it (R291): what that does, where it
does. -/
def State.meetSend (s : State) (r : Req) : Option State :=
  match keyGet s.fabric.send r.pk.ctx.toNat with
  | some h => if h.bad then some (s.sendBroken r.pk.ctx.toNat h).pump else none
  | none => none

/-- Accept a reply to a unicast request (R276, R280, R285, R291, R292, R332). -/
def State.accept (s : State) (pk : Packet) (r : Req) : State :=
  let code := pk.code.toNat
  let bounce := decide (code = 4) || decide (code = 5)
  let s := if bounce && !pk.echo then s
    else s.onSend r.pk.ctx.toNat fun h => h.window (s.fld fabCcOff 11 8) (s.fld fabCcOff 3 0) r.pk.seq pk.echo
  let s := s.final r
  if bounce then (s.bounced r pk.code).pump
  else
    let s := s.finish r (codeStatus code) (if code = 0 ∨ code = 3 then pkBytes pk else []) pk.ver
    let s := if code = 6 then s.closeSend r.pk.ctx.toNat else s
    s.pump

/-- A reply arrives: accepted when an outstanding request waits for it, discarded otherwise. -/
def State.replyIn (s : State) (pk : Packet) : State :=
  match s.answering pk with
  | some r => match r.cont with
    | .mflush _ => s
    | _ => (s.meetSend r).getD (s.accept pk r)
  | none => s

/-- The declaration of a lost target (R288): FAB_ERR, FAB_LOST, FAB_LOST_LAST, the event, the notice to the Keeper
controller, and LOST halves. -/
def State.declareLost (s : State) (node : Node) (p : Part) (tc : Fin 4) : State :=
  let s := (s.setBit fabErrOff 3).count fabLostOff
  let s := s.setReg fabLostLastOff (BitVec.ofNat 64 (node.toNat * 2 ^ 16 + p.val * 2 ^ 14 + tc.val * 2 ^ 12))
  let s := (s.raise evTargetLost (some p) node.toNat tc.val).notify p.val (.lost node)
  { s with fabric := { s.fabric with
      lostTo := (s.fabric.lostTo.filter (· != (node, p))) ++ [(node, p)],
      send := s.fabric.send.map fun (c, h) =>
        if h.node = node ∧ h.part = p ∧ h.tc.val ≤ 2 then (c, { h with life := .lost }) else (c, h) } }

/-- A unicast request has had no reply by 10T (R288). -/
def State.targetLost (s : State) (r : Req) : State :=
  let s := (s.final r).declareLost r.pk.dst r.pk.part r.pk.tc
  let reads := decide (r.pk.op.toNat ≤ 1) || decide (r.pk.op = 0x06)
  (s.finish r stTargetLost (if reads then lostData r else []) 0).pump

/-- The outstanding request of a name. -/
def State.flyingReq (s : State) (rq : ReqId) : Option Req :=
  s.fabric.flying.find? fun r => r.pk.ctx == rq.ctx && r.pk.seq == rq.seq

/-- The waiting request that a bounce has left with a name. -/
def State.bouncedReq (s : State) (rq : ReqId) : Option Req :=
  s.fabric.waiting.find? fun r => r.backoff && r.pk.ctx == rq.ctx && r.pk.seq == rq.seq

/-- Replace a waiting request by others. -/
def State.replaceWaiting (s : State) (rq : ReqId) (f : Req → List Req) : State :=
  { s with fabric := { s.fabric with waiting := s.fabric.waiting.flatMap fun r =>
      if r.backoff && r.pk.ctx == rq.ctx && r.pk.seq == rq.seq then f r else [r] } }

end Sys2Proof.Machine
end

