-- ==== Sys2Proof/Machine/FabRows.lean ====
section
/-! DEFINITION. The meanings of the fabric operation rows: requests that arrive at their target, replies that
arrive at their source, and the timeouts of chapter 11. -/

namespace Sys2Proof.Machine

/-! ## Requests at the target -/

/-- The module ejects every packet addressed to it: past BOOT, not in PROTECT, and in a P state (R467, R479). -/
def State.ejects (s : State) : Bool :=
  decide (mStandby ≤ s.modState) && decide (s.modState ≠ mProtect) && decide (s.fld pwrStateOff 3 0 ≤ 3)

/-- A packet leaves the ejection queue of its lantern. -/
def State.dequeue (s : State) (pk : Packet) : State :=
  { s with fabric := { s.fabric with
      ejq := (s.fabric.ejq.map fun (n, q) => (n, q.erase pk)).filter fun e => !e.2.isEmpty } }

/-- A packet of one of these operations has arrived for this module: the state without it in a queue. -/
def State.arrived (s : State) (pk : Packet) (ops : List Nat) : Option State :=
  if s.ejects && (s.here pk.dst.toNat || pk.dst == 0xFFFF) && ops.contains pk.op.toNat then some (s.dequeue pk) else none

/-- A unicast request arrives (R276, R281). -/
def State.requestIn (s : State) (pk : Packet) (op : Nat) : State :=
  match s.arrived pk [op] with
  | some s => if pk.dst = 0xFFFF then s else s.receive pk
  | none => s

/-- FAB_LOAD (R286). -/
def execFabLoad (pk : Packet) (s : State) : Host.Outcome State Fault Refusal := .next (s.requestIn pk 0x00)

/-- FAB_LOADT (R286). -/
def execFabLoadt (pk : Packet) (s : State) : Host.Outcome State Fault Refusal := .next (s.requestIn pk 0x01)

/-- FAB_STORE (R285). -/
def execFabStore (pk : Packet) (s : State) : Host.Outcome State Fault Refusal := .next (s.requestIn pk 0x03)

/-- VSTORE (R157). -/
def execVstore (pk : Packet) (s : State) : Host.Outcome State Fault Refusal := .next (s.requestIn pk 0x04)

/-- RED (R229). -/
def execRed (pk : Packet) (s : State) : Host.Outcome State Fault Refusal := .next (s.requestIn pk 0x05)

/-- FETCH (R225). -/
def execFetch (pk : Packet) (s : State) : Host.Outcome State Fault Refusal := .next (s.requestIn pk 0x06)

/-- XALLOC (R296). -/
def execXalloc (pk : Packet) (s : State) : Host.Outcome State Fault Refusal := .next (s.requestIn pk 0x0C)

/-- XCOMMIT (R296). -/
def execXcommit (pk : Packet) (s : State) : Host.Outcome State Fault Refusal := .next (s.requestIn pk 0x0E)

/-- GCOMMIT (R544). -/
def execGcommit (pk : Packet) (s : State) : Host.Outcome State Fault Refusal := .next (s.requestIn pk 0x0F)

/-- CLOSE (R279). -/
def execClose (pk : Packet) (s : State) : Host.Outcome State Fault Refusal := .next (s.requestIn pk 0x12)

/-- The operation codes of R274, and the frames IDLE and LINK of R314. -/
def knownCodes : List Nat :=
  [0x00, 0x01, 0x02, 0x03, 0x04, 0x05, 0x06, 0x07, 0x08, 0x09, 0x0A, 0x0C, 0x0D, 0x0E, 0x0F, 0x10, 0x12, 0x14,
   0x3E, 0x3F]

/-- RESERVED_OP_ARRIVAL (R274). -/
def execReservedOpArrival (pk : Packet) (s : State) : Host.Outcome State Fault Refusal :=
  .next (if knownCodes.contains pk.op.toNat then s
    else match s.arrived pk [pk.op.toNat] with
      | some s => s.count fabStaleOff
      | none => s)

/-! ## Multicast at a member -/

/-- A member's half of a group before its first packet. -/
def McRecv.fresh (pk : Packet) (grp : BitVec 14) : McRecv := ⟨pk.src, grp, pk.part, 0, none, none⟩

/-- The group a packet belongs to: its MCG, or for a unicast MFLUSH its half's (assumption 27). -/
def pkGroup (pk : Packet) : BitVec 14 := if pk.dst = 0xFFFF then pk.mcg else pk.ctx.setWidth 14

/-- A member's half (R293). -/
def State.mcHalfOf (s : State) (src : Node) (grp : BitVec 14) (p : Part) : Option McRecv :=
  s.fabric.mcRecv.find? fun m => m.src == src && m.grp == grp && m.part == p

/-- Put a member's half. -/
def State.putMc (s : State) (m : McRecv) : State :=
  { s with fabric := { s.fabric with
      mcRecv := (s.fabric.mcRecv.filter fun x => !(x.src == m.src && x.grp == m.grp && x.part == m.part)) ++ [m] } }

/-- Answer an MFLUSH: DONE or SHORT with the count, retained; a new count starts (R294). An answer to this
module's own run stays in the module. -/
def State.mcReply (s : State) (m : McRecv) (pk : Packet) (short : Bool) (n : Nat) : State :=
  let s := s.putMc { m with count := 0, answer := some (pk.seq, short, n), flush := none }
  if s.here pk.src.toNat then (s.mflushAnswer pk.seq.toNat pk.src short).pump
  else s.reply pk ⟨0, clean (natLe 8 ((if short then 1 else 0) + n * 2 ^ 32)), 0⟩

/-- A multicast data packet arrives at a member (R293, R294): refused ones change nothing and are not counted. -/
def State.mcData (s : State) (pk : Packet) (op : Nat) : State :=
  match s.arrived pk [op] with
  | none => s
  | some s =>
    let (an, s) := s.applyOp pk
    if an.code ≠ 0 then s.noteAnswer an.code
    else
      let m := (s.mcHalfOf pk.src pk.mcg pk.part).getD (McRecv.fresh pk pk.mcg)
      let m := { m with count := m.count + 1 }
      match m.flush with
      | some q => if pkWord q 0 ≤ m.count then s.mcReply m q false m.count else s.putMc m
      | none => s.putMc m

/-- MSTORE (R293). -/
def execMstore (pk : Packet) (s : State) : Host.Outcome State Fault Refusal := .next (s.mcData pk 0x08)

/-- MVSTORE (R293). -/
def execMvstore (pk : Packet) (s : State) : Host.Outcome State Fault Refusal := .next (s.mcData pk 0x09)

/-- An MFLUSH arrives (R294): answered, repeated for a duplicate, or left to wait for the rest of its run. -/
def State.mflushIn (s : State) (pk : Packet) : State :=
  match s.arrived pk [0x0A] with
  | none => s
  | some s =>
    if pkMalformed pk then s.noteAnswer 2
    else
      let m := (s.mcHalfOf pk.src (pkGroup pk) pk.part).getD (McRecv.fresh pk (pkGroup pk))
      match m.answer with
      | some (q, short, n) =>
        if q = pk.seq then
          (s.count fabDuplicatesOff).reply pk ⟨0, clean (natLe 8 ((if short then 1 else 0) + n * 2 ^ 32)), 0⟩
        else if pkWord pk 0 ≤ m.count then s.mcReply m pk false m.count
        else s.putMc { m with flush := some pk }
      | none =>
        if pkWord pk 0 ≤ m.count then s.mcReply m pk false m.count else s.putMc { m with flush := some pk }

/-- MFLUSH (R294). -/
def execMflush (pk : Packet) (s : State) : Host.Outcome State Fault Refusal := .next (s.mflushIn pk)

/-- MFLUSH_SHORT_TIMEOUT (R294). -/
def execMflushShortTimeout (src : Node) (grp : BitVec 14) (p : Part) (s : State) :
    Host.Outcome State Fault Refusal :=
  .next (match s.mcHalfOf src grp p with
    | some m => match m.flush with
      | some pk => s.mcReply m pk true m.count
      | none => s
    | none => s)

/-! ## Replies at the source -/

/-- FETCH_REPLY (R282). -/
def execFetchReply (pk : Packet) (s : State) : Host.Outcome State Fault Refusal :=
  .next (match s.arrived pk [0x07] with
    | some s => s.replyIn pk
    | none => s)

/-- The outstanding request that a reply answers is a Keeper request (R407). -/
def State.answersKctl (s : State) (pk : Packet) : Bool :=
  match s.answering pk with
  | some r => decide (r.pk.op = 0x14)
  | none => false

/-- ACK (R276): the acknowledgement of any request but a Keeper's, whose reply is KCTL_REPLY. -/
def execAck (pk : Packet) (s : State) : Host.Outcome State Fault Refusal :=
  .next (if s.answersKctl pk then s
    else match s.arrived pk [0x10] with
      | some s => s.replyIn pk
      | none => s)

/-- XALLOC_REPLY (R296). -/
def execXallocReply (pk : Packet) (s : State) : Host.Outcome State Fault Refusal :=
  .next (match s.arrived pk [0x0D] with
    | some s => s.replyIn pk
    | none => s)

/-- The run whose MFLUSH an answer names, while it is outstanding. -/
def State.flushRun (s : State) (pk : Packet) : Option Nat :=
  s.fabric.flying.findSome? fun r =>
    match r.cont with
    | .mflush run => if r.pk.ctx = pk.ctx ∧ r.pk.seq = pk.seq then some run else none
    | _ => none

/-- MFLUSH_REPLY (R295). -/
def execMflushReply (pk : Packet) (s : State) : Host.Outcome State Fault Refusal :=
  .next (match s.arrived pk [0x10] with
    | some s => match s.flushRun pk with
      | some run => (s.mflushAnswer run pk.src (bitOf (pkWord pk 0) 0)).pump
      | none => s
    | none => s)

/-! ## Timeouts -/

/-- A member of a run has no route at a resend of MFLUSH: for it the request ends with ST_NO_ROUTE (R335). -/
def State.flushNoRoute (s : State) (r : Req) (run : Nat) (m : Node) : State :=
  let s := s.setBit fabErrOff 2
  let s := match r.cmd with
    | some c => s.opFailed c r.ix stNoRoute (m.toNat * 2 ^ 48 + r.pk.offset.toNat)
    | none => s
  s.mcMember run fun x => { x with members := x.members.filter (· != m) }

/-- MFLUSH again to one member: by unicast, or into this module's own ejection queue (R294, R327). -/
def State.resendFlush (s : State) (r : Req) (run : Nat) (m : Node) : State :=
  let pk : Packet := { r.pk with dst := m, mcg := 0 }
  let s := s.count fabResendsOff
  if s.here m.toNat then
    let q := tblGet (fun _ => ([] : List Packet)) s.fabric.ejq 0
    { s with fabric := { s.fabric with ejq := tblSet (fun _ => []) s.fabric.ejq 0 (q ++ [pk]) } }
  else if (s.llPorts s.injBank m.toNat).isEmpty then s.flushNoRoute r run m
  else s.inject r.lantern pk

/-- Send a request again, with the same sequence and payload; the window sees an ECHO of 1 (R287, R332). An
MFLUSH goes by unicast to each member that owes an answer (R294). -/
def State.resend (s : State) (r : Req) : State :=
  let s : State := { s with fabric := { s.fabric with flying := s.fabric.flying.map fun (x : Req) =>
    if x.pk.ctx = r.pk.ctx ∧ x.pk.seq = r.pk.seq then { x with resends := x.resends + 1 } else x } }
  match r.cont with
  | .mflush run =>
    let ms := ((s.fabric.mcRuns.find? fun x => x.id == run).map (·.members)).getD []
    ms.foldl (fun s m => s.resendFlush r run m) s
  | _ =>
    let s := s.onSend r.pk.ctx.toNat fun h => h.window (s.fld fabCcOff 11 8) (s.fld fabCcOff 3 0) r.pk.seq true
    (s.count fabResendsOff).inject r.lantern r.pk

/-- RESEND_TIMEOUT (R287): at T, 2T and 4T. -/
def execResendTimeout (rq : ReqId) (s : State) : Host.Outcome State Fault Refusal :=
  .next (match s.flyingReq rq with
    | some r => if r.resends < 3 then (s.meetSend r).getD (s.resend r) else s
    | none => s)

/-- Every member that owes an answer to a run's MFLUSH is declared lost (R288, R294). -/
def State.membersLost (s : State) (run : Nat) (r : Req) : State :=
  let ms := ((s.fabric.mcRuns.find? fun x => x.id == run).map (·.members)).getD []
  let s := ms.foldl (fun s m => s.declareLost m r.pk.part r.pk.tc) s
  (s.mcMember run fun x => { x with members := [], lost := x.lost ++ ms }).pump

/-- BOUNCE_BACKOFF_EXPIRY (R292): the request is issued again as a new one. -/
def execBounceBackoffExpiry (rq : ReqId) (s : State) : Host.Outcome State Fault Refusal :=
  .next (s.replaceWaiting rq fun r => [{ r with backoff := false }]).pump

/-- BOUNCE_LIMIT_EXPIRY (R292): the request ends as its last bounce was. -/
def execBounceLimitExpiry (rq : ReqId) (s : State) : Host.Outcome State Fault Refusal :=
  .next (match s.bouncedReq rq with
    | some r =>
      if s.fld fabOpCtrlOff 15 0 = 0 then s
      else ((s.replaceWaiting rq fun _ => []).finish r (codeStatus r.pk.code.toNat) [] 0).pump
    | none => s)

/-- FAB_CTX_CTRL.IDLE in ns: units of 100 µs, 0 acting as 1 (R306). -/
def State.idleNs (s : State) : Nat := Nat.max 1 (s.fld fabCtxCtrlOff 31 16) * 100000

/-- SEND_HALF_IDLE_CLOSE (R279): a half that has had nothing outstanding for FAB_CTX_CTRL.IDLE. -/
def execSendHalfIdleClose (ctx : BitVec 20) (s : State) : Host.Outcome State Fault Refusal :=
  .next (match keyGet s.fabric.send ctx.toNat with
    | some h => if h.idleFor s.now s.idleNs then s.closeSend ctx.toNat else s
    | none => s)

/-- A chunk's REDUCE_SCATTER entry is open at a channel. -/
def State.gcOpen (s : State) (p : Part) (shard step : W32) : Bool :=
  s.gcs.any fun (_, es) => es.any fun e => e.cmd.part == p && e.shard == shard && e.step == step

/-- GCOMMIT_HOLD_TIMEOUT (R544). -/
def execGcommitHoldTimeout (p : Part) (shard step chunk : W32) (s : State) : Host.Outcome State Fault Refusal :=
  let mine := fun (g : GArrival) => g.part == p && g.shard == shard && g.step == step && decide (g.chunk = chunk.toNat)
  .next (if s.gcIn.any mine && !s.gcOpen p shard step && decide (s.fld fabGcCtrlOff 15 0 ≠ 0) then
      { (s.count fabStaleOff (s.gcIn.filter mine).length) with gcIn := s.gcIn.filter fun g => !mine g }
    else s)

/-- XALLOC_BUFFER_TIMEOUT (R296): a granted buffer that no XCOMMIT names is freed and counted. -/
def execXallocBufferTimeout (p : Part) (buf : BitVec 48) (s : State) : Host.Outcome State Fault Refusal :=
  .next (if keyGet s.xallocs buf.toNat = some p.val ∧ s.fld (suExchTmoOff 0 p.val) 15 0 ≠ 0 then
      ({ s with xallocs := keyDel s.xallocs buf.toNat }.poolFree p 0 buf.toNat).count (suLateOff 0)
    else s)

/-- A write of FAB_REOPEN (R290): each LOST half to the node in the partition reopens, at once or after its last
outstanding request; ignored while the Keeper is enabled. -/
def State.fabReopen (s : State) (v : W32) : State :=
  let node : Node := v.setWidth 16
  let p := bitsOf v.toNat 17 16
  if s.bit (kprCtrlOff p) 0 then s
  else
    let s : State := { s with fabric := { s.fabric with
      lostTo := s.fabric.lostTo.filter fun x => !(x.1 == node && x.2.val == p) } }
    let mine := s.fabric.send.filter fun (_, h) => h.node == node && h.part.val == p && decide (h.tc.val ≤ 2) &&
      decide (h.life = .lost)
    (mine.foldl (fun s (c, _) => (s.onSend c fun h => { h with life := .reopening }).reopenIf c) s).pump

/-- FAB_REOPEN (R290). -/
def execFabReopen (by_ : Func) (v : W32) (s : State) : Host.Outcome State Fault Refusal :=
  .next (if s.mayMod by_ then s.fabReopen v else s)

end Sys2Proof.Machine
end

