-- ==== Sys2Proof/Machine/Shards.lean ====
section
/-! DEFINITION. Shards, their table, versions and the working copy's layout (R152 to R160, R164). -/

namespace Sys2Proof.Machine

/-- A shard entry's 128 bytes as one number (R153). -/
abbrev ShardRaw := Nat

/-- The local offset of shard entry i (R153, R171). -/
def State.shardAddr (s : State) (p i : Nat) : Nat := (s.reg (cmdShardBaseOff p)).toNat % 2 ^ 48 + 128 * i

/-- CMD_SHARD_COUNT; values above 65,536 act as 65,536 (R172). -/
def State.shardCount (s : State) (p : Nat) : Nat := Nat.min 65536 (s.fld (cmdShardCountOff p) 16 0)

/-- Shard entry i. -/
def State.shard (s : State) (p i : Nat) : ShardRaw := s.peek (s.shardAddr p i) 128

/-- Write part of a shard entry. -/
def State.shardPut (s : State) (p i off n v : Nat) : State := s.poke (s.shardAddr p i + off) n v

/-- SHARD_ID. -/
def shId (r : ShardRaw) : Nat := bitsOf r 31 0
/-- OWNER. -/
def shOwner (r : ShardRaw) : Nat := bitsOf r 47 32
/-- MIRROR. -/
def shMirror (r : ShardRaw) : Nat := bitsOf r 63 48
/-- VERSION. -/
def shVersion (r : ShardRaw) : Nat := bitsOf r 79 64
/-- OWNED. -/
def shOwned (r : ShardRaw) : Bool := bitOf r 80
/-- STATE: SLOW. -/
def shSlow (r : ShardRaw) : Bool := bitOf r 81
/-- DELAY. -/
def shDelay (r : ShardRaw) : Nat := bitsOf r 83 82
/-- EXPERT. -/
def shExpert (r : ShardRaw) : Bool := bitOf r 84
/-- QHEAD. -/
def shQhead (r : ShardRaw) : Nat := bitsOf r 86 85
/-- QLEN. -/
def shQlen (r : ShardRaw) : Nat := bitsOf r 89 87
/-- MAXSTALE. -/
def shMaxStale (r : ShardRaw) : Nat := bitsOf r 91 90
/-- M_SLOT. -/
def shMslot (r : ShardRaw) : Nat := bitsOf r 111 96
/-- W_SLOT. -/
def shWslot (r : ShardRaw) : Nat := bitsOf r 127 112
/-- MASTER_PTR. -/
def shMaster (r : ShardRaw) : Nat := bitsOf r 191 128
/-- WC_BASE. -/
def shWcBase (r : ShardRaw) : Nat := bitsOf r 255 192
/-- WC_BYTES. -/
def shWcBytes (r : ShardRaw) : Nat := bitsOf r 287 256
/-- WC_FMT. -/
def shWcFmt (r : ShardRaw) : Nat := bitsOf r 291 288
/-- MCAST. -/
def shMcast (r : ShardRaw) : Nat := bitsOf r 305 292
/-- GRAD_PTR. -/
def shGrad (r : ShardRaw) : Nat := bitsOf r 383 320
/-- LIST_PTR. -/
def shList (r : ShardRaw) : Nat := bitsOf r 447 384
/-- SKIPS. -/
def shSkips (r : ShardRaw) : Nat := bitsOf r 471 448
/-- UPDATES. -/
def shUpdates (r : ShardRaw) : Nat := bitsOf r 511 472
/-- QVER of queue slot q. -/
def shQver (r : ShardRaw) (q : Nat) : Nat := bitsOf r (512 + 128 * q + 15) (512 + 128 * q)
/-- QTOKENS of queue slot q. -/
def shQtokens (r : ShardRaw) (q : Nat) : Nat := bitsOf r (512 + 128 * q + 63) (512 + 128 * q + 32)
/-- QFACTOR of queue slot q. -/
def shQfactor (r : ShardRaw) (q : Nat) : Nat := bitsOf r (512 + 128 * q + 95) (512 + 128 * q + 64)
/-- QNORM of queue slot q. -/
def shQnorm (r : ShardRaw) (q : Nat) : Nat := bitsOf r (512 + 128 * q + 127) (512 + 128 * q + 96)

/-- Every RSVD field of an entry is 0 (R153). -/
def shRsvdZero (r : ShardRaw) : Bool :=
  decide (bitsOf r 95 92 = 0) && decide (bitsOf r 319 306 = 0) &&
    (List.range 4).all fun q => decide (bitsOf r (512 + 128 * q + 31) (512 + 128 * q + 16) = 0)

/-! ## Versions (R155) -/

/-- The successor of a version. -/
def verNext (v : Nat) : Nat := if v = 0xFFFB then 0 else v + 1

/-- The distance from a to b. -/
def verDist (a b : Nat) : Nat := (b + 65532 - a) % 65532

/-- b is newer than a. -/
def verNewer (a b : Nat) : Bool := decide (1 ≤ verDist a b) && decide (verDist a b ≤ 32765)

/-! ## The stationary layout (R72, R160) -/

/-- Elements of a position, e of R72: one 16-bit, two 8-bit or four 4-bit elements. -/
def fmtPack (f : Fmt) : Nat := if f.bits ≤ 4 then 4 else if f.bits ≤ 8 then 2 else 1

/-- Bytes of the dense stationary layout's data for K rows and N columns (R160). -/
def denseBytes (f : Fmt) (k n : Nat) : Nat := (n + 127) / 128 * ((k + 128 * fmtPack f - 1) / (128 * fmtPack f)) * 32768

/-- Bytes of its G4 block scales (R72). -/
def denseScaleBytes (f : Fmt) (k n : Nat) : Nat := if f = .g4 then (n + 127) / 128 * ((k + 511) / 512) * 2048 else 0

/-- Offset of element (k, n) in the data, with stride between column blocks as R160 gives it: the byte, and the
nibble of a G4 element (R21, R72). -/
def denseAt (f : Fmt) (rows k n : Nat) : Nat × Nat :=
  let e := fmtPack f
  let stride := (rows + 128 * e - 1) / (128 * e) * 32768
  let kb := k % (128 * e)
  let pos := n / 128 * stride + k / (128 * e) * 32768 + (kb / e * 128 + n % 128) * 2
  match e with
  | 4 => (pos + kb % 4 / 2, kb % 2)
  | 2 => (pos + kb % 2, 0)
  | _ => (pos, 0)

/-- Offset of the G4 block scale of element (k, n) in the scales (R72). -/
def denseScaleAt (rows k n : Nat) : Nat := (n / 128 * ((rows + 511) / 512) + k / 512) * 2048 + n % 128 * 16 + k % 512 / 32

/-- What a ring slot of a shard must hold (R160). -/
def slotNeeds (f : Fmt) (k n : Nat) : Nat := denseBytes f k n + denseScaleBytes f k n

/-- Bytes of a gradient queue slot (R153). -/
def gradBytes (elements : Nat) : Nat := (2 * elements + 127) / 128 * 128

/-- The format of a working copy. -/
def wcFormat (r : ShardRaw) : Option Fmt :=
  match Fmt.ofCode (shWcFmt r) with
  | some .e4m3 => some .e4m3
  | some .e5m2 => some .e5m2
  | some .g4 => some .g4
  | _ => none

/-! ## The check of an entry (R154) -/

/-- A slot number names a slot of a kind; the slot's contents. -/
def State.slotOfKind (s : State) (p i kind : Nat) : Option SlotRaw :=
  if s.slotNamed p i ∧ slotValid (s.slot p i) ∧ slKind (s.slot p i) = kind then some (s.slot p i) else none

/-- A node is the partition's own, or the one for which this module answers as its partner (R393). -/
def State.ownsFor (s : State) (p node : Nat) : Bool :=
  decide (node = s.ownNode p) || decide (s.keeper.served = some (BitVec.ofNat 16 node))

/-- A shard entry is well formed (R154). -/
def State.shardOk (s : State) (p i : Nat) : Bool :=
  let r := s.shard p i
  let wc := match s.slotOfKind p (shWslot r) 2 with
    | some w => slFmt w == shWcFmt r
    | none => false
  let fmt := wcFormat r
  let base := shRsvdZero r && wc && fmt.isSome && decide (shWcBytes r % 32768 = 0) &&
    decide (shWcBase r % 128 = 0) && (s.localPtr p (shWcBase r)).isSome
  if shOwned r then
    base && s.ownsFor p (shOwner r) &&
    (if shSlow r then decide (shDelay r ≠ 0) else decide (shDelay r = 0)) &&
    decide (shDelay r ≤ shMaxStale r) && decide (shVersion r ≤ 0xFFFB) &&
    (match s.slotOfKind p (shMslot r) 1 with
      | some m => decide (slotNeeds (fmt.getD .e4m3) (slRows m) (slCols m) ≤ shWcBytes r)
      | none => false) &&
    [shMaster r, shGrad r, shList r].all fun a => decide (a % 128 = 0) && (s.localPtr p a).isSome
  else base && decide (shOwner r ≠ s.ownNode p) && decide (shWcBytes r ≠ 0)

/-- A shard number can be read: below the count, its entry inside the partition's gallery scratchpad. -/
def State.shardNamed (s : State) (p i : Nat) : Bool :=
  decide (i < s.shardCount p) && (s.refusedGal p (s.shardAddr p i) 128).isNone

/-- The entries of the partition's table that this module owns, in ascending shard identifier (R152, R165). -/
def State.ownedShards (s : State) (p : Nat) : List Nat :=
  let is := (List.range (s.shardCount p)).filter fun i => s.shardNamed p i && shOwned (s.shard p i)
  sortBy (fun a b => decide (shId (s.shard p a) < shId (s.shard p b))) is

/-- The module's mirror partner in a partition (R376): the MIRROR of its owned shards, those apart that it owns as a
lost node's partner, whose MIRROR is the module itself (R393). -/
def State.mirrorNode (s : State) (p : Nat) : Option Nat :=
  ((s.ownedShards p).map fun i => shMirror (s.shard p i)).find? fun n => !s.here n

/-- An owned shard was taken over from a lost node and has no mirror (R393; assumption 120): its OWNER is not the
partition's own node, and its MIRROR is the module itself. -/
def State.unmirrored (s : State) (p i : Nat) : Bool :=
  let r := s.shard p i
  decide (shOwner r ≠ s.ownNode p) && s.here (shMirror r)

/-- The version that the STEP_PLAN in force names for a shard (R164, R436). -/
def State.planVersion (s : State) (p shard : Nat) : Option Nat :=
  match (s.job p).plan with
  | some pl => (keyGet pl.versions shard).map (·.toNat)
  | none => none

end Sys2Proof.Machine
end

