-- ==== Sys2Proof/Machine/Journal.lean ====
section
/-! DEFINITION. The step journal (R395 to R397) and its copy at the mirror partner (R381). -/

namespace Sys2Proof.Machine

/-- The Keeper acts for a partition: KPR_CTRL.EN (R408). -/
def State.keeperOn (s : State) (p : Nat) : Bool := s.bit (kprCtrlOff p) 0

/-- Record types (R396). -/
abbrev jrPad : Nat := 0
/-- PLAN. -/
abbrev jrPlan : Nat := 1
/-- SLOTS. -/
abbrev jrSlots : Nat := 2
/-- CMD. -/
abbrev jrCmd : Nat := 3
/-- GATE. -/
abbrev jrGate : Nat := 4
/-- COMMIT. -/
abbrev jrCommit : Nat := 5
/-- REPLAY. -/
abbrev jrReplay : Nat := 6

/-- Bytes of the journal ring (R395). -/
abbrev jrBytes : Nat := 0x4000000

/-- KPR_JRNL_BASE. -/
def State.jrBase (s : State) (p : Nat) : Nat := (s.reg (kprJrnlBaseOff p)).toNat % 2 ^ 48

/-- A request with nothing behind it. -/
def plainReq (pk : Packet) : Req :=
  { pk := pk, cmd := none, ix := 0, cont := .none, lantern := 0, stripe := none, resends := 0, bounces := 0,
    backoff := false }

/-- STOREs of bytes to an offset of a node, line by line. -/
def storeLines (node : Nat) (tc : Fin 4) (p : Part) : Nat → Nat → List PByte → List Packet
  | 0, _, _ => []
  | k + 1, a, bs =>
    if bs.isEmpty then []
    else
      let m := 128 - a % 128
      pkWith { Packet.zero with dst := BitVec.ofNat 16 node, op := 0x03, tc := tc, part := p,
                                offset := BitVec.ofNat 48 a } (bs.take m) :: storeLines node tc p k (a + m) (bs.drop m)

/-- The class-3 STOREs that copy bytes to the mirror partner at equal offsets (R379, R381); none without a partner. -/
def State.mirrorStores (s : State) (p : Part) (a : Nat) (bs : List PByte) : List Req :=
  match s.mirrorNode p.val with
  | some n => if (s.kpart p.val).mirrorLost then [] else (storeLines n 3 p (bs.length / 128 + 2) a bs).map plainReq
  | none => []

/-- A record's bytes: the header and the body, padded to 16 bytes (R395). -/
def recBytes (ty step seq : Nat) (body : List PByte) : List PByte :=
  let n := 16 + (body.length + 15) / 16 * 16
  clean (natLe 8 (ty + n / 16 * 2 ^ 8 + step * 2 ^ 32) ++ natLe 8 seq) ++ body ++
    clean (List.replicate (n - 16 - body.length) 0)

/-- Write bytes with their marks at a position of the journal ring, here and at the partner (R256). -/
def State.jrPut (s : State) (p : Part) (pos : Nat) (bs : List PByte) : State :=
  let a := s.jrBase p.val + pos % jrBytes
  let s := s.store a bs
  s.enqueue (s.mirrorStores p a bs)

/-- The position from which the three newest steps' records stand, the step `step` counted among them (R397). -/
def keptFrom (steps : List (W32 × Nat)) (step : W32) (head : Nat) : Nat :=
  let l := if steps.any fun e => e.1 == step then steps else steps ++ [(step, head)]
  (((l.reverse.take 3).getLast?).map (·.2)).getD head

/-- Append a record (R395 to R397): a PAD first when it would not fit before the end of the ring; not written, with
JGAP and EV_JOURNAL_FULL, when it would overwrite one of the three newest steps. SEQ is the number given, or the journal's
record count (assumption 33), which a PAD raises. -/
def State.journalWith (s : State) (p : Part) (ty : Nat) (step : W32) (seq : Option Nat) (body : List PByte) : State :=
  if !s.keeperOn p.val then s
  else
    let k := s.kpart p.val
    let room := jrBytes - k.jHead % jrBytes
    let pad := if 16 + (body.length + 15) / 16 * 16 ≤ room then 0 else room
    let count := k.jCount + (if pad = 0 then 0 else 1)
    let bs := recBytes ty step.toNat (seq.getD count) body
    let stop := k.jHead + pad + bs.length
    if keptFrom k.jSteps step k.jHead + jrBytes < stop then
      ((s.setBit (kprStatusOff p.val) 7).raise evJournalFull (some p) step.toNat).onKpart p.val fun k =>
        { k with jLost := (k.jLost.filter (· != step)) ++ [step] }
    else
      let s := if pad = 0 then s
        else s.jrPut p k.jHead (clean (natLe 8 (jrPad + pad / 16 * 2 ^ 8 + step.toNat * 2 ^ 32) ++ natLe 8 k.jCount))
      let pos := k.jHead + pad
      let s := s.jrPut p pos bs
      let s := s.onKpart p.val fun k =>
        { k with jHead := stop, jCount := count + 1,
                 jLost := if ty = jrSlots then k.jLost.filter (· != step) else k.jLost,
                 jSteps := if ty = jrSlots then (k.jSteps.filter fun e => e.1 != step) ++ [(step, pos)]
                   else if k.jSteps.any fun e => e.1 == step then k.jSteps else k.jSteps ++ [(step, pos)],
                 jRecs := (k.jRecs.filter fun r => decide (stop ≤ r.1 + jrBytes)) ++ [(pos, bs.length)] }
      s.pump

/-- Append a record whose SEQ is the journal's record count, of bytes without marks. -/
def State.journal (s : State) (p : Part) (ty : Nat) (step : W32) (body : List Byte) : State :=
  s.journalWith p ty step none (clean body)

/-- The CMD record of an accepted work command, with the 64-bit sequence (R395, R426). -/
def State.journalCmd (s : State) (p : Part) (words : List W64) (seq : Nat) : State :=
  s.journalWith p jrCmd (s.stepOf (some p)) (some ((s.kpart p.val).seqHi * 2 ^ 32 + seq))
    (clean (words.flatMap fun w => natLe 8 w.toNat))

/-- A record as it stands in the ring: type, step, SEQ and body. -/
structure JRec where
  ty   : Nat
  step : W32
  seq  : Nat
  body : List Byte
  deriving DecidableEq, Repr

/-- Read the record at a position. -/
def State.jrRead (s : State) (p : Nat) (pos n : Nat) : JRec :=
  let bs := plain (s.readMem (s.jrBase p + pos % jrBytes) n).1
  { ty := leNat (bs.take 1), step := BitVec.ofNat 32 (leNat ((bs.drop 4).take 4)), seq := leNat ((bs.drop 8).take 8),
    body := bs.drop 16 }

/-- What reading records counts and marks (R251, R253). -/
def State.jrLook (s : State) (p : Nat) (rs : List (Nat × Nat)) : State :=
  rs.foldl (fun s x => s.look (s.jrBase p + x.1 % jrBytes) x.2) s

/-- The positions of the records of a step and later, in journal order; none where the step's first record is not in
the ring. A repeated step's records stand from its latest SLOTS record on. -/
def State.jrFrom (s : State) (p : Nat) (step : W32) : List (Nat × Nat) :=
  let k := s.kpart p
  match k.jSteps.find? fun e => e.1 == step with
  | some (_, from_) =>
    if k.jRecs.any fun r => r.1 == from_ then k.jRecs.filter fun r => decide (from_ ≤ r.1) else []
  | none => []

/-- The newest step with a record. -/
def State.jrNewest (s : State) (p : Nat) : W32 := (((s.kpart p).jSteps.getLast?).map (·.1)).getD 0

end Sys2Proof.Machine
end

