-- ==== Sys2Proof/Machine/Kctl.lean ====
section
/-! DEFINITION. Keeper control packets (R407), and the comparison of step times among a group's modules (R366 to
R369, R373 to R375). -/

namespace Sys2Proof.Machine

/-! ## Control packets (R407) -/

/-- A KCTL payload: KIND, PARTITION, SUBJECT, STEP and what the kind carries. -/
def kctlBytes (kind p subject step : Nat) (body : List Byte) : List Byte :=
  natLe 1 kind ++ natLe 1 p ++ natLe 2 subject ++ natLe 4 step ++ body

/-- A class-3 KCTL request to a node. -/
def kctlPk (p : Part) (node kind subject step : Nat) (body : List Byte) : Packet :=
  pkWith { Packet.zero with dst := BitVec.ofNat 16 node, op := 0x14, tc := 3, part := p }
    (clean (kctlBytes kind p.val subject step body))

/-- Send a KCTL request; a message to the module itself does not enter the fabric. -/
def State.kctlSend (s : State) (p : Part) (node kind subject step : Nat) (body : List Byte) : State :=
  if s.here node then s else s.fabIssue [{ plainReq (kctlPk p node kind subject step body) with cont := .kctl }]

/-- KIND of a KCTL packet. -/
def kcKind (pk : Packet) : Nat := (pk.payload.headD 0).toNat
/-- PARTITION. -/
def kcPart (pk : Packet) : Part := Fin.ofNat 4 (pk.payload.getD 1 0).toNat
/-- SUBJECT. -/
def kcSubject (pk : Packet) : Nat := leNat ((pk.payload.drop 2).take 2)
/-- STEP. -/
def kcStep (pk : Packet) : W32 := BitVec.ofNat 32 (leNat ((pk.payload.drop 4).take 4))
/-- What follows the header. -/
def kcBody (pk : Packet) : List Byte := pk.payload.drop 8

/-! ## Slow but live members -/

/-- A partition's position in its group. -/
def State.position (s : State) (p : Nat) : Nat := s.ownNode p % 32

/-- The node at a position of a partition's group. -/
def State.groupNode (s : State) (p k : Nat) : Nat := s.ownNode p / 32 * 32 + k

/-- KPR_SLOW_PEERS with the module's own bit set (R374). -/
def State.slowMask (s : State) (p : Nat) : Nat :=
  let m := s.fld (kprSlowPeersOff p) 31 0
  if bitOf m (s.position p) then m else m + 2 ^ s.position p

/-- Positions of a mask. -/
def maskPositions (m : Nat) : List Nat := (List.range 32).filter (bitOf m)

/-- The partition is held, or begins to replay: the steps that wait for their evaluation, the step in force and those that
are replayed will not be evaluated (R367). -/
def State.slowMark (s : State) (p : Nat) (again : List W32) : State :=
  let marks := ((s.job p).plan.map (·.step)).toList ++ again
  s.onKpart p fun k =>
    let l := k.slowOwn.map fun e => (e.1, true)
    { k with slowOwn := l ++ (marks.filter fun st => !l.any fun e => e.1 == st).eraseDups.map fun st => (st, true) }

/-- The Keeper controller's notice of a slow module (R368) to its mirror partner and the masked positions: SLOW_TIME with
its node as SUBJECT (assumption 125). -/
def State.slowNotice (s : State) (p : Part) (step : W32) (u : Nat) : State :=
  let own := s.ownNode p.val
  let masked := (maskPositions (s.fld (kprSlowPeersOff p.val) 31 0)).map (s.groupNode p.val)
  ((s.mirrorNode p.val).toList ++ masked).eraseDups.foldl (fun s n => s.kctlSend p n 0x0E own step.toNat (natLe 8 u)) s

/-- The evaluation of a step from the own time and all times held (R367): MEDIAN, RUN and PRESENT; EV_SLOW_PEER, FLAGGED
and the notices at every STEPS-th consecutive slow one (R368), which are counted beyond the 255 where RUN stands. -/
def State.slowScore (s : State) (p : Part) (step : W32) (u : Nat) (us : List Nat) : State :=
  let o := kprSlowStatusOff p.val
  let m := (sortBy (fun a b => decide (a < b)) us).getD ((us.length - 1) / 2) 0
  let slow := decide (m * (100 + s.fld (kprSlowCtrlOff p.val) 23 16) < u * 100)
  let run := if slow then (s.kpart p.val).slowRun + 1 else 0
  let steps := Nat.max 1 (s.fld (kprSlowCtrlOff p.val) 15 8)
  let s := s.onKpart p.val fun k => { k with slowRun := run }
  let s := ((s.setFld o 63 32 m).setFld o 31 24 (Nat.min 255 run)).setFld o 23 18 us.length
  if run = 0 then s.setFld o 0 0 0
  else if run % steps = 0 then
    ((s.setBit o 0).raise evSlowPeer (some p) (s.ownNode p.val + step.toNat * 2 ^ 32) (u % 2 ^ 32 + m * 2 ^ 32)).slowNotice
      p step u
  else s

/-- Evaluate a step whose own time is held, once every masked position's record is, or at once when forced: skipped
with too few records, or when the partition was held or replayed meanwhile (R367). -/
def State.slowTry (s : State) (p : Part) (step : W32) (force : Bool) : State :=
  let k := s.kpart p.val
  let ps := maskPositions (s.slowMask p.val)
  let recs := k.slow.filter fun r => r.1 == step && ps.any fun i => decide (r.2.1.toNat = s.groupNode p.val i)
  match recs.find? fun r => decide (r.2.1.toNat = s.ownNode p.val) with
  | none => s
  | some own =>
    if recs.length < ps.length ∧ !force then s
    else
      let skip := decide (recs.length ≤ ps.length / 2) || k.slowOwn.any fun e => e.1 == step && e.2
      let s := s.onKpart p.val fun k =>
        { k with slow := k.slow.filter (fun r => r.1 != step), slowOwn := k.slowOwn.filter fun e => e.1 != step }
      if skip then s else s.slowScore p step own.2.2 (recs.map (·.2.2))

/-- Retain a record of a step; the first of a node stands. -/
def State.slowKeep (s : State) (p : Nat) (step : W32) (node : Node) (u : Nat) : State :=
  s.onKpart p fun k =>
    if k.slow.any fun r => r.1 == step && r.2.1 == node then k else { k with slow := k.slow ++ [(step, node, u)] }

/-- A step of the partition has closed (R366): its own time goes to every masked position. -/
def State.slowClose (s : State) (p : Part) (step : W32) (u : Nat) : State :=
  if !s.bit (kprSlowCtrlOff p.val) 0 then s
  else
    let s := s.slowKeep p.val step (BitVec.ofNat 16 (s.ownNode p.val)) u
    let s := s.onKpart p.val fun k =>
      { k with slowOwn := if k.slowOwn.any fun e => e.1 == step then k.slowOwn else k.slowOwn ++ [(step, false)] }
    let ks := (maskPositions (s.fld (kprSlowPeersOff p.val) 31 0)).filter (· != s.position p.val)
    let s := ks.foldl (fun s k => s.kctlSend p (s.groupNode p.val k) 0x0E 0 step.toNat (natLe 8 u)) s
    s.slowTry p step false

/-- The STEP_PLAN of a step is accepted (R367): the step two before it is evaluated with what is held, and older
records are dropped. -/
def State.slowForce (s : State) (p : Part) (step : W32) : State :=
  let s := s.slowTry p (step - 2) true
  let old := fun (x : W32) => decide (2 ≤ (step - x).toNat) && decide ((step - x).toNat < 2 ^ 31)
  s.onKpart p.val fun k =>
    { k with slow := k.slow.filter (fun r => !old r.1), slowOwn := k.slowOwn.filter fun e => !old e.1 }

end Sys2Proof.Machine
end

