-- ==== Sys2Proof/Machine/Issue.lean ====
section
/-! DEFINITION. What holds back the issue of engine work: the ranking of the throttle levels (R471, R477, R357), stretched
clocks (R475), and engines that a TENDER command has yielded (R356). -/

namespace Sys2Proof.Machine

/-- A partition's role is TENDER (R355). -/
def State.tender (s : State) (p : Nat) : Bool := s.bit (cmdPartRoleOff p) 0

/-- A command is of a TENDER partition. -/
def State.isTender (s : State) (c : CmdId) : Bool := s.tender c.p

/-- Partition p comes before q in the grants of an engine (R355, R356): PRIMARY before TENDER, then round-robin from the
partition after the one last granted. -/
def State.grantBefore (s : State) (e p q : Nat) : Bool :=
  let turn := fun i => (i + 3 - (keyGet s.grants e).getD 3) % 4
  if s.tender p != s.tender q then s.tender q else decide (turn p < turn q)

/-- A pair of R471: whether the role is TENDER, and the energy class of R470 (3 HEAVY, 2 MEDIUM). -/
abbrev RolePair := Bool × Nat

/-- The pairs in their ranks, first withheld first (R471). -/
def rolePairs : List RolePair := [(true, 3), (true, 2), (false, 3), (false, 2)]

/-- The pair of a command. -/
def State.pairOf (s : State) (x : Cmd) : RolePair := (s.isTender x.id, x.energy)

/-- A command whose work the matrix or the vector engines do. -/
def engineOps : List Nat := [0x20, 0x21, 0x27]

/-- A pair has engine work pending: a command of it that is not complete (assumption 123). -/
def State.pairPending (s : State) (q : RolePair) : Bool :=
  s.cmds.any fun x => engineOps.contains x.opcode && decide (x.phase ≠ .ended) && decide (s.pairOf x = q)

/-- How many of every 64 issue cycles a level withholds from a pair: min(64, max(0, L − 64 i)) at remaining rank i, none
from a pair outside the ranking (R471). -/
def State.withheldAt (s : State) (level : Nat) (q : RolePair) : Nat :=
  match (rolePairs.filter s.pairPending).findIdx? (· == q) with
  | some i => Nat.min 64 (level - 64 * i)
  | none => 0

/-- What the cap withholds from a command's engine work (R471, R485). -/
def State.capHeld (s : State) (x : Cmd) : Nat := s.withheldAt (s.fld pwrLevelOff 8 0) (s.pairOf x)

/-- What the thermal level withholds (R477). -/
def State.thermHeld (s : State) (x : Cmd) : Nat := s.withheldAt (s.fld pwrLevelOff 24 16) (s.pairOf x)

/-- What is withheld: the larger of the two fractions (R477). -/
def State.withheld (s : State) (x : Cmd) : Nat := Nat.max (s.capHeld x) (s.thermHeld x)

/-- Of `n` issue cycles of a command, the cycles that thermal throttling and the capping loop add (R471, R474): a cycle that
both withhold is thermal. -/
def State.heldCycles (s : State) (x : Cmd) (n : Nat) : Nat × Nat :=
  let w := s.withheld x
  let all := n * w / (64 - w)
  let hot := n * s.thermHeld x / (64 - w)
  (hot, all - hot)

/-- The command has yielded an engine that it has not got back (R356). -/
def State.hasYielded (s : State) (c : CmdId) : Bool := s.yielded.any fun e => e.2 == c

/-- Some issue cycle is left to a command's engine work, and it holds its engines (R356, R471). -/
def State.mayIssue (s : State) (x : Cmd) : Bool := decide (s.withheld x < 64) && !s.hasYielded x.id

/-- A matrix engine's clock is stretched on droop (R475). -/
def State.meStretched (s : State) (e : Nat) : Bool :=
  s.power.stretched.any fun i => match i with
    | .matrix m => decide (m.val = e)
    | _ => false

/-- A vector engine's clock is stretched. -/
def State.veStretched (s : State) (v : Nat) : Bool :=
  s.power.stretched.any fun i => match i with
    | .vector u => decide (u.val = v)
    | _ => false

end Sys2Proof.Machine
end

