-- ==== Sys2Proof/Machine/Lists.lean ====
section
/-! DEFINITION. Micro-op lists: their layout (R100 to R102), the checks of R105, R126 and R140, running a
list over its segments and engines (R99, R109, R111, R112), and RUN_VECTOR with the start of an update
program (R138). -/

namespace Sys2Proof.Machine

/-- The op of an opcode (R106); the other codes are reserved. -/
def opTable (c : Nat) : Option OpSem :=
  match c with
  | 0x00 => some opNop
  | 0x01 => some opLoad
  | 0x02 => some opStore
  | 0x03 => some opMov
  | 0x04 => some opConst
  | 0x05 => some opBcast
  | 0x06 => some opIdx
  | 0x08 => some opAdd
  | 0x09 => some opSub
  | 0x0A => some opMul
  | 0x0B => some opDiv
  | 0x0C => some opFma
  | 0x0D => some opFms
  | 0x0E => some opFnma
  | 0x0F => some opSqrt
  | 0x10 => some opRsqrt
  | 0x11 => some opAbs
  | 0x12 => some opNeg
  | 0x13 => some opCopysign
  | 0x14 => some opMin
  | 0x15 => some opMax
  | 0x16 => some opMinnum
  | 0x17 => some opMaxnum
  | 0x18 => some opScaleb
  | 0x19 => some opRint
  | 0x1A => some opCmp
  | 0x1B => some opSel
  | 0x20 => some (opTrans .exp)
  | 0x21 => some (opTrans .exp2)
  | 0x22 => some (opTrans .log)
  | 0x23 => some (opTrans .log2)
  | 0x24 => some (opTrans .sin)
  | 0x25 => some (opTrans .cos)
  | 0x26 => some (opTrans .tanh)
  | 0x27 => some (opTrans .sigmoid)
  | 0x28 => some (opTrans .erf)
  | 0x2C => some opIadd
  | 0x2D => some opIsub
  | 0x2E => some opImul
  | 0x2F => some opAnd
  | 0x30 => some opOr
  | 0x31 => some opXor
  | 0x32 => some opShl
  | 0x33 => some opShr
  | 0x34 => some opSar
  | 0x35 => some opCvt
  | 0x38 => some (opReduce 0x38)
  | 0x39 => some (opReduce 0x39)
  | 0x3A => some (opReduce 0x3A)
  | 0x3B => some (opReduce 0x3B)
  | 0x3C => some (opReduce 0x3C)
  | 0x3D => some (opReduce 0x3D)
  | _ => none

/-- A list op: its opcode, its fields and whether its reserved bit is clear (R102). -/
structure ListOp where
  code : Nat
  u    : MicroOp
  ok   : Bool
  deriving DecidableEq, Repr

/-- Read an op word (R102). -/
def ListOp.ofWord (w : Nat) : ListOp :=
  let b := BitVec.ofNat 64 w
  { code := bitsOf w 63 58, ok := !bitOf w 32,
    u := { t := b.extractLsb' 56 2, d := (b.extractLsb' 52 4).toFin, a := (b.extractLsb' 48 4).toFin,
           b := (b.extractLsb' 44 4).toFin, c := (b.extractLsb' 40 4).toFin, ovr := bitOf w 39,
           rnd := b.extractLsb' 36 3, s := (b.extractLsb' 33 3).toFin, imm := b.setWidth 32 } }

/-- Read a stream descriptor from its 24 bytes (R101). -/
def VStream.ofRaw (r : Nat) : VStream :=
  { ptr := BitVec.ofNat 64 r, stride := bitsOf r 95 64, fmt := bitsOf r 99 96, mode := bitsOf r 101 100,
    out := bitOf r 102, inf := bitOf r 103, amax := bitOf r 104, rsvd := bitsOf r 111 105,
    slot := bitsOf r 127 112, scPtr := BitVec.ofNat 64 (r >>> 128) }

/-- Read a list header from its 320 bytes (R100). -/
def VHeader.ofRaw (r : Nat) : VHeader :=
  { n := bitsOf r 63 0, seg := bitsOf r 95 64, ops := bitsOf r 102 96, rnd := bitsOf r 105 103,
    update := bitOf r 106, stream := bitsOf r 155 128, redPtr := BitVec.ofNat 64 (r >>> 192),
    redInit := BitVec.ofNat 8 (r >>> 256), idxBase := BitVec.ofNat 64 (r >>> 320),
    streams := (List.range 8).map fun i => VStream.ofRaw (bitsOf r (512 + 192 * i + 191) (512 + 192 * i)),
    consts := (List.range 16).map fun i => BitVec.ofNat 32 (r >>> (2048 + 32 * i)),
    rsvd := decide (bitsOf r 127 107 ≠ 0) || decide (bitsOf r 191 156 ≠ 0) || decide (bitsOf r 319 264 ≠ 0) ||
      decide (bitsOf r 511 384 ≠ 0) }

/-- A list as read from memory. -/
structure VList where
  hdr : VHeader
  ops : List ListOp
  deriving DecidableEq, Repr

/-- Read the list at a local offset (R100). -/
def State.readList (s : State) (a : Nat) : VList :=
  let h := VHeader.ofRaw (s.peek a 320)
  ⟨h, (List.range h.ops).map fun i => ListOp.ofWord (s.peek (a + 0x140 + 8 * i) 8)⟩

/-- T is allowed for the opcode (R106). -/
def typeAllowed (code t : Nat) : Bool :=
  if code ≤ 5 ∨ code = 0x1A ∨ code = 0x1B ∨ code = 0x35 then true
  else if code = 6 then t == 3
  else if 0x08 ≤ code ∧ code ≤ 0x19 then decide (t < 2)
  else if 0x20 ≤ code ∧ code ≤ 0x28 then t == 0
  else if 0x2C ≤ code ∧ code ≤ 0x34 then decide (2 ≤ t)
  else decide (t < 2)

/-- The opcode is one of R106. -/
def knownOp (code : Nat) : Bool := (opTable code).isSome

/-- The rounding code is accepted at the op's site (R26, R96, R106). Ops that round nothing accept any: `unscaled` says
that the op's stream has σ = 0. -/
def roundAllowed (h : VHeader) (o : ListOp) (master unscaled : Bool) : Bool :=
  let m := if o.u.ovr then o.u.rnd.toNat else h.rnd
  let st := h.streamAt o.u.s.val
  let ft := o.u.imm.toNat % 4
  let fpRes := (0x08 ≤ o.code ∧ o.code ≤ 0x10) ∨ o.code = 0x18 ∨ (0x20 ≤ o.code ∧ o.code ≤ 0x28)
  if fpRes then decide (m ≤ 5)
  else if o.code = 0x19 then decide (m ≤ 5) && decide (m ≠ 2)
  else if o.code = 0x35 then
    if ft = o.u.t.toNat then true else if o.u.t.toNat < 2 then decide (m ≤ 5)
    else if ft < 2 then decide (m ≤ 2) else true
  else if o.code = 1 then
    if o.u.t.toNat < 2 then decide (m ≤ 5) else if st.format.isInt && unscaled then true else decide (m ≤ 2)
  else if o.code = 2 then
    if master then true else if st.format.ieee then decide (m ≤ 5) else decide (m ≤ 2)
  else true

/-- An op's own checks (R105, R108, R140): `kinds i` is the KIND of stream i's slot (9 for none), `unscaled i` that its σ
is 0. -/
def opAllowed (h : VHeader) (kinds : Nat → Nat) (unscaled : Nat → Bool) (o : ListOp) : Bool :=
  let st := h.streamAt o.u.s.val
  let master := kinds o.u.s.val == 1
  knownOp o.code && o.ok && typeAllowed o.code o.u.t.toNat &&
  (!o.u.ovr || decide (o.u.rnd.toNat ≤ 5)) &&
  (if o.code = 1 ∨ o.code = 2 then decide (st.mode ≠ 3) else true) &&
  (if o.code = 2 then st.out && decide (st.mode = 0) && (!master || h.update) else true) &&
  (if o.code = 0x1A then
    decide (o.u.imm.toNat % 8 ≠ 7) && (decide (2 ≤ o.u.t.toNat) || decide (o.u.imm.toNat % 8 < 5)) else true) &&
  roundAllowed h o master (unscaled o.u.s.val)

/-- A pointer's node field is 0 or this module's (R543). -/
def ptrHere (own : Nat) (v : Nat) : Bool := decide (v / 2 ^ 48 = 0) || decide (v / 2 ^ 48 = own)

/-- A stream descriptor's own checks (R15, R101, R105, R543), for an UNUSED stream too. -/
def streamAllowed (h : VHeader) (own : Nat) (st : VStream) : Bool :=
  decide (st.rsvd = 0) && (Fmt.ofCode st.fmt).isSome && decide (st.fmt ≠ 8) && ptrHere own st.ptr.toNat &&
  (decide (st.fmt ≠ 6) || ptrHere own st.scPtr.toNat) && (!st.out || decide (st.mode = 0)) &&
  (decide (st.fmt ≠ 6) || decide (st.mode ≠ 0) || decide (h.segLen % 32 = 0))

/-- The list stores to stream `i`. -/
def storesTo (ops : List ListOp) (i : Nat) : Bool := ops.any fun o => o.code == 2 && o.u.s.val == i

/-- What a stored stream `i` asks of the list when it names a MASTER slot with contents `r` (R140, R142): N elements, and
with DRIFT a load before the store and a local shadow (R543). -/
def masterAllowed (h : VHeader) (own : Nat) (ops : List ListOp) (i : Nat) (r : SlotRaw) : Bool :=
  decide (slElements r = h.n) &&
  (!slDrift r || (ptrHere own (slDriftPtr r) &&
    decide ((ops.findIdx fun o => o.code == 1 && o.u.s.val == i) < (ops.findIdx fun o => o.code == 2 && o.u.s.val == i))))

/-- The header's own checks (R105, R140): reserved bits, ranges, streams, and what a MASTER output stream asks of the
list; `slots i` are the contents of stream i's slot. -/
def headerAllowed (h : VHeader) (own : Nat) (kinds : Nat → Nat) (slots : Nat → SlotRaw) (ops : List ListOp) : Bool :=
  let accs := (ops.filter fun o => decide (0x38 ≤ o.code)).map fun o => o.u.imm.toNat % 8
  decide (1 ≤ h.n) && decide (h.n ≤ 2 ^ 34) && decide (1 ≤ h.ops) && decide (h.ops ≤ 64) &&
  decide (h.rnd ≤ 5) && decide (h.stream + 63 ≤ 2 ^ 28 - 1) && !h.rsvd && ptrHere own h.redPtr.toNat && accs.Nodup &&
  ((List.range 8).all fun i =>
    streamAllowed h own (h.streamAt i) &&
    (!storesTo ops i || decide (kinds i ≠ 1) || masterAllowed h own ops i (slots i)))

/-- The slots a list names: those of its used streams (R126). -/
def VList.slots (l : VList) : List Nat :=
  ((l.hdr.streams.filter fun st => st.mode != 3).map (·.slot)).filter (· != 0xFFFF)

/-- The slots a list writes. -/
def VList.outSlots (l : VList) : List Nat :=
  ((l.hdr.streams.filter fun st => st.mode != 3 && st.out).map (·.slot)).filter (· != 0xFFFF)

/-- The KIND of a stream's slot; 9 where it names none. -/
def State.kindOf (s : State) (p : Nat) (h : VHeader) (i : Nat) : Nat :=
  let sl := (h.streamAt i).slot
  if sl = 0xFFFF ∨ (h.streamAt i).mode = 3 then 9 else slKind (s.slot p sl)

/-- What the checks before a list's first element find. -/
inductive ListCheck where
  | ok
  | malformed (index : Nat)
  | poison (addr : Nat)
  | bounds (addr : Nat)
  deriving DecidableEq, Repr

/-- Number of segments. -/
def VHeader.segs (h : VHeader) : Nat := (h.n + h.segLen - 1) / h.segLen

/-- The bytes of a stream's segment. -/
def VStream.segBytes (st : VStream) (n : Nat) : Nat :=
  if st.mode ≠ 0 then Nat.max 1 st.format.bytes
  else if st.format = .g4 then (n + 1) / 2 else n * st.format.bytes

/-- The first byte of a used stream or of a record outside the partition's regions, if any: streams in order,
then records (R112). -/
def State.listBounds (s : State) (p : Nat) (l : VList) : Option Nat :=
  let h := l.hdr
  let used := (List.range 8).filter fun i =>
    l.ops.any fun o => (o.code == 1 || o.code == 2) && o.u.s.val == i
  let streams := used.findSome? fun i =>
    let st := h.streamAt i
    (List.range (if st.mode = 2 then 1 else h.segs)).findSome? fun g =>
      let (a, sca) := st.addr h g 0
      (s.refused p a (st.segBytes (h.segSize g))).or
        (if st.format = .g4 then s.refused p sca (if st.mode = 0 then (h.segSize g + 31) / 32 else 1) else none)
  let recs := if l.ops.any fun o => decide (0x38 ≤ o.code) then
      s.refusedGal p (h.redPtr.toNat % 2 ^ 48) (h.segs * 256)
    else none
  streams.or recs

/-- What reading a list at a local offset and the slots it names counts and marks. -/
def State.lookList (s : State) (p a : Nat) (l : VList) : State := (s.look a (0x140 + 8 * l.hdr.ops)).lookSlots p l.slots

/-- What reading the starting records of a list counts and marks (R109). -/
def State.lookRecords (s : State) (l : VList) : State :=
  let accs := ((l.ops.filter fun o => decide (0x38 ≤ o.code)).map fun o => o.u.imm.toNat % 8).filter fun a =>
    l.hdr.redInit.getLsbD a
  if accs.isEmpty then s
  else (List.range l.hdr.segs).foldl (fun s g =>
    accs.foldl (fun s a => s.look (l.hdr.redPtr.toNat % 2 ^ 48 + (g * 8 + a) * 32) 32) s) s

/-- The checks before a list's first element, in their order: the slots' poison, the list and its slots
(R105, R126), then the regions (R112). -/
def State.checkList (s : State) (p : Nat) (l : VList) : ListCheck :=
  let h := l.hdr
  match s.checkSlots p l.slots with
  | .poison a => .poison a
  | .malformed => .malformed detailPacket
  | .ok =>
    let sl := fun i => s.slot p (h.streamAt i).slot
    if !headerAllowed h (s.ownNode p) (s.kindOf p h) sl l.ops then .malformed detailPacket
    else
      match l.ops.findIdx? fun o => !opAllowed h (s.kindOf p h) (fun i => s.sigmaOf p (h.streamAt i).slot == 0) o with
      | some i => .malformed i
      | none =>
        match s.listBounds p l with
        | some a => .bounds a
        | none => .ok

/-! ## Running -/

/-- Why a segment stopped: ST_POISON or ST_BOUNDS with the local offset. -/
abbrev Stop := Nat × Nat

/-- The ops of a list with their meanings. -/
def VList.prog (l : VList) : List (OpSem × MicroOp) :=
  l.ops.filterMap fun o => (opTable o.code).map fun f => (f, o.u)

/-- Run the list for one element. -/
def runElem (prog : List (OpSem × MicroOp)) (v : Nat) (l : Lane) (s : State) : Lane × State :=
  prog.foldl (fun ls fu => laneStep fu.1 v fu.2 ls.1 ls.2) (l, s)

/-- What the lane stopped at. -/
def Lane.stop (l : Lane) : Option Stop :=
  match l.bitten with
  | some a => some (stPoison, a)
  | none => l.refused.map fun a => (stBounds, a)

/-- The next element's lane: registers cleared, what the segment has gathered kept. -/
def Lane.next (l : Lane) (e g j : Nat) : Lane :=
  { Lane.fresh l.hdr l.part e g j with flags := l.flags, leaves := l.leaves, drift := l.drift, g4 := l.g4 }

/-- Run the elements of one iteration, positions j to j + n − 1 of segment g: every lane runs, and the first
stop is kept (R112). -/
def runIter (prog : List (OpSem × MicroOp)) (v g : Nat) :
    Nat → Nat → Lane × State × Option Stop → Lane × State × Option Stop
  | 0, _, r => r
  | n + 1, j, (l, s, st) =>
    let (l, s) := runElem prog v (l.next (g * l.hdr.segLen + j) g j) s
    runIter prog v g n (j + 1) (l, s, st.or l.stop)

/-- Run the iterations of a segment, 512 elements each (R95), until one stops; VE_ITERS counts those completed
(R124). -/
def runIters (prog : List (OpSem × MicroOp)) (v g size : Nat) :
    Nat → Nat → Lane × State → Lane × State × Option Stop
  | 0, _, (l, s) => (l, s, none)
  | k + 1, j, (l, s) =>
    if size ≤ j then (l, s, none)
    else
      let (l, s, st) := runIter prog v g (Nat.min 512 (size - j)) j (l, s, none)
      let s := s.count (veItersOff (v / 2) (v % 2))
      match st with
      | some x => (l, s, some x)
      | none => runIters prog v g size k (j + 512) (l, s)

/-- One accumulator's result for a segment: the tree of R109, after its starting record when RED_INIT asks for
it; the starting record's poison bites at that combination. -/
def segRecord (s0 : State) (h : VHeader) (g : Nat) (leaves : List Leaf) (a : Nat) :
    Option (Except Nat (Red × Flags)) :=
  let ls := leaves.filter (·.acc == a)
  match ls with
  | [] => none
  | x :: _ =>
    match RedOp.ofCode x.op with
    | none => none
    | some o =>
      let f := if x.fp64 then Fmt.fp64 else Fmt.fp32
      let (r, fl) := reduceTree o f 64 (ls.map fun y => ⟨y.v.toNat, y.w.toNat, y.n⟩)
      if h.redInit.getLsbD a then
        let ra := h.redPtr.toNat % 2 ^ 48 + (g * 8 + a) * 32
        let bs := (s0.readMem ra 32).1
        if anyPoison bs then some (.error ra)
        else
          let (r, fl') := comb o f (Red.ofBytes (plain bs)) r
          some (.ok (r, fl ||| fl'))
      else some (.ok (r, fl))

/-- The type of an accumulator's record: its op, and 64 more in FP64. -/
def recType (leaves : List Leaf) (a : Nat) : Nat :=
  match leaves.find? (·.acc == a) with
  | some x => x.op + if x.fp64 then 64 else 0
  | none => 0

/-- Write a segment's records after its last element (R111); none when a starting record is poisoned. -/
def writeRecords (s0 : State) (v g : Nat) (l : Lane) (s : State) : Lane × State × Option Stop :=
  let rs := (List.range 8).filterMap fun a => (segRecord s0 l.hdr g l.leaves a).map fun r => (a, r)
  match rs.findSome? fun (_, r) => match r with
      | .error a => some a
      | .ok _ => none with
  | some a => (l, s, some (stPoison, a))
  | none =>
    let ty := recType l.leaves
    let (l, s) := rs.foldl (fun (l, s) (a, r) =>
      match r with
      | .error _ => (l, s)
      | .ok (r, fl) =>
        let ra := l.hdr.redPtr.toNat % 2 ^ 48 + (g * 8 + a) * 32
        let s := s.storeP l.part.val ra (clean r.bytes)
        raiseFlags v fl (l, { s with recTypes := keySet s.recTypes ra (ty a) })) (l, s)
    (l, s, none)

/-- Run one segment on engine `v`: its elements, then its records. -/
def runSegment (s0 : State) (prog : List (OpSem × MicroOp)) (v g : Nat) (l : Lane) (s : State) :
    Lane × State × Option Stop :=
  let size := l.hdr.segSize g
  let l := { l with leaves := [], g4 := [] }
  let (l, s, st) := runIters prog v g size (size / 512 + 1) 0 (l, s)
  match st with
  | some x => (l, s, some x)
  | none => writeRecords s0 v g l s

/-- What a run of a list has come to: the state, the flags, the drift samples, and the faults met with their
segment and engine. -/
structure RunOut where
  st     : State
  flags  : Flags
  drift  : List (Nat × Nat × Option Rat)
  faults : List (Stop × Nat × Nat)

/-- The engines of the mask run their r-th segments; the run goes on to the next round while none has stopped
(R99, R112; the engines are taken to keep step segment by segment, assumption 25). -/
def runRounds (s0 : State) (l : VList) (p : Part) (engines : List Nat) : Nat → Nat → RunOut → RunOut
  | 0, _, o => o
  | k + 1, r, o =>
    if o.faults ≠ [] then o
    else
      let g := l.hdr.segs
      let e := engines.length
      let o := engines.zipIdx.foldl (fun o (v, q) =>
        let seg := q * g / e + r
        if seg < (q + 1) * g / e then
          let (ln, s, st) := runSegment s0 l.prog v seg (Lane.fresh l.hdr p 0 seg 0) o.st
          let s := (s.setLane v ln).setFld (veStatusOff (v / 2) (v % 2)) 5 0 (l.ops.length - 1)
          { st := s, flags := o.flags ||| ln.flags, drift := o.drift ++ ln.drift,
            faults := o.faults ++ (match st with
              | some x => [(x, seg, v)]
              | none => []) }
        else o) o
      runRounds s0 l p engines k (r + 1) o

/-- The first fault in the order of R63 and R78: poison before bounds, then the lowest segment. -/
def firstFault (fs : List (Stop × Nat × Nat)) : Option (Stop × Nat × Nat) :=
  let ps := fs.filter fun f => f.1.1 == stPoison
  let cand := if ps.isEmpty then fs else ps
  cand.foldl (fun b f => match b with
    | none => some f
    | some g => if f.2.1 < g.2.1 then some f else some g) none

/-- Put a drift sample in its place by ascending tensor index (R142). -/
def insertDrift (x : Nat × Option Rat) : List (Nat × Option Rat) → List (Nat × Option Rat)
  | [] => [x]
  | y :: t => if x.1 < y.1 then x :: y :: t else y :: insertDrift x t

/-- The RN FP64 sum of drifts, in order (R142). -/
def driftSum (ds : List Rat) : Nat :=
  ds.foldl (fun a d =>
    rnCode .fp64 (.ofRat ((Fmt.fp64.decode a).rat + (Fmt.fp64.decode (rnCode .fp64 (.ofRat d))).rat))) 0

/-- The drift fields of a slot after an update (R142): the largest drift, the sum in ascending tensor index, the number of
samples; DRIFT_INIT is cleared. A sample that is no number leaves the first two open (assumption 121). -/
def State.putDrift (s : State) (p i : Nat) (samples : List (Nat × Option Rat)) : State :=
  let ds := (samples.foldl (fun l x => insertDrift x l) []).map (·.2)
  let n := ds.length
  let (most, sum) :=
    if ds.all (·.isSome) then
      let qs := ds.filterMap id
      (rnCode .fp32 (.ofRat ((qs.map fun q => if q < 0 then -q else q).foldl max 0)), driftSum qs)
    else (Config.driftOpen false i n % 2 ^ 32, Config.driftOpen true i n % 2 ^ 64)
  let r := s.slot p i
  let s := s.slotPut p i 0x28 4 most
  let s := s.slotPut p i 0x2C 4 n
  let s := s.slotPut p i 0x30 8 sum
  s.slotPut p i 4 1 (setBits (bitsOf r 39 32) 7 7 0)

/-- The MASTER slots that a list's stores have rewritten (R140). -/
def State.mastersOf (s : State) (p : Nat) (l : VList) : List Nat :=
  (((List.range 8).filter (storesTo l.ops)).map fun i => (l.hdr.streamAt i).slot).eraseDups.filter fun i =>
    i != 0xFFFF && slKind (s.slot p i) == 1

/-- The end of a run: a MASTER slot that the list has rewritten takes SIGMA_PEND, and its drift fields (R140, R142). -/
def State.masterDone (s : State) (p : Nat) (l : VList) (drift : List (Nat × Nat × Option Rat)) : State :=
  (s.mastersOf p l).foldl (fun s i =>
    let r := s.slot p i
    let s := s.setSigma p i (slPend r)
    if slDrift r then s.putDrift p i ((drift.filter fun d => d.1 == i).map (·.2)) else s) s

/-- The bits set in a mask. -/
def maskBits (w m : Nat) : List Nat := (List.range w).filter (bitOf m)

/-- A vector engine's status (R122): STATE, with the partition of its command. -/
def State.veState (s : State) (v st : Nat) (p : Part) : State :=
  (s.setFld (veStatusOff (v / 2) (v % 2)) 29 28 p.val).setFld (veStatusOff (v / 2) (v % 2)) 31 30 st

/-- The same status for the engines of a mask. -/
def State.veStates (s : State) (engines : List Nat) (st : Nat) (p : Part) : State :=
  engines.foldl (fun s v => s.veState v st p) s

/-- Run a checked list for a command on the engines of a mask: outputs, records, flags, errors and faults. The
answer is the fault that decides, if any. An engine that faulted stays in FAULT until the command's completion is posted;
the others are idle (R63, R122). -/
def State.runList (s : State) (p : Part) (l : VList) (engines : List Nat) : State × Flags × Option Stop :=
  let o := runRounds s l p engines (l.hdr.segs + 1) 0 ⟨s.lookRecords l, 0, [], []⟩
  let s := o.faults.foldl (fun s f =>
    let v := f.2.2
    let s := if f.1.1 = stPoison then (s.setBit (veErrOff (v / 2) (v % 2)) 2).bite p blkVe f.1.2 else s
    s.veState v 3 p) (o.st.veStates engines 0 p)
  match firstFault o.faults with
  | some f => (s, o.flags, some f.1)
  | none => (s.masterDone p.val l o.drift, o.flags, none)

/-- VE_ERR of the lowest vector engine of a mask, or of L0.VE0 (R545): set a bit. -/
def State.veErr (s : State) (engines : List Nat) (b : Nat) : State :=
  let v := engines.headD 0
  s.setBit (veErrOff (v / 2) (v % 2)) b

/-- A command ends as malformed with a vector-engine error (R545). -/
def State.veMalformed (s : State) (c : CmdId) (engines : List Nat) (ix : Nat) : State :=
  (s.veErr engines 0).endCmd c stMalformed ix

/-- A command ends with ST_BOUNDS at a local offset, DFORM 0 (R434). -/
def State.endBounds (s : State) (c : CmdId) (a : Nat) : State := s.endCmd c stBounds (s.globalOf c.p a).toNat

/-- A command ends with ST_POISON at a local offset (R434). -/
def State.endPoison (s : State) (c : CmdId) (a : Nat) : State := s.endCmd c stPoison (s.globalOf c.p a).toNat

/-- The module bites a poisoned slot that a command names (R126, R257). -/
def State.slotBite (s : State) (c : CmdId) (a : Nat) : State := (s.bite c.part blkCmd a).endPoison c a

/-- Run a list for RUN_VECTOR: the checks, the run, the command's end. -/
def State.runVectorList (s : State) (c : CmdId) (l : VList) (engines : List Nat) : State :=
  match s.checkList c.p l with
  | .poison a => s.slotBite c a
  | .malformed i => s.veMalformed c engines i
  | .bounds a => (s.veErr engines 1).endBounds c a
  | .ok =>
    let (s, fl, st) := s.runList c.part l engines
    let s := s.onCmd c fun x => { x with flags := x.flags ||| fl, slots := l.outSlots }
    match st with
    | none => s.issued c 0
    | some (k, a) => s.endCmd c k (s.globalOf c.p a).toNat

/-- The gate outcome an update program takes (R138): the factor and g to run with, or the status that ends it; in the
replay of REPLAY_STEP every one is skipped (R404). -/
def State.gateFor (s : State) (p : Nat) : Except Nat (W32 × W32) :=
  if (s.kpart p).diag then .error stSkipped
  else match (s.job p).gate with
  | none => .error stNoGate
  | some g => if g.outcome = 1 ∨ g.outcome = 2 then .ok (g.factor, g.g) else .error stSkipped

/-- An UPDATE_GATE of the ring before the command has not completed (R138). -/
def State.gatePending (s : State) (c : CmdId) : Bool :=
  s.cmds.any fun x => x.id.func == c.func && x.id.ring == 0 && x.opcode == 0x26 && x.phase != .ended &&
    decide ((c.seq - x.id.seq).toNat < 2 ^ 31) && x.id != c

/-- The list of RUN_VECTOR with the gate's factor and norm in C[15] and C[14] (R138). -/
def VList.withGate (l : VList) (factor g : W32) : VList :=
  { l with hdr := { l.hdr with consts := (l.hdr.consts.set 15 factor).set 14 g } }

/-- RUN_VECTOR's list is an update program: it takes the gate's outcome and runs, or ends (R138). -/
def State.startUpdateList (s : State) (c : CmdId) (l : VList) (engines : List Nat) : State :=
  match s.gateFor c.p with
  | .error st => s.endCmd c st
  | .ok (f, g) => s.runVectorList c (l.withGate f g) engines

/-- The list and the engines that a RUN_VECTOR packet names, or the way the command ends (R435, R99). -/
def State.vectorArgs (s : State) (x : Cmd) : Except (State → State) (VList × List Nat) :=
  let c := x.id
  let engines := maskBits 16 (x.par 1)
  match s.localPtr c.p (x.par 0) with
  | none => .error fun s => s.badPacket c
  | some a =>
    if x.par 0 % 128 ≠ 0 ∨ 2 ^ 16 ≤ x.par 1 ∨ engines = [] ∨ !unusedZero x 2 then
      .error fun s => s.badPacket c
    else
      let l := s.readList a
      match s.refusedGal c.p a (0x140 + 8 * l.hdr.ops) with
      | some b => .error fun s => (s.veErr engines 1).endBounds c b
      | none => .ok (l, engines)

/-- RUN_VECTOR (R99): run the list, or, for an update program whose gate has not completed, wait for
UPDATE_PROGRAM_START with the engines in WAIT. While throttling withholds every iteration, or an engine is yielded, the
list does not run (R356, R471). -/
def execRunVector (c : CmdId) (s : State) : Host.Outcome State Fault Refusal :=
  match s.starting c 0x21 with
  | none => .next s
  | some x =>
    if !s.mayIssue x then .next (s.veStates (maskBits 16 (x.par 1)) 2 c.part)
    else match s.vectorArgs x with
    | .error f => .next (f s)
    | .ok (l, engines) =>
      let s := s.lookList c.p (x.par 0 % 2 ^ 48) l
      if l.hdr.update then
        if s.gatePending c then .next (s.veStates engines 2 c.part) else .next (s.startUpdateList c l engines)
      else .next (s.runVectorList c l engines)

end Sys2Proof.Machine
end

