-- ==== Sys2Proof/Machine/Router.lean ====
section
/-! DEFINITION. Fabric links and deflection routing (R313 to R353): frames, ports, and the router's slot. -/

namespace Sys2Proof.Machine

/-! ## Frames -/

/-- The header bits of a packet as a number, less CHECK (R321). -/
def headerNat (pk : Packet) : Nat :=
  let b := fun (x : Bool) => if x then 1 else 0
  pk.dst.toNat + pk.src.toNat * 2 ^ 16 + pk.op.toNat * 2 ^ 32 + pk.tc.val * 2 ^ 38 + pk.part.val * 2 ^ 40 +
    pk.age.toNat * 2 ^ 42 + pk.hops.toNat * 2 ^ 52 + b pk.epoch * 2 ^ 57 + b pk.fog * 2 ^ 58 + b pk.echo * 2 ^ 59 +
    pk.code.toNat * 2 ^ 60 + pk.ctx.toNat * 2 ^ 64 + pk.seq.toNat * 2 ^ 84 + pk.offset.toNat * 2 ^ 108 +
    pk.len.toNat * 2 ^ 156 + pk.mcg.toNat * 2 ^ 164 + pk.poison.toNat * 2 ^ 178 + pk.ver.toNat * 2 ^ 182 +
    pk.rop.toNat * 2 ^ 198 + pk.rtype.toNat * 2 ^ 201 + pk.rsvd.toNat * 2 ^ 205

/-- The 128 bytes of the payload field: the payload, then zeros (R314). -/
def payloadField (pk : Packet) : List Byte := (pk.payload ++ List.replicate 128 0).take 128

/-- The check of a packet's header and the 128 bytes of the payload field (R322): AGE, HOPS and FOG taken as zero. -/
def checkOf (pk : Packet) (field : List Byte) : BitVec 32 :=
  crc32c (natLe 28 (headerNat { pk with age := 0, hops := 0, fog := false }) ++ field)

/-- The packet check that a packet is sent with (R322). -/
def packetCheck (pk : Packet) : BitVec 32 := checkOf pk (payloadField pk)

/-- The 168 bytes of a frame that carries a packet (R314, R315, R321, R322). -/
def frameOf (pk : Packet) : List Byte :=
  linkEncode (natLe 28 (headerNat pk) ++ natLe 4 (packetCheck pk).toNat ++ payloadField pk)

/-- The packet of a frame's first 160 bytes, and the CHECK it carries. -/
def packetOf (bs : List Byte) : Packet × BitVec 32 :=
  let h := leNat (bs.take 32)
  let f := fun hi lo => bitsOf h hi lo
  let len := f 163 156
  ({ dst := BitVec.ofNat 16 (f 15 0), src := BitVec.ofNat 16 (f 31 16), op := BitVec.ofNat 6 (f 37 32),
     tc := Fin.ofNat 4 (f 39 38), part := Fin.ofNat 4 (f 41 40), age := BitVec.ofNat 10 (f 51 42),
     hops := BitVec.ofNat 5 (f 56 52), epoch := bitOf h 57, fog := bitOf h 58, echo := bitOf h 59,
     code := BitVec.ofNat 4 (f 63 60), ctx := BitVec.ofNat 20 (f 83 64), seq := BitVec.ofNat 24 (f 107 84),
     offset := BitVec.ofNat 48 (f 155 108), len := BitVec.ofNat 8 len, mcg := BitVec.ofNat 14 (f 177 164),
     poison := BitVec.ofNat 4 (f 181 178), ver := BitVec.ofNat 16 (f 197 182), rop := BitVec.ofNat 3 (f 200 198),
     rtype := BitVec.ofNat 4 (f 204 201), rsvd := BitVec.ofNat 19 (f 223 205),
     payload := (bs.drop 32).take (Nat.min 128 len) }, BitVec.ofNat 32 (f 255 224))

/-- A multicast packet: DST 0xFFFF (R321). -/
def isMcast (pk : Packet) : Bool := decide (pk.dst = 0xFFFF)

/-! ## Ports -/

/-- A port beyond its registers, before it has trained. -/
def PortState.down : PortState :=
  { run := 0, trained := false, peerReady := false, forced := false, sinceLink := 0, errors := [], dirty := false,
    leaving := none }

/-- A port's record. -/
def State.portAt (s : State) (p : Nat) : PortState := tblGet (fun _ => PortState.down) s.fabric.ports p

/-- Change a port's record. -/
def State.onPort (s : State) (p : Nat) (f : PortState → PortState) : State :=
  { s with fabric := { s.fabric with ports := tblSet (fun _ => PortState.down) s.fabric.ports p (f (s.portAt p)) } }

/-- STATE of a port: 0 DOWN, 1 TRAINING, 2 UP (R347). -/
def State.portIs (s : State) (p : Nat) : Nat := s.fld (fabPortStatusOff p) 1 0

/-- Set a port's STATE. -/
def State.setPort (s : State) (p v : Nat) : State := s.setFld (fabPortStatusOff p) 1 0 v

/-- The port-state byte of a LINK frame: STATE, or 3 for a trained port in its clean second (R314 gives the
contents and no layout: assumption 31). -/
def State.linkState (s : State) (p : Nat) : Nat :=
  if s.portIs p = 1 ∧ (s.portAt p).trained then 3 else s.portIs p

/-- A LINK frame's packet (R314): node number in bytes 0 and 1, port number, port state, remote-fault flag
(assumption 31). -/
def State.linkPk (s : State) (p : Nat) (fault : Bool) : Packet :=
  pkWith { Packet.zero with op := 0x3E }
    (clean (natLe 2 (s.fld fabNodeOff 15 0) ++ natLe 1 p ++ natLe 1 (s.linkState p) ++ natLe 1 (if fault then 1 else 0)))

/-- Send one frame on a port. -/
def State.sendFrame (s : State) (p : Nat) (pk : Packet) : State := s.emit (.frame (Fin.ofNat 64 p) (frameOf pk))

/-- A port that is UP goes DOWN with a cause (R319): it sends the remote-fault flag in a last LINK frame. -/
def State.portDown (s : State) (p cause : Nat) : State :=
  if s.portIs p = 2 then
    let s := (s.setPort p 0).setFld (fabPortStatusOff p) 7 5 cause
    (s.onPort p fun _ => PortState.down).sendFrame p (s.linkPk p true)
  else s

/-- Every port that is UP goes DOWN with a cause. -/
def State.portsDown (s : State) (cause : Nat) : State :=
  (List.range 64).foldl (fun s p => s.portDown p cause) s

/-- A port that is UP leaves UP at the next slot boundary, for the first cause that occurs (R319). -/
def State.portLeave (s : State) (p cause : Nat) : State :=
  if s.portIs p = 2 then s.onPort p fun x => { x with leaving := some (x.leaving.getD cause) } else s

/-- The ports that a slot boundary finds with a cause to leave UP (R319). -/
def State.portsGo (s : State) : State :=
  (List.range 64).foldl (fun s p =>
    match (s.portAt p).leaving with
    | some c => s.portDown p c
    | none => s) s

/-- A port that trains gives it up. -/
def State.portQuit (s : State) (p : Nat) : State :=
  if s.portIs p = 1 then (s.setPort p 0).onPort p fun _ => PortState.down else s

/-- Write FAB_PORT_CTRL (R346): COMPAT only while the port is DOWN; clearing EN takes the port out of UP. -/
def State.portWrite (s : State) (p : Nat) (v : W32) : State :=
  let o := fabPortCtrlOff p
  let s := if s.portIs p = 0 then s.setFld o 3 3 (bitsOf v.toNat 3 3) else s
  let s := (s.setFld o 1 1 (bitsOf v.toNat 1 1)).setFld o 0 0 (v.toNat % 2)
  if v.toNat % 2 = 1 then s
  else (s.portLeave p 5).portQuit p

/-- PORT_ENABLE: a write of FAB_PORT_CTRL with EN set (R320). -/
def execPortEnable (by_ : Func) (port : Port) (v : W32) (s : State) : Host.Outcome State Fault Refusal :=
  .next (if s.mayMod by_ then s.portWrite port.val (BitVec.ofNat 32 (setBits v.toNat 0 0 1)) else s)

/-- PORT_DISABLE: a write of FAB_PORT_CTRL with EN clear (R319). -/
def execPortDisable (by_ : Func) (port : Port) (v : W32) (s : State) : Host.Outcome State Fault Refusal :=
  .next (if s.mayMod by_ then s.portWrite port.val (BitVec.ofNat 32 (setBits v.toNat 0 0 0)) else s)

/-- PORT_TRAIN_ATTEMPT (R320, R353): an enabled DOWN port of a module with a node number begins to train. -/
def execPortTrainAttempt (port : Port) (s : State) : Host.Outcome State Fault Refusal :=
  .next (if s.portIs port.val = 0 ∧ s.bit (fabPortCtrlOff port.val) 0 ∧ s.fld fabNodeOff 15 0 ≠ 0xFFFF ∧
      mStandby ≤ s.modState ∧ s.fld pwrStateOff 3 0 ≠ 9 then
      (s.setPort port.val 1).onPort port.val fun _ => PortState.down
    else s)

/-- PORT_TRAINING_DONE (R320, R324): the hop charge is measured, at least 1. -/
def execPortTrainingDone (port : Port) (charge : BitVec 8) (s : State) : Host.Outcome State Fault Refusal :=
  .next (if s.portIs port.val = 1 ∧ !(s.portAt port.val).trained then
      (s.setFld (fabPortStatusOff port.val) 15 8 (Nat.max 1 charge.toNat)).onPort port.val fun x =>
        { x with trained := true }
    else s)

/-- A trained port's second is over (R320): it enters UP with both ends ready, and begins another second after a frame
that could not be corrected. -/
def State.portUp (s : State) (p : Nat) : State :=
  let x := s.portAt p
  if s.portIs p ≠ 1 ∨ !x.trained then s
  else if x.dirty then s.onPort p fun x => { x with dirty := false }
  else if x.peerReady then
    (s.setPort p 2).onPort p fun _ => { PortState.down with trained := true, peerReady := true }
  else s

/-- PORT_ENTER_UP (R320): after a clean second, with both ends ready. -/
def execPortEnterUp (port : Port) (s : State) : Host.Outcome State Fault Refusal := .next (s.portUp port.val)

/-- PORT_LOSS_OF_SIGNAL (R319). -/
def execPortLossOfSignal (port : Port) (s : State) : Host.Outcome State Fault Refusal := .next (s.portLeave port.val 1)

/-- PORT_ALIGN_LOST (R319): no LINK frame in 6,144 frames received. -/
def execPortAlignLost (port : Port) (s : State) : Host.Outcome State Fault Refusal :=
  .next (if 6144 ≤ (s.portAt port.val).sinceLink then s.portLeave port.val 2 else s)

/-- PORT_ERROR_LIMIT (R319): 32 or more frames that could not be corrected in the latest 4,096. -/
def execPortErrorLimit (port : Port) (s : State) : Host.Outcome State Fault Refusal :=
  .next (if 32 ≤ (s.portAt port.val).errors.length then s.portLeave port.val 3 else s)

/-- A write of FAB_NODE (R353): only in STANDBY; a new value takes every UP port out of UP, and 0xFFFF lets no port
train. -/
def State.nodeWrite (s : State) (v : W32) : State :=
  let n := v.toNat % 2 ^ 16
  if s.modState ≠ mStandby ∨ n = s.fld fabNodeOff 15 0 then s
  else
    let s := ((List.range 64).foldl (fun s p => s.portLeave p 6) s).setFld fabNodeOff 15 0 n
    if n = 0xFFFF then (List.range 64).foldl State.portQuit s else s

/-- NODE_NUMBER_WRITE (R353). -/
def execNodeNumberWrite (by_ : Func) (v : W32) (s : State) : Host.Outcome State Fault Refusal :=
  .next (if s.mayMod by_ then s.nodeWrite v else s)

/-- A write of 1 to SWAP, which waits for the next slot boundary; ignored in EPOCH mode (R338, R352). -/
def State.swapLists (s : State) : State := if s.bit fabLlCtrlOff 3 then s else s.setBit fabLlCtrlOff 1

/-- A slot boundary flips ACTIVE where SWAP is set, and clears SWAP (R338, R352). -/
def State.swapNow (s : State) : State :=
  if s.bit fabLlCtrlOff 1 then (s.setFld fabLlCtrlOff 0 0 (1 - s.fld fabLlCtrlOff 0 0)).setFld fabLlCtrlOff 1 1 0 else s

/-- LIGHT_LIST_SWAP: a write of 1 to FAB_LL_CTRL.SWAP (R338). -/
def execLightListSwap (by_ : Func) (s : State) : Host.Outcome State Fault Refusal :=
  .next (if s.mayMod by_ then s.swapLists else s)

/-! ## One slot -/

/-- A packet in the slot and the input it came in on. -/
structure SlotPk where
  pk  : Packet
  inp : Nat
  deriving DecidableEq, Repr

/-- The outputs assigned in a slot, the packets each lantern has ejected, and the port of a forced LINK frame. -/
structure SlotOut where
  ports  : List (Nat × Packet)
  ejects : List Nat
  forced : Option Nat
  deriving DecidableEq, Repr

/-- The bank that a router routes a packet by (R337, R339, R340). -/
def State.bankFor (s : State) (pk : Packet) : Nat :=
  if s.bit fabLlCtrlOff 3 then (if pk.epoch then 1 else 0) else s.fld fabLlCtrlOff 0 0

/-- A port has this slot: every slot, or the even ones where it faces a WV-1600 (R342). -/
def State.portTurn (s : State) (p : Nat) : Bool :=
  decide (p < 64) && (!s.bit (fabPortCtrlOff p) 3 || decide (s.fabric.slot % 2 = 0))

/-- A port carries packets in this slot: it is UP, and the slot is its own. -/
def State.portCarries (s : State) (p : Nat) : Bool := decide (s.portIs p = 2) && s.portTurn p

/-- A trained port in its clean second carries LINK frames in its slots (R320). -/
def State.portLinks (s : State) (p : Nat) : Bool := decide (s.portIs p = 1) && (s.portAt p).trained && s.portTurn p

/-- free(x) of R326. -/
def State.portFree (s : State) (o : SlotOut) (p : Nat) : Bool :=
  s.portCarries p && decide (o.forced ≠ some p) && (keyGet o.ports p).isNone

/-- Give a port a packet. -/
def SlotOut.give (o : SlotOut) (p : Nat) (pk : Packet) : SlotOut := { o with ports := keySet o.ports p pk }

/-- Mark a packet, counting a mark it did not have (R330). -/
def State.fogMark (s : State) (pk : Packet) : Packet × State :=
  if pk.fog then (pk, s) else ({ pk with fog := true }, s.count fabFogMarksOff)

/-- The home lantern of a packet for this module (R327); a reply nobody waits for goes to L0 (assumption 32). -/
def State.pkHome (s : State) (pk : Packet) : Nat :=
  if [0x02, 0x07, 0x0D, 0x10].contains pk.op.toNat then
    ((s.fabric.flying.find? fun r => r.pk.ctx == pk.ctx && r.pk.seq == pk.seq).map fun r => r.lantern.val).getD 0
  else (reqHome pk).val

/-- The ejection queue of a lantern. -/
def State.ejQueue (s : State) (n : Nat) : List Packet := tblGet (fun _ => ([] : List Packet)) s.fabric.ejq n

/-- A lantern's ejection port has a place (R327). -/
def State.ejPlace (s : State) (o : SlotOut) (n : Nat) : Bool :=
  decide (o.ejects.getD n 0 < 8) && decide ((s.ejQueue n).length < 64)

/-- A Keeper PROBE, the one packet ejected in S1 and PROTECT (R467, R479). -/
def isProbe (pk : Packet) : Bool := decide (pk.op = 0x14) && decide (pk.payload.headD 0 = 3)

/-- Eject a packet at its home (R327): marked when the queue stands at or above THRESH, never a multicast copy. In
S1 and PROTECT all but a PROBE are discarded. -/
def State.eject (s : State) (o : SlotOut) (pk : Packet) : State × SlotOut :=
  let n := s.pkHome pk
  let q := s.ejQueue n
  let o := { o with ejects := o.ejects.set n (o.ejects.getD n 0 + 1) }
  if !s.ejects && !isProbe pk then (s, o)
  else
    let thresh := Nat.min 64 (s.fld fabEjCtrlOff 6 0)
    let (pk, s) := if thresh ≤ q.length ∧ !isMcast pk then s.fogMark pk else (pk, s)
    ({ s with fabric := { s.fabric with ejq := tblSet (fun _ => []) s.fabric.ejq n (q ++ [pk]) } }, o)

/-- An output of a multicast packet: its ejection, or a port (R344). -/
inductive Copy where
  | eject
  | port (p : Nat)
  deriving DecidableEq, Repr

/-- The copies of a multicast packet, the ejection first, then the ports in ascending order (R344). -/
def State.copies (s : State) (grp : Nat) : List Copy :=
  let e := (s.reg (fabMcgOff grp)).toNat
  let m := (s.reg (fabMcgMaskOff grp)).toNat
  (if bitOf e 17 then [.eject] else []) ++ ((List.range 64).filter (bitOf m)).map .port

/-- A copy's output is free. -/
def State.copyFree (s : State) (o : SlotOut) (pk : Packet) : Copy → Bool
  | .eject => s.ejPlace o (s.pkHome pk)
  | .port p => s.portFree o p

/-- Send a copy. -/
def State.copyTo (s : State) (o : SlotOut) (pk : Packet) : Copy → State × SlotOut
  | .eject => s.eject o pk
  | .port p => (s, o.give p pk)

/-- Send the copies whose outputs are free and count the others as dropped (R344). -/
def State.copyAll (s : State) (o : SlotOut) (pk : Packet) (cs : List Copy) : State × SlotOut :=
  cs.foldl (fun (x : State × SlotOut) c =>
    if x.1.copyFree x.2 pk c then x.1.copyTo x.2 pk c else (x.1.count fabMcDropsOff, x.2)) (s, o)

/-- The first copy of pass 1 and those left for pass 3. -/
def State.copyFirst (s : State) (o : SlotOut) (pk : Packet) : Option (Copy × List Copy) :=
  let cs := s.copies pk.mcg.toNat
  (cs.find? (s.copyFree o pk)).map fun c => (c, cs.filter (· != c))

/-- The link code and a LINK frame's contents at a port (R315, R319, R320, R347). -/
def State.linkIn (s : State) (p : Nat) (pk : Packet) : State :=
  let st := (pk.payload.getD 3 0).toNat
  let fault := decide ((pk.payload.getD 4 0).toNat % 2 = 1)
  let s := (s.setFld (fabPortStatusOff p) 63 48 (leNat (pk.payload.take 2))).setFld (fabPortStatusOff p) 47 42
    (pk.payload.getD 2 0).toNat
  let s := s.onPort p fun x => { x with peerReady := decide (2 ≤ st) && !fault, sinceLink := 0 }
  if fault || decide (st ≤ 1) then s.portLeave p 4 else s

/-- The sectors of a packet that failed parity in the datapath are poisoned (R254, R322). -/
def State.datapath (s : State) (pk : Packet) (bad : BitVec 4) : Packet × State :=
  let n := (List.range 4).foldl (fun n k => if bad.getLsbD k && !pk.poison.getLsbD k then n + 1 else n) 0
  ({ pk with poison := pk.poison ||| bad }, s.count fabParPayloadOff n)

/-- A port receives one more frame, which could or could not be corrected (R319, R320). -/
def PortState.received (x : PortState) (ok : Bool) : PortState :=
  let errors := (x.errors.map (· + 1)).filter fun n => decide (n < 4096)
  { x with sinceLink := x.sinceLink + 1, errors := if ok then errors else errors ++ [0], dirty := x.dirty || !ok }

/-- A packet is for this module (R324): addressed to it, or multicast to a group that it ejects. -/
def State.packetHere (s : State) (pk : Packet) : Bool :=
  if isMcast pk then bitOf (s.reg (fabMcgOff pk.mcg.toNat)).toNat 17 else s.here pk.dst.toNat

/-- A frame arrives on a port (R315, R319, R324): what is left of it for the slot. -/
def State.frameIn (s : State) (a : Arrival) : Option Packet × State :=
  let p := a.port.val
  if !(s.portCarries p || s.portLinks p) then (none, s)
  else
    match linkDecode a.bytes with
    | none => (none, (s.onPort p fun x => x.received false).count (fabPortUncorrOff p))
    | some (bs, n) =>
      let s := s.onPort p fun x => x.received true
      let s := s.count (fabPortCorrOff p) n
      let (pk, chk) := packetOf (bs.take 160)
      let isLink := decide (pk.op = 0x3E)
      if a.hdrParity = 3 then (none, s.count fabParHdrOff)
      else if checkOf pk ((bs.drop 32).take 128) ≠ chk then (none, s.count fabCheckDiscardsOff)
      else if isLink then (none, s.linkIn p pk)
      else if pk.op = 0x3F ∨ s.portIs p ≠ 2 then (none, s)
      else
        let (pk, s) := s.datapath pk a.secParity
        let charge := Nat.max 1 (s.fld (fabPortStatusOff p) 15 8)
        let age := Nat.min 1023 (pk.age.toNat + charge)
        let hops := Nat.min 31 (pk.hops.toNat + 1)
        let pk := { pk with age := BitVec.ofNat 10 age, hops := BitVec.ofNat 5 hops }
        let e := (s.reg (fabMcgOff pk.mcg.toNat)).toNat
        if age = 1023 then (none, s.count fabAgeDiscardsOff)
        else if hops = 31 ∧ !s.packetHere pk then (none, s.count fabHopDiscardsOff)
        else if isMcast pk ∧ (!bitOf e 16 ∨ e % 2 ^ 16 ≠ pk.src.toNat) then (none, s.count fabMcDropsOff)
        else (some pk, s)

/-- a ranks before b (R325). -/
def SlotPk.before (a b : SlotPk) : Bool :=
  let x := a.pk.age.toNat
  let y := b.pk.age.toNat
  decide (y < x) || (decide (x = y) && (decide (a.pk.src.toNat < b.pk.src.toNat) ||
    (decide (a.pk.src = b.pk.src) && decide (a.inp ≤ b.inp))))

/-- Insert a packet by the order of R325. -/
def insertPk (a : SlotPk) : List SlotPk → List SlotPk
  | [] => [a]
  | b :: t => if a.before b then a :: b :: t else b :: insertPk a t

/-- What the passes carry: the state, the outputs, the packets unassigned, and the multicast copies left. -/
structure SlotRun where
  s    : State
  o    : SlotOut
  left : List SlotPk
  mc   : List (Packet × List Copy)

/-- Pass 1 of R326 for one arrival. -/
def SlotRun.pass1 (r : SlotRun) (a : SlotPk) : SlotRun :=
  let pk := a.pk
  if isMcast pk then
    match r.s.copyFirst r.o pk with
    | some (c, cs) => let (s, o) := r.s.copyTo r.o pk c; { r with s := s, o := o, mc := r.mc ++ [(pk, cs)] }
    | none => { r with s := r.s.count fabMcDropsOff (r.s.copies pk.mcg.toNat).length }
  else if r.s.here pk.dst.toNat then
    if r.s.ejPlace r.o (r.s.pkHome pk) then let (s, o) := r.s.eject r.o pk; { r with s := s, o := o }
    else { r with left := r.left ++ [a] }
  else
    match (r.s.llPorts (r.s.bankFor pk) pk.dst.toNat).find? (r.s.portFree r.o) with
    | some p => { r with o := r.o.give p pk }
    | none => { r with left := r.left ++ [a] }

/-- The first free port of a role from `from_` upward, wrapping. -/
def State.roleFree (s : State) (o : SlotOut) (role from_ : Nat) : Option Nat :=
  ((List.range 64).map fun i => (from_ + i) % 64).find? fun p =>
    s.portFree o p && decide (s.fld (fabPortCtrlOff p) 1 1 = role)

/-- Pass 2 of R326 for one packet: deflect, or discard for a forced LINK frame. -/
def SlotRun.pass2 (from_ : Nat) (r : SlotRun) (a : SlotPk) : SlotRun :=
  let p := match r.s.roleFree r.o 0 from_ with
    | some p => some p
    | none => r.s.roleFree r.o 1 from_
  match p with
  | some p =>
    let (pk, s) := r.s.fogMark a.pk
    { r with s := s.count fabDeflectionsOff, o := r.o.give p pk }
  | none => { r with s := r.s.count fabLinkDiscardsOff }

/-- The ports whose LINK frame is due: in its run's slots from 1,984 on (R318). -/
def State.linkDue (s : State) (p : Nat) : Bool := s.portCarries p && decide (1984 ≤ (s.portAt p).run)

/-- The port of the slot's forced LINK frame (R318): of those in their run's last slot, one that was put off before; then
one that FORCED_LINK_FRAME names, then the lowest. -/
def State.forcedPort (s : State) : Option Nat :=
  let key := fun (p : Nat) => 2 * (s.portAt p).run + (if (s.portAt p).forced then 1 else 0)
  let due := (List.range 64).filter fun p => s.linkDue p && decide (2047 ≤ (s.portAt p).run)
  due.foldl (fun b p => match b with
    | none => some p
    | some q => if key q < key p then some p else some q) none

/-- The slot's outputs and the state that its passes have reached. -/
abbrev SlotStep := State × SlotOut

/-- A packet as it is injected: with the epoch of the module's packets (R340). -/
def State.stamped (s : State) (pk : Packet) : Packet :=
  { pk with epoch := s.bit fabLlCtrlOff 3 && s.bit fabLlCtrlOff 2 }

/-- The regulator lets a packet go (R232): class A, or class B while no packet of class A waits among `others`
(assumption 52). -/
def State.injClear (s : State) (n : Lan) (others : List InjPkt) (pk : Packet) : Bool :=
  let class_ := fun (q : Packet) => s.rgClass (.injection n) q.part.val q.payload.length
  match class_ pk with
  | some 0 => true
  | some _ => others.all fun y => class_ y.pk != some 0
  | none => false

/-- Inject one packet, if an output lets it (R328, R345): a multicast packet when all its outputs are free, or when some
are after 16 slots at the head. -/
def State.injectOne (so : SlotStep) (x : InjPkt) : Option SlotStep :=
  let pk := so.1.stamped x.pk
  if isMcast pk then
    let cs := so.1.copies pk.mcg.toNat
    let free := cs.filter (so.1.copyFree so.2 pk)
    if free.length = cs.length ∨ (16 ≤ x.wait ∧ !free.isEmpty) then some (so.1.copyAll so.2 pk cs) else none
  else
    ((so.1.llPorts (so.1.bankFor pk) pk.dst.toNat).find? (so.1.portFree so.2)).map fun p => (so.1, so.2.give p pk)

/-- Injection from one lantern over the packets it examines, in queue order, up to eight (R328): what stays, and how many
have left. A multicast packet at the head counts the slots that it waits (R345). -/
def injectLoop (n : Lan) : List InjPkt → Nat → List InjPkt → SlotStep → SlotStep × List InjPkt × Nat
  | [], sent, kept, so => (so, kept, sent)
  | x :: q, sent, kept, so =>
    if 8 ≤ sent then (so, kept ++ x :: q, sent)
    else
      let stay : InjPkt := if kept.isEmpty && sent == 0 && isMcast x.pk then { x with wait := x.wait + 1 } else x
      let out := if so.1.injClear n (kept ++ q) x.pk then State.injectOne so x else none
      match out with
      | some (s, o) =>
        injectLoop n q (sent + 1) kept (s.rgGive (.injection n) x.pk.part.val x.pk.payload.length, o)
      | none => injectLoop n q sent (kept ++ [stay]) so

/-- A lantern's injection port. -/
def State.injQueue (s : State) (n : Nat) : List InjPkt := tblGet (fun _ => ([] : List InjPkt)) s.fabric.injq n

/-- Replace a lantern's injection queue. -/
def State.setInjQueue (s : State) (n : Nat) (q : List InjPkt) : State :=
  { s with fabric := { s.fabric with injq := tblSet (fun _ => []) s.fabric.injq n q } }

/-- The operations that are requests (R274). -/
def requestOps : List Nat := [0x00, 0x01, 0x03, 0x04, 0x05, 0x06, 0x0A, 0x0C, 0x0E, 0x0F, 0x12, 0x14]

/-- A unicast request whose entry has no VALID rank (R335). -/
def State.unrouted (s : State) (pk : Packet) : Bool :=
  requestOps.contains pk.op.toNat && !isMcast pk && (s.llPorts s.injBank pk.dst.toNat).isEmpty

/-- A request that its port finds without a route is not sent and completes with ST_NO_ROUTE (R272, R335). -/
def State.noRoute (s : State) (pk : Packet) : State :=
  match s.fabric.flying.find? fun r => r.pk.ctx == pk.ctx && r.pk.seq == pk.seq with
  | none => s
  | some r =>
    match r.cont with
    | .mflush run => s.flushNoRoute r run pk.dst
    | _ => (((s.setBit fabErrOff 2).final r).finish r stNoRoute [] 0)

/-- The requests among a port's first sixteen packets that have no route leave it (R335). -/
def State.dropUnrouted (s : State) (n : Nat) : State :=
  let q := s.injQueue n
  let dead := (q.take 16).filter fun x => s.unrouted x.pk
  if dead.isEmpty then s
  else
    let s := s.setInjQueue n ((q.take 16).filter (fun x => !s.unrouted x.pk) ++ q.drop 16)
    dead.foldl (fun s x => s.noRoute x.pk) s

/-- Pass 4 of R326 for one lantern's injection port: its first sixteen packets (R328). -/
def injectFrom (so : SlotStep) (n : Lan) : SlotStep :=
  let s := so.1.dropUnrouted n.val
  let q := s.injQueue n.val
  let ((s, o), rest, sent) := injectLoop n (q.take 16) 0 [] (s, so.2)
  let s := s.setInjQueue n.val (rest ++ q.drop 16)
  (if sent = 0 then s else { s with fabric := { s.fabric with lastInj := n.val } }, o)

/-- The frame a port sends in the slot: the LINK frame, the packet assigned, or an IDLE frame (R314, R318). -/
def State.portSend (s : State) (o : SlotOut) (p : Nat) : State :=
  if s.portCarries p then
    let link := decide (o.forced = some p) || (s.linkDue p && (keyGet o.ports p).isNone)
    if link then (s.sendFrame p (s.linkPk p false)).onPort p fun x => { x with run := 0, forced := false }
    else
      let pk := (keyGet o.ports p).getD { Packet.zero with op := 0x3F }
      (s.sendFrame p pk).onPort p fun x => { x with run := x.run + 1 }
  else if s.portLinks p then s.sendFrame p (s.linkPk p false)
  else s

/-- LINK frames take their ports ahead of any injection (R318): a placeholder keeps the port from pass 4. -/
def State.holdLinks (s : State) (o : SlotOut) : SlotOut :=
  (List.range 64).foldl (fun o p => if s.linkDue p && s.portFree o p then o.give p (s.linkPk p false) else o) o

/-- One packet slot of the router (R324 to R328), from its boundary on. -/
def State.routerSlot (s : State) (arr : List Arrival) : State :=
  let s := s.swapNow.portsGo
  let (pks, s) := arr.foldl (fun (x : List SlotPk × State) a =>
    match x.2.frameIn a with
    | (some pk, s) => (insertPk ⟨pk, a.port.val⟩ x.1, s)
    | (none, s) => (x.1, s)) ([], s)
  let r : SlotRun := ⟨s, ⟨[], List.replicate 8 0, s.forcedPort⟩, [], []⟩
  let r := pks.foldl SlotRun.pass1 r
  let r := r.left.foldl (SlotRun.pass2 (s.fabric.slot % 64)) r
  let (s, o) := r.mc.foldl (fun (x : State × SlotOut) (pk, cs) => x.1.copyAll x.2 pk cs) (r.s, r.o)
  let o := s.holdLinks o
  let order := (List.range 8).map fun i => Fin.ofNat 8 (s.fabric.lastInj + 1 + i)
  let (s, o) := order.foldl injectFrom (s, o)
  let s := (List.range 64).foldl (fun s p =>
    let o := match keyGet o.ports p with
      | some pk => if pk.op = 0x3E then { o with ports := keyDel o.ports p } else o
      | none => o
    s.portSend o p) s
  ({ s with fabric := { s.fabric with slot := s.fabric.slot + 1 } } : State).pump

/-- ROUTER_SLOT (R326). -/
def execRouterSlot (arr : List Arrival) (s : State) : Host.Outcome State Fault Refusal :=
  .next (if s.modState < mStandby then s else s.routerSlot arr)

/-- FORCED_LINK_FRAME (R318): the port in the last slot of its run takes the next slot ahead of every arrival. -/
def execForcedLinkFrame (port : Port) (s : State) : Host.Outcome State Fault Refusal :=
  .next (if s.portIs port.val = 2 ∧ 2047 ≤ (s.portAt port.val).run then
      s.onPort port.val fun x => { x with forced := true }
    else s)

/-- A lantern's multicast packet has waited 16 slots at the head of its injection port, and an output of it is free at the
slot's start (R345). -/
def State.forcesCast (s : State) (n : Nat) : Bool :=
  match s.injQueue n with
  | x :: _ =>
    isMcast x.pk && decide (16 ≤ x.wait) &&
      (s.copies x.pk.mcg.toNat).any (s.copyFree ⟨[], List.replicate 8 0, s.forcedPort⟩ x.pk)
  | [] => false

/-- MULTICAST_FORCED_INJECT (R345): the slot in which such a packet leaves on whatever outputs are free, without
arrivals. -/
def execMulticastForcedInject (lan : Lan) (s : State) : Host.Outcome State Fault Refusal :=
  .next (if s.forcesCast lan.val then s.routerSlot [] else s)

end Sys2Proof.Machine
end

