-- ==== Sys2Proof/Machine/Rings.lean ====
section
/-! DEFINITION. Rings, doorbells, mailboxes, the event ring's registers, BAR2 and the PCI Express functions
(R417 to R434, R442 to R448, R451, R453): the operations, and the meanings of their rows and of the job, NOP
and READ_REGS commands. -/

namespace Sys2Proof.Machine

/-! ## Ring registers and doorbells (R424, R425) -/

/-- A function page has the ring (R423): the PF page has ring 0 only. -/
def ringExists (page : Func) (ring : RingIx) : Bool := decide (page ≠ 0) || decide (ring = 0)

/-- Entries of a ring. -/
def State.ringLen (s : State) (f r : Nat) : Nat := ringSize (s.fld (cmdRingCfgOff f r) 20 16)

/-- HEAD of a ring. -/
def State.ringHead (s : State) (f r : Nat) : Nat := s.fld (cmdRingHeadOff f r) 31 0

/-- TAIL of a ring. -/
def State.ringTail (s : State) (f r : Nat) : Nat := s.fld (cmdRingTailOff f r) 31 0

/-- EN of a ring. -/
def State.ringOn (s : State) (f r : Nat) : Bool := s.bit (cmdRingCfgOff f r) 31

/-- Fetching is stopped (R426). -/
def State.ringStopped (s : State) (f r : Nat) : Bool := s.bit (cmdRingStatusOff f r) 0

/-- HEAD and TAIL of a ring become 0. -/
def State.ringEmpty (s : State) (f r : Nat) : State :=
  (s.setReg (cmdRingHeadOff f r) 0).setReg (cmdRingTailOff f r) 0

/-- A write of CMD_RING_CFG (R424): LOG2 is ignored while EN is 1, and setting EN sets HEAD and TAIL to 0. -/
def State.ringWrite (s : State) (f r v : Nat) : State :=
  let o := cmdRingCfgOff f r
  let on := s.ringOn f r
  let s := (s.setFld o 10 0 v).setFld o 31 31 (bitsOf v 31 31)
  let s := if on then s else s.setFld o 20 16 (bitsOf v 20 16)
  if !on && bitOf v 31 then s.ringEmpty f r else s

/-- An event of a function's ring: of its partition, or module-wide for the PF. -/
def State.ringError (s : State) (f : Func) (a b : Nat) : State := s.raise evRingError (partOf f) a b

/-- A doorbell (R425). -/
def State.doorbell (s : State) (f : Func) (r v : Nat) : State :=
  let ahead := (v + 2 ^ 32 - s.ringHead f.val r) % 2 ^ 32
  let moved := (v + 2 ^ 32 - s.ringTail f.val r) % 2 ^ 32
  if ahead ≤ s.ringLen f.val r ∧ moved ≤ 2 ^ 31 then s.setReg (cmdRingTailOff f.val r) (BitVec.ofNat 64 v)
  else (s.setBit (cmdRingStatusOff f.val r) 1).ringError f 0 0

/-- Clear SEQ_ERR, and STOPPED with it (R426). -/
def State.seqErrClear (s : State) (f r : Nat) : State :=
  (s.setFld (cmdRingStatusOff f r) 2 2 0).setFld (cmdRingStatusOff f r) 0 0 0

/-- DOORBELL_WRITE (R425). -/
def execDoorbellWrite (by_ page : Func) (ring : RingIx) (v : W32) (s : State) : Host.Outcome State Fault Refusal :=
  .next (if s.mayPage by_ page && ringExists page ring then s.doorbell page ring.val v.toNat else s)

/-- RING_ENABLE: a write of CMD_RING_CFG (R424). -/
def execRingEnable (by_ page : Func) (ring : RingIx) (v : W32) (s : State) : Host.Outcome State Fault Refusal :=
  .next (if s.mayPage by_ page && ringExists page ring then s.ringWrite page.val ring.val v.toNat else s)

/-- SEQ_ERR_CLEAR: write 1 to CMD_RING_STATUS.SEQ_ERR (R426). -/
def execSeqErrClear (by_ page : Func) (ring : RingIx) (s : State) : Host.Outcome State Fault Refusal :=
  .next (if s.mayPage by_ page && ringExists page ring then s.seqErrClear page.val ring.val else s)

/-! ## Mailboxes (R446, R447) -/

/-- STATE of a mailbox: 0 EMPTY, 1 NOT_READY, 2 READY. -/
def State.mboxState (s : State) (f b : Nat) : Nat := s.fld (cmdMboxOff f b) 1 0

/-- A command that names the mailbox starts. -/
def State.mboxClaim (s : State) (c : CmdId) (b : Nat) : State :=
  s.setReg (cmdMboxOff c.func.val b) (BitVec.ofNat 64 (c.seq.toNat * 2 ^ 32 + 1))

/-- The result is written, and then the mailbox is READY. -/
def State.mboxResult (s : State) (c : CmdId) (b : Nat) (vs : List W64) : State :=
  let s := vs.zipIdx.foldl (fun s (v, j) => s.setReg (cmdMboxDataOff c.func.val b j) v) s
  s.setReg (cmdMboxOff c.func.val b) (BitVec.ofNat 64 (c.seq.toNat * 2 ^ 32 + 8 * vs.length * 2 ^ 16 + 2))

/-- A mailbox becomes EMPTY: every field and the data cleared. -/
def State.mboxClear (s : State) (f b : Nat) : State :=
  (List.range 31).foldl (fun s j => s.setReg (cmdMboxDataOff f b j) 0) (s.setReg (cmdMboxOff f b) 0)

/-- The command owns its mailbox, which still waits for a result. -/
def State.mboxOwned (s : State) (x : Cmd) : Bool :=
  decide (s.reg (cmdMboxOff x.id.func.val x.mbox) = BitVec.ofNat 64 (x.id.seq.toNat * 2 ^ 32 + 1))

/-- A write of CMD_MBOX_ACK: READY mailboxes of set bits become EMPTY. -/
def State.mboxAck (s : State) (f v : Nat) : State :=
  (List.range 16).foldl (fun s b => if bitOf v b && decide (s.mboxState f b = 2) then s.mboxClear f b else s) s

/-- MAILBOX_ACK (R447). -/
def execMailboxAck (by_ page : Func) (v : W32) (s : State) : Host.Outcome State Fault Refusal :=
  .next (if s.mayPage by_ page then s.mboxAck page.val v.toNat else s)

/-- MAILBOX_READY_READ (R447): the host reads the ready word. -/
def execMailboxReadyRead (by_ page : Func) (b : Fin 16) (s : State) : Host.Outcome State Fault Refusal :=
  .next (s.hostRead64 by_ (cmdMboxOff page.val b.val))

/-! ## The event ring's registers (R451, R453, R513) -/

/-- Deliver the events held until the PF event ring is first enabled (R513). -/
def State.heldEvents (s : State) : State :=
  let evs := s.heldEv
  let n := s.heldLost
  let s := evs.foldl (fun s e => s.evDeliver 0 e) { s with heldEv := [], heldLost := 0, evOpen := true }
  if n = 0 then s else s.evDeliver 0 (lostRec s n)

/-- A write of CMD_EV_CFG (R453): setting EN sets HEAD and TAIL to 0 and restarts LOST. -/
def State.evWrite (s : State) (f v : Nat) : State :=
  let o := cmdEvCfgOff f
  let on := s.bit o 31
  let s := ((s.setFld o 10 0 v).setFld o 20 16 (bitsOf v 20 16)).setFld o 31 31 (bitsOf v 31 31)
  if !on && bitOf v 31 then
    let s := ((s.setReg (cmdEvHeadOff f) 0).setReg (cmdEvTailOff f) 0).setReg (cmdEvLostOff f) 0
    let s := s.onFunc f fun fs => { fs with evArm := false, evLost := 0 }
    if f = 0 then s.heldEvents else s
  else s

/-- A write of CMD_EV_HEAD (R451, R453): ignored where it would pass TAIL; freed space takes the
EV_EVENTS_LOST record that is owed. -/
def State.evHeadWrite (s : State) (f v : Nat) : State :=
  let ahead := (v + 2 ^ 32 - s.fld (cmdEvHeadOff f) 31 0) % 2 ^ 32
  if s.evUsed f < ahead then s
  else
    let s := s.setReg (cmdEvHeadOff f) (BitVec.ofNat 64 (v % 2 ^ 32))
    (if ahead = 0 then s else s.onFunc f fun fs => { fs with evArm := true }).evFlush f

/-- EVENT_RING_ENABLE: a write of CMD_EV_CFG (R453). -/
def execEventRingEnable (by_ page : Func) (v : W32) (s : State) : Host.Outcome State Fault Refusal :=
  .next (if s.mayPage by_ page then s.evWrite page.val v.toNat else s)

/-- EVENT_HEAD_WRITE (R451). -/
def execEventHeadWrite (by_ page : Func) (v : W32) (s : State) : Host.Outcome State Fault Refusal :=
  .next (if s.mayPage by_ page then s.evHeadWrite page.val v.toNat else s)

/-! ## BAR2 (R418 to R421, R257) -/

/-- The local offset that a BAR2 offset of a function reaches (R420); none outside the BAR or unmapped. -/
def State.bar2Local (s : State) (f : Func) (off : Nat) : Option Nat :=
  let sz := (s.func f.val).bar2
  let x := if 40 ≤ sz then off else (s.reg (modBar2WinOff f.val)).toNat + off
  if x < 0xC000000000 then some x
  else if x < 0xC600000000 then some (galBase + (x - 0xC000000000))
  else none

/-- The function may reach the byte: it lies in its partition's regions, or for the PF in any partition's
(R421). -/
def State.bar2Owns (s : State) (f : Func) (a : Nat) : Bool :=
  match partOf f with
  | some p => s.owns p.val a
  | none => (List.range 4).any fun p => s.owns p a

/-- The partition whose cache a host access goes through: the one that owns the first byte. -/
def State.bar2Part (s : State) (a : Nat) : Nat := ((List.range 4).find? fun p => s.owns p a).getD 0

/-- The first byte of an access from a local offset that is refused (R215, R421). -/
def State.bar2First (s : State) (f : Func) (a n : Nat) : Option Nat :=
  firstRefusedFrom (s.bar2Owns f) (n / 0x4000000 + 2) a (a + n)

/-- The local offset of an access that is not refused. -/
def State.bar2Target (s : State) (f : Func) (off n : Nat) : Option Nat :=
  match s.bar2Local f off with
  | some a => if (s.bar2First f a n).isNone then some a else none
  | none => none

/-- A refused BAR2 access (R421, R244). -/
def State.barErr (s : State) (f : Func) (off n : Nat) : State :=
  let s := match (s.bar2Local f off).bind fun a => s.bar2First f a n with
    | some b => s.galBounds b
    | none => s
  (s.count modBarErrOff).raise evBarBounds (partOf f) off

/-- The access falls inside the function's BAR2, and the network that carries it to the lanterns runs: not in S1, S2 or
PROTECT (R467, R479). -/
def State.inBar2 (s : State) (f : Func) (off : Nat) : Bool :=
  s.hostUp f && decide (off < 2 ^ (s.func f.val).bar2) && decide (s.fld pwrStateOff 3 0 ≤ 3) && decide (s.modState ≠ mProtect)

/-- A host read of stored bytes: what it counts and marks, and a bite where it meets poison (R251, R253, R257, R258). -/
def State.hostLoad (s : State) (a n : Nat) : List PByte × State :=
  let (bs, s) := s.readMem a n
  match firstPoison a bs with
  | some g => (bs, s.bite (Fin.ofNat 4 (s.bar2Part a)) blkHost g)
  | none => (bs, s)

/-- BAR2_READ (R421): no effect beyond the completion, whose EP bit shows poison (R257), and what any read counts. -/
def execBar2Read (by_ : Func) (off : BitVec 40) (n : Nat) (s : State) : Host.Outcome State Fault Refusal :=
  .next (if !s.inBar2 by_ off.toNat then s
    else match s.bar2Target by_ off.toNat n with
      | some a =>
        let (bs, s) := s.hostLoad a n
        s.emit (.readData by_ (plain bs) (anyPoison bs))
      | none => (s.barErr by_ off.toNat n).emit (.completerAbort by_))

/-- BAR2_WRITE (R421, R257): an ordinary store, poisoned where it arrives with EP set. -/
def execBar2Write (by_ : Func) (off : BitVec 40) (bytes : List Byte) (ep : Bool) (s : State) :
    Host.Outcome State Fault Refusal :=
  .next (if !s.inBar2 by_ off.toNat then s
    else match s.bar2Target by_ off.toNat bytes.length with
      | some a => s.storeP (s.bar2Part a) a (bytes.map fun b => (b, ep))
      | none => s.barErr by_ off.toNat bytes.length)

/-! ## Leaving commands undone (R386, R442) -/

/-- A fabric operation whose command is gone: what it returns has nowhere to go. -/
def Req.orphan (c : CmdId) (r : Req) : Req :=
  if r.cmd = some c then
    { r with cmd := none, cont := match r.cont with
        | .closeHalf => .closeHalf
        | .repair run => .repair run
        | .mflush run => .mflush run
        | _ => .none }
  else r

/-- What a command has asked of the fabric is dropped where it has not been issued, and goes on without it where it
has. -/
def State.orphan (s : State) (c : CmdId) : State :=
  { s with
    xsends := s.xsends.filter fun e => e.2.cmd != c,
    fabric := { s.fabric with
      waiting := s.fabric.waiting.filter fun r => r.cmd != some c,
      flying := s.fabric.flying.map (Req.orphan c),
      mcRuns := (s.fabric.mcRuns.filter fun r => r.sent || r.cmd != some c).map fun r =>
        if r.cmd = some c then { r with cmd := none } else r } }

/-- A command's items leave every matrix engine; an engine whose pass they were in starts its next item afresh. -/
def State.dropItems (s : State) (c : CmdId) : State :=
  s.mes.foldl (fun s (e, m) =>
    if m.queue.any fun i => i.cmd == c then
      let q := m.queue.filter fun i => i.cmd != c
      if (m.queue.head?.map (·.cmd)) = some c then
        s.onMe e fun m => { MeState.idle with queue := q, active := m.active, shadow := m.shadow }
      else s.onMe e fun m => { m with queue := q }
    else s) s

/-- ME_STATUS of an engine that stops: IDLE, not split into quadrants (R65). -/
def State.meIdle (s : State) (e : Nat) : State :=
  (s.setFld (meStatusOff (e / 12) (e % 12)) 31 30 0).setFld (meStatusOff (e / 12) (e % 12)) 12 12 0

/-- VE_STATUS of an engine that stops (R122). -/
def State.veIdle (s : State) (v : Nat) : State := s.setFld (veStatusOff (v / 2) (v % 2)) 31 30 0

/-- SU_STATUS of a sector unit (R206): as its command has set it, RUN or FAULT, while one holds it; WAIT while an exchange
is open here; else IDLE. -/
def State.suShow (s : State) (n : Nat) : State :=
  if (keyGet s.holders (112 + n)).isSome then s
  else
    match s.exchs.head? with
    | some e => s.setReg (suStatusOff n) (BitVec.ofNat 64
        (2 * 2 ^ 30 + e.part.val * 2 ^ 28 + e.dir.val * 2 ^ 26 + e.exchId.toNat % 2 ^ 16))
    | none => s.setFld (suStatusOff n) 31 30 0

/-- SU_STATUS of every sector unit. -/
def State.suShowAll (s : State) : State := (List.range 8).foldl State.suShow s

/-- VE0 of the lantern where a SPLIT_REDUCE joins, while no list has it. -/
def State.splitUnit (s : State) (c : CmdId) : Option Nat :=
  match (s.cmd c).bind s.splitOf with
  | some d => if (keyGet s.holders (96 + 2 * d.lan)).isNone then some (2 * d.lan) else none
  | none => none

/-- A command gives back its engines, its exchange and its gradient-channel entries, and what it leaves shows that. -/
def State.releaseAll (s : State) (c : CmdId) : State :=
  let mine := fun (e : Nat) => decide (keyGet s.holders e = some c)
  let mes := (List.range 96).filter fun e => mine e || decide (((s.me e).queue.head?.map (·.cmd)) = some c)
  let ves := ((List.range 16).filter fun v => mine (96 + v)) ++ (s.splitUnit c).toList
  let dmas := (List.range 32).filter fun d => mine (120 + d)
  let s := ves.foldl State.veIdle (mes.foldl State.meIdle (s.dropItems c))
  let s := dmas.foldl (fun (s : State) d => s.setFld (galDmaSparseOff (d / 4) (d % 4)) 0 0 0) s
  let s : State := { s with
    holders := s.holders.filter fun h => h.2 != c,
    yielded := s.yielded.filter fun h => h.2 != c,
    exchs := s.exchs.filter fun x => x.cmd != c,
    gcs := (s.gcs.map fun (n, es) => (n, es.filter fun e => e.cmd != c)).filter fun e => !e.2.isEmpty }
  s.suShowAll.gcShowAll

/-- An engine is in FAULT (R63). -/
def State.engineFaulted (s : State) (e : Nat) : Bool :=
  if e < 96 then decide (s.fld (meStatusOff (e / 12) (e % 12)) 31 30 = 3)
  else if e < 112 then decide (s.fld (veStatusOff ((e - 96) / 2) ((e - 96) % 2)) 31 30 = 3)
  else if e < 120 then decide (s.fld (suStatusOff (e - 112)) 31 30 = 3)
  else decide (152 ≤ e)

/-- The engines of a command that has ended are free but for those in FAULT, which wait for its completion (R63, R358). -/
def State.freeEnded (s : State) (c : CmdId) : State :=
  { s with holders := s.holders.filter fun h => h.2 != c || s.engineFaulted h.1 }

/-- One command is abandoned: it ends with ST_ABANDONED. -/
def State.abandonCmd (s : State) (c : CmdId) : State := ((s.orphan c).releaseAll c).endCmd c stAbandoned

/-- Every incomplete command of a partition but `keep` is abandoned (R386, R442, R445, R479), and those that have ended
keep no engine (R358); a step close that a STEP_PLAN owes goes with it. -/
def State.abandon (s : State) (p : Part) (keep : Option CmdId) : State :=
  let all := s.cmds.filter fun x => decide (x.id.func = funcOf p) && decide (some x.id ≠ keep)
  let s := all.foldl (fun s x => if x.phase = .ended then s.freeEnded x.id else s.abandonCmd x.id) s
  let s : State := { s with chainIn := s.chainIn.filter fun e => e.1.func != funcOf p }
  s.onJob p.val fun j => { j with closing := none, heldPlan := none, drain := [], tripSeq := none }

/-! ## Jobs (R442) -/

/-- A job record of a job that opens, with the reports of the latest closed step kept (R449), and the slot tables whose
TOKENS the next STEP_PLAN clears (R185). -/
def Job.fresh (j : Job) : Job :=
  { Job.empty with slotTabs := j.slotTabs, lastPlan := j.lastPlan, lastGate := j.lastGate, lastNorm := j.lastNorm, lastWait := j.lastWait }

/-- The plan in force is cleared (R442). -/
def State.clearPlan (s : State) (p : Part) : State :=
  (s.onJob p.val Job.fresh).setFld (cmdJobStateOff p.val) 4 4 0

/-- OPEN_JOB's effect. -/
def State.openJob (s : State) (p : Part) (det : Bool) : State :=
  ((s.clearPlan p).setFld (cmdJobStateOff p.val) 3 3 (if det then 1 else 0)).setJobState p jRun

/-- CLOSE_JOB's effect (R442), for the command `keep` that asks for it. -/
def State.closeJob (s : State) (p : Part) (keep : Option CmdId) : State :=
  let f := p.val + 1
  let s := ((s.abandon p keep).ringEmpty f 0).ringEmpty f 1
  ((s.clearPlan p).setFld (cmdJobStateOff p.val) 3 3 0).setJobState p jClosed

/-- The slot array and presence bits of the split reductions that a Keeper-enabled partition still collects here are
zeroed: a hold discards open split reductions (R398). -/
def State.discardSplits (s : State) (p : Part) : State :=
  if !s.keeperOn p.val then s
  else s.cmds.foldl (fun s x =>
    if x.id.func = funcOf p then
      match s.splitOf x with
      | some d =>
        if s.here (d.collect / 2 ^ 48) && !s.splitChain p.val d then
          s.store (d.collect % 2 ^ 48) (clean (List.replicate (d.slotBytes + (d.ncon + 7) / 8) 0))
        else s
      | none => s
    else s) s

/-- A job is held: issue stops and every incomplete command is abandoned (R386, R442). -/
def State.holdJob (s : State) (p : Part) (keep : Option CmdId) : State :=
  (((s.slowMark p.val []).discardSplits p).abandon p keep).setJobState p jHeld

/-- Every open job enters FAULT (R441, R442, R479): its incomplete commands end with ST_ABANDONED. -/
def State.faultJobs (s : State) : State :=
  (List.finRange 4).foldl (fun s p =>
    if s.jobState p.val = jClosed then s else (s.abandon p none).setJobState p jFault) s

/-- A command completes with ST_OK. -/
def State.done (s : State) (c : CmdId) : State := s.endCmd c stOk

/-- NOP (R435). -/
def execNop (c : CmdId) (s : State) : Host.Outcome State Fault Refusal :=
  .next (match s.starting c 0x00 with
    | some x => if unusedZero x 0 then s.done c else s.badPacket c
    | none => s)

/-- The values of `n` registers from an offset, with their reads' effects (R448). -/
def State.readRegs (s : State) (ok : RegHit → Bool) : Nat → Nat → List W64 × State
  | 0, _ => ([], s)
  | n + 1, off =>
    let (v, s) := s.read64 ok off
    let (vs, s) := State.readRegs s ok n (off + 8)
    (v :: vs, s)

/-- The parameters of READ_REGS are valid (R435). -/
def Cmd.readRegsOk (x : Cmd) : Bool :=
  decide (x.par 0 % 8 = 0) && decide (x.par 0 < 2 ^ 26) && decide (1 ≤ x.par 1) && decide (x.par 1 < 32) && unusedZero x 2

/-- READ_REGS (R448). -/
def execReadRegs (c : CmdId) (s : State) : Host.Outcome State Fault Refusal :=
  .next (match s.starting c 0x01 with
    | some x =>
      if !x.readRegsOk then s.badPacket c
      else
        let (vs, s) := s.readRegs (mayRead c.func) (x.par 1) (x.par 0)
        (s.mboxResult c x.mbox vs).done c
    | none => s)

/-- The 21 words of a step report (R449). -/
def State.reportWords (s : State) (p : Nat) : List W64 :=
  let j := s.job p
  let w0 := match j.lastPlan with
    | some pl => pl.step.toNat + pl.planId.toNat * 2 ^ 32
    | none => 0
  [BitVec.ofNat 64 w0, j.lastGate, j.lastNorm, s.reg (cmdStepTimeWallOff p), s.reg (cmdStepTimeOwnOff p)] ++
    (List.range 16).map fun i => BitVec.ofNat 64 (j.lastWait.getD i 0)

/-- STEP_REPORT (R449). -/
def execStepReport (c : CmdId) (s : State) : Host.Outcome State Fault Refusal :=
  .next (match s.starting c 0x02 with
    | some x =>
      if unusedZero x 0 then (s.mboxResult c x.mbox (s.reportWords c.p)).done c else s.badPacket c
    | none => s)

/-- OPEN_JOB (R442). -/
def execOpenJob (c : CmdId) (s : State) : Host.Outcome State Fault Refusal :=
  .next (match s.starting c 0x03 with
    | some x =>
      if 2 ≤ x.par 0 ∨ !unusedZero x 1 then s.badPacket c
      else if s.jobState c.p = jClosed then (s.openJob c.part (x.par 0 == 1)).done c
      else s.endCmd c stState
    | none => s)

/-- CLOSE_JOB (R442). -/
def execCloseJob (c : CmdId) (s : State) : Host.Outcome State Fault Refusal :=
  .next (match s.starting c 0x04 with
    | some x =>
      if !unusedZero x 0 then s.badPacket c
      else if s.jobState c.p = jClosed then s.endCmd c stState
      else (s.closeJob c.part (some c)).done c
    | none => s)

/-- HOLD_JOB (R442). -/
def execHoldJob (c : CmdId) (s : State) : Host.Outcome State Fault Refusal :=
  .next (match s.starting c 0x05 with
    | some x =>
      if !unusedZero x 0 then s.badPacket c
      else if s.jobState c.p = jRun then
        ((s.holdJob c.part (some c)).onJob c.p fun j => { j with holdByHost := true }).done c
      else s.endCmd c stState
    | none => s)

/-- RELEASE_JOB (R442): when the hold came from HOLD_JOB. -/
def execReleaseJob (c : CmdId) (s : State) : Host.Outcome State Fault Refusal :=
  .next (match s.starting c 0x06 with
    | some x =>
      if !unusedZero x 0 then s.badPacket c
      else if s.jobState c.p = jHeld ∧ (s.job c.p).holdByHost then
        ((s.onJob c.p fun j => { j with holdByHost := false }).setJobState c.part jRun).done c
      else s.endCmd c stState
    | none => s)

/-! ## PCI Express functions (R417, R418) -/

/-- Registers of a page from an offset up to another take their reset values. -/
def State.resetRegs (s : State) (lo hi : Nat) : State := { s with regs := tblClear s.regs lo hi }

/-- FUNCTION_LEVEL_RESET (R417): a VF's acts as CLOSE_JOB; rings, mailboxes and event ring are reset. -/
def execFunctionLevelReset (page : Func) (s : State) : Host.Outcome State Fault Refusal :=
  let s := match partOf page with
    | some p => if s.jobState p.val = jClosed then s else s.closeJob p none
    | none => s
  let b := 0x1000000 + 0x100000 * page.val
  .next ((s.resetRegs b (b + 0x4000)).onFunc page.val fun fs => { fs with evArm := false, evLost := 0 })

/-- Messages held in the pending bit array leave when nothing masks them any more (assumption 2). -/
def State.msixRelease (s : State) (f : Func) : State :=
  let fs := s.func f.val
  if !fs.msixEn || fs.msixMask then s
  else
    (List.range (msixVectors f.val)).foldl (fun s v =>
      if s.bit (msixPbaOff f.val (v / 64)) (v % 64) && !s.bit (msixCtrlOff f.val v) 0 then
        (s.setFld (msixPbaOff f.val (v / 64)) (v % 64) (v % 64) 0).emit (.msix f v)
      else s) s

/-- BAR2 sizes: 1 GiB to 1 TiB (R418). -/
def barLog2 (n : Nat) : Nat := Nat.max 30 (Nat.min 40 n)

/-- CONFIGURATION_REQUEST (R417, R418): the configuration writes the module acts on. -/
def execConfigurationRequest (w : CfgWrite) (s : State) : Host.Outcome State Fault Refusal :=
  .next (if s.modState < mStandby then s
    else match w with
      | .powerD0 f => s.onFunc f.val fun fs => { fs with d3hot := false }
      | .powerD3hot f => s.onFunc f.val fun fs => { fs with d3hot := true }
      | .bar2Size f n =>
        if f = 0 then s.onFunc 0 fun fs => { fs with bar2 := barLog2 n }
        else [1, 2, 3, 4].foldl (fun s i => s.onFunc i fun fs => { fs with bar2 := barLog2 n }) s
      | .sriovVfEnable on => { s with vfEnable := on }
      | .msixEnable f on => (s.onFunc f.val fun fs => { fs with msixEn := on }).msixRelease f
      | .msixFunctionMask f on => (s.onFunc f.val fun fs => { fs with msixMask := on }).msixRelease f)

end Sys2Proof.Machine
end

