-- ==== Sys2Proof/Machine/Moves.lean ====
section
/-! DEFINITION. WAIT_FLAG, SIGNAL and DMA_COPY (R437, R438). -/

namespace Sys2Proof.Machine

/-! ## WAIT_FLAG (R437) -/

/-- The condition of P2. -/
def flagHolds (op v want : Nat) : Bool :=
  match op with
  | 0 => decide (v = want)
  | 1 => decide (want ≤ v)
  | _ => decide (v ≠ want)

/-- Test the flag at a local offset: a poisoned one bites, one that satisfies the condition ends the command, and
the value read is kept for ST_FLAG_TIMEOUT's DETAIL. -/
def State.flagTest (s : State) (x : Cmd) (a : Nat) : State :=
  let c := x.id
  let (bs, s) := s.load c.p a 8
  if anyPoison bs then (s.bite c.part blkCmd (a / 32 * 32)).endPoison c a
  else
    let v := leNat (plain bs)
    if flagHolds (x.par 2) v (x.par 1) then s.done c
    else s.onCmd c fun y => { y with detail := BitVec.ofNat 64 v }

/-- WAIT_FLAG (R437): the first test. -/
def execWaitFlag (c : CmdId) (s : State) : Host.Outcome State Fault Refusal :=
  .next (match s.starting c 0x11 with
    | none => s
    | some x =>
      match s.localPtr c.p (x.par 0) with
      | none => s.badPacket c
      | some a =>
        if a % 8 ≠ 0 ∨ 3 ≤ x.par 2 ∨ 2 ^ 32 ≤ x.par 3 ∨ !unusedZero x 4 then s.badPacket c
        else match s.refusedGal c.p a 8 with
          | some b => s.endBounds c b
          | none => (s.issued c 1).flagTest x a)

/-- The WAIT_FLAG command that waits under a name, with its flag's offset. -/
def State.flagWaits (s : State) (c : CmdId) : Option (Cmd × Nat) :=
  match s.cmd c with
  | some x =>
    if x.opcode = 0x11 ∧ x.phase = .issued then (s.localPtr c.p (x.par 0)).map fun a => (x, a) else none
  | none => none

/-- WAIT_FLAG_TEST (R437): a write has reached the flag's line. -/
def execWaitFlagTest (c : CmdId) (s : State) : Host.Outcome State Fault Refusal :=
  .next (match s.flagWaits c with
    | some (x, a) => s.flagTest x a
    | none => s)

/-- FLAG_TIMEOUT (R437): the timeout of P3 passes; 0 gives none. -/
def execFlagTimeout (c : CmdId) (s : State) : Host.Outcome State Fault Refusal :=
  .next (match s.flagWaits c with
    | some (x, _) => if x.par 3 = 0 then s else s.endCmd c stFlagTimeout x.detail.toNat
    | none => s)

/-! ## SIGNAL (R437) -/

/-- A traffic class a command may name: 0 or 2. -/
def classField (v : Nat) : Option (Fin 4) := if v = 0 then some 0 else if v = 2 then some 2 else none

/-- A request of a command. -/
def cmdReq (c : CmdId) (ix : Nat) (lan : Lan) (cont : Cont) (pk : Packet) : Req :=
  { pk := pk, cmd := some c, ix := ix, cont := cont, lantern := lan, stripe := none, resends := 0, bounces := 0,
    backoff := false }

/-- A packet to a global address. -/
def pkTo (op : BitVec 6) (tc : Fin 4) (p : Part) (g : Nat) : Packet :=
  { Packet.zero with dst := BitVec.ofNat 16 (g / 2 ^ 48), op := op, tc := tc, part := p, offset := BitVec.ofNat 48 g }

/-- A global address that may be used: not of node 0xFFFF (R271). -/
def globalOk (g : Nat) : Bool := decide (bitsOf g 63 48 ≠ 0xFFFF)

/-- SIGNAL (R437): an 8-byte STORE or a RED ADD UINT64; complete with its reply. -/
def execSignal (c : CmdId) (s : State) : Host.Outcome State Fault Refusal :=
  .next (match s.starting c 0x12 with
    | none => s
    | some x =>
      match classField (bitsOf (x.par 2) 2 1) with
      | none => s.badPacket c
      | some tc =>
        if x.par 0 % 8 ≠ 0 ∨ !globalOk (x.par 0) ∨ 8 ≤ x.par 2 ∨ !unusedZero x 3 then s.badPacket c
        else
          let red := decide (x.par 2 % 2 = 1)
          let pk := pkWith (pkTo (if red then 0x05 else 0x03) tc c.part (x.par 0)) (clean (natLe 8 (x.par 1)))
          let pk := if red then { pk with rop := 0, rtype := BitVec.ofNat 4 Fmt.uint64.code } else pk
          (s.issued c 1).fabIssue [cmdReq c 0 0 .none pk])

/-! ## DMA_COPY (R438) -/

/-- The lantern of the DMA engine that a command holds. -/
def State.dmaLan (s : State) (c : CmdId) : Lan :=
  match s.holders.find? fun h => decide (120 ≤ h.1) && decide (h.1 < 152) && h.2 == c with
  | some (n, _) => Fin.ofNat 8 ((n - 120) / 4)
  | none => 0

/-- The pieces of a copy: none crosses a 128-byte line of its source or its destination (R275). -/
def copyPieces : Nat → Nat → Nat → Nat → List (Nat × Nat × Nat)
  | 0, _, _, _ => []
  | k + 1, a, b, n =>
    if n = 0 then []
    else
      let m := Nat.min n (Nat.min (128 - a % 128) (128 - b % 128))
      (a, b, m) :: copyPieces k (a + m) (b + m) (n - m)

/-- A copy under way: the state, the requests to issue, the multicast data, and whether it has stopped. -/
structure CopyRun where
  s    : State
  reqs : List Req
  mc   : List (Bool × Packet)
  stop : Bool

/-- Where a copy's data goes. -/
inductive CopyDst where
  | host
  | node
  | mcast (run grp : Nat)
  deriving DecidableEq, Repr

/-- What a copy's command fixes. -/
structure CopyCfg where
  c    : CmdId
  tc   : Fin 4
  lan  : Lan
  host : Bool
  dst  : CopyDst
  deriving DecidableEq, Repr

/-- A copy stops at an access outside the partition's regions (R215). -/
def CopyRun.refuse (r : CopyRun) (k : CopyCfg) (ix a : Nat) : CopyRun :=
  { r with s := r.s.opFailed k.c ix stBounds (r.s.globalOf k.c.p a).toNat, stop := true }

/-- A multicast data packet of a run (R293). -/
def mcastPk (s : State) (k : CopyCfg) (grp off : Nat) : Packet :=
  let g := BitVec.ofNat 14 grp
  { Packet.zero with
    dst := 0xFFFF, src := BitVec.ofNat 16 (s.ownNode k.c.p), op := 0x08, tc := k.tc, part := k.c.part,
    ctx := mcHalf k.c.part g, mcg := g, offset := BitVec.ofNat 48 off }

/-- Data that a piece has in hand goes to its destination. -/
def CopyRun.put (r : CopyRun) (k : CopyCfg) (ix b : Nat) (bs : List PByte) : CopyRun :=
  match k.dst with
  | .host => { r with s := r.s.hostPiece k.c ix stOk bs }
  | .mcast _ grp => { r with mc := r.mc ++ [(true, pkWith (mcastPk r.s k grp b) bs)] }
  | .node =>
    if r.s.here (b / 2 ^ 48) then
      match r.s.refused k.c.p (b % 2 ^ 48) bs.length with
      | some a => r.refuse k ix a
      | none => { r with s := r.s.storeP k.c.p (b % 2 ^ 48) bs }
    else { r with reqs := r.reqs ++ [cmdReq k.c ix k.lan .none (pkWith (pkTo 0x03 k.tc k.c.part b) bs)] }

/-- Ask a remote source for a piece. -/
def CopyRun.ask (r : CopyRun) (k : CopyCfg) (ix a b n : Nat) : CopyRun :=
  let pk : Packet := { pkTo 0x00 k.tc k.c.part a with len := BitVec.ofNat 8 n }
  let req := fun (ct : Cont) => { r with reqs := r.reqs ++ [cmdReq k.c ix k.lan ct pk] }
  match k.dst with
  | .host => req .toHost
  | .mcast run grp =>
    let r := req (.mcData run ix)
    { r with mc := r.mc ++ [(false, mcastPk r.s k grp b)] }
  | .node =>
    if r.s.here (b / 2 ^ 48) then
      match r.s.refused k.c.p (b % 2 ^ 48) n with
      | some a => r.refuse k ix a
      | none => req (.toLocal (b % 2 ^ 48))
    else req (.toRemote (BitVec.ofNat 64 b))

/-- One piece of a copy. -/
def CopyRun.piece (k : CopyCfg) (r : CopyRun) (x : Nat × Nat × Nat × Nat) : CopyRun :=
  let (ix, a, b, n) := x
  if r.stop then r
  else if k.host then r.put k ix b (clean (r.s.hostRead a n))
  else if r.s.here (a / 2 ^ 48) then
    match r.s.refused k.c.p (a % 2 ^ 48) n with
    | some a =>
      if k.dst = .host then { r with s := r.s.hostPiece k.c ix stBounds [] } else r.refuse k ix a
    | none =>
      let (bs, s) := r.s.load k.c.p (a % 2 ^ 48) n
      { r with s := s }.put k ix b bs
  else r.ask k ix a b n

/-- P3 is allowed (R438): host flags, MCAST and group, class, and nothing else. -/
def copyFlagsOk (v : Nat) : Bool :=
  let sh := bitOf v 0
  let dh := bitOf v 1
  let mc := bitOf v 2
  decide (v < 2 ^ 20) && !bitOf v 3 && !(sh && dh) && !(mc && dh) && (mc || decide (bitsOf v 17 4 = 0)) &&
    (classField (bitsOf v 19 18)).isSome

/-- Start a copy whose parameters are valid. -/
def State.copy (s : State) (x : Cmd) : State :=
  let c := x.id
  let f := x.par 3
  let grp := bitsOf f 17 4
  let run := s.fabric.nextRun
  let mc := bitOf f 2
  let k : CopyCfg :=
    { c := c, tc := (classField (bitsOf f 19 18)).getD 0, lan := s.dmaLan c, host := bitOf f 0,
      dst := if bitOf f 1 then .host else if mc then .mcast run grp else .node }
  let b := if mc then x.par 1 % 2 ^ 48 else x.par 1
  let ps := copyPieces (x.par 2 / 128 * 2 + 3) (x.par 0) b (x.par 2)
  let s := if k.dst = .host then (s.issued c 1).onCmd c fun y => { y with left := ps.length } else s
  let r := (ps.zipIdx.map fun (p, i) => (i, p)).foldl (CopyRun.piece k) ⟨s, [], [], false⟩
  match k.dst with
  | .host => r.s.fabIssue r.reqs
  | .node => (r.s.issued c r.reqs.length).fabIssue r.reqs
  | .mcast run grp =>
    if r.stop then r.s.issued c 0
    else
      let m : McRun :=
        { id := run, grp := BitVec.ofNat 14 grp, part := c.part, tc := k.tc, cmd := some c, ix := 0, lantern := k.lan,
          data := r.mc, sent := false, members := [], repairs := 0, lost := [] }
      let s := r.s.issued c 1
      let s : State := { s with fabric := { s.fabric with mcRuns := s.fabric.mcRuns ++ [m], nextRun := run + 1 } }
      s.mcStart.fabIssue r.reqs

/-- The module may send to a group: its entry is valid and names it as the root (R343). -/
def State.mayCast (s : State) (grp : Nat) : Bool :=
  s.bit (fabMcgOff grp) 16 && s.here (s.fld (fabMcgOff grp) 15 0)

/-- DMA_COPY's parameter words are valid (R438). -/
def copyParsOk (x : Cmd) : Bool :=
  let f := x.par 3
  copyFlagsOk f && decide (x.par 2 ≠ 0) && decide (x.par 2 < 2 ^ 48) && unusedZero x 4 && (bitOf f 0 || globalOk (x.par 0)) &&
    (bitOf f 1 || bitOf f 2 || globalOk (x.par 1))

/-- DMA_COPY (R438). -/
def execDmaCopy (c : CmdId) (s : State) : Host.Outcome State Fault Refusal :=
  .next (match s.starting c 0x13 with
    | none => s
    | some x =>
      if !copyParsOk x || (bitOf (x.par 3) 2 && !s.mayCast (bitsOf (x.par 3) 17 4)) then s.badPacket c
      else if s.hasYielded c then s
      else s.copy x)

end Sys2Proof.Machine
end

