-- ==== Sys2Proof/Machine/Matrix.lean ====
section
/-! DEFINITION. The matrix engine's arithmetic (R41 to R55, R59, R61) over the entries of a group descriptor table
(R70 to R74), dense, quadrant and structured blocks (R80 to R85), and output fusion. -/

namespace Sys2Proof.Machine

/-! ## Sums (R44 to R46) -/

/-- tree_sum (R46). -/
def treeSum (w : Nat) (vs : List FVal) : FVal :=
  let pos := vs.any (decide <| · = FVal.inf false)
  let neg := vs.any (decide <| · = FVal.inf true)
  if vs.any FVal.isNan || (pos && neg) then .nan false
  else if pos then .inf false
  else if neg then .inf true
  else
    let es := vs.filterMap fun v => match v with
      | .fin s m => if m = 0 then none else some (s, m, floorLog2 m)
      | _ => none
    match es with
    | [] => .zero
    | (_, _, e0) :: t =>
      let u := t.foldl (fun m x => max m x.2.2) e0 - (w : Int)
      let s := es.foldl (fun (a : Int) (neg, m, _) =>
        let k := (m * pow2 (-u)).floor
        if neg then a - k else a + k) 0
      .ofRat ((s : Rat) * pow2 u)

/-- The window width of a group (R44), by elements per position. -/
def groupWindow (pk : Nat) : Nat := if pk = 1 then 48 else if pk = 2 then 32 else 24

/-! ## Table entries (R70, R71) -/

/-- An entry's fields. -/
structure GE where
  ix      : Nat
  m       : Nat
  n       : Nat
  k       : Nat
  flags   : Nat
  wPtr    : Nat
  xPtr    : Nat
  yPtr    : Nat
  fPtr    : Nat
  aPtr    : Nat
  wSc     : Nat
  xSc     : Nat
  ySc     : Nat
  wStride : Nat
  xv      : Nat
  xe      : Nat
  ys      : Nat
  fs      : Nat
  as      : Nat
  wf      : Nat
  xf      : Nat
  yf      : Nat
  ff      : Nat
  ver     : Nat
  fuse    : Nat
  stream  : Nat
  rsvd    : Nat
  wsl     : Nat
  xsl     : Nat
  ysl     : Nat
  fsl     : Nat
  sp      : Nat
  deriving DecidableEq, Repr

/-- Read an entry from its 128 bytes. -/
def GE.ofRaw (ix r : Nat) : GE :=
  let h := fun o => bitsOf r (8 * o + 31) (8 * o)
  let d := fun o => bitsOf r (8 * o + 63) (8 * o)
  let q := fun o => bitsOf r (8 * o + 15) (8 * o)
  let f := fun i => bitsOf (h 0x68) (4 * i + 3) (4 * i)
  { ix := ix, m := h 0, n := h 4, k := h 8, flags := h 0xC, wPtr := d 0x10, xPtr := d 0x18, yPtr := d 0x20,
    fPtr := d 0x28, aPtr := d 0x30, wSc := d 0x38, xSc := d 0x40, ySc := d 0x48, wStride := h 0x50, xv := h 0x54,
    xe := h 0x58, ys := h 0x5C, fs := h 0x60, as := h 0x64, wf := f 0, xf := f 1, yf := f 2, ff := f 3,
    ver := q 0x6A, fuse := bitsOf (d 0x68) 39 32, stream := bitsOf (d 0x68) 55 40, rsvd := bitsOf (d 0x68) 63 56,
    wsl := q 0x70, xsl := q 0x72, ysl := q 0x74, fsl := q 0x76, sp := d 0x78 }

/-- Down mode. -/
def GE.down (e : GE) : Bool := bitOf e.flags 0
/-- QUAD. -/
def GE.quad (e : GE) : Bool := bitOf e.flags 2
/-- ACC_WHOLE. -/
def GE.whole (e : GE) : Bool := bitOf e.flags 3
/-- ACC_LOAD. -/
def GE.accLoad (e : GE) : Bool := bitOf e.flags 4
/-- ACC_MODE. -/
def GE.accMode (e : GE) : Nat := bitsOf e.flags 6 5
/-- SPARSE: 0 DENSE, 1 STRUCT, 2 TILELIST. -/
def GE.sparse (e : GE) : Nat := bitsOf e.flags 10 9
/-- STRUCT. -/
def GE.struct (e : GE) : Bool := decide (e.sparse = 1)
/-- A format field. -/
def fmtOf (c : Nat) : Fmt := (Fmt.ofCode c).getD .fp32
/-- Elements per position, e of R41. -/
def GE.pk (e : GE) : Nat := fmtPack (fmtOf e.wf)
/-- Stored rows of a block: 128 e, or 256 e for a structured block (R41, R82). -/
def GE.span (e : GE) : Nat := (if e.struct then 256 else 128) * e.pk
/-- Reduction passes of a tile (R60). -/
def GE.passes (e : GE) : Nat := if e.down then (e.n + 127) / 128 else (e.k + e.span - 1) / e.span
/-- Output blocks (R60). -/
def GE.obs (e : GE) : Nat := if e.down then (e.k + e.span - 1) / e.span else (e.n + 127) / 128
/-- Outputs of a moving vector over all blocks. -/
def GE.nout (e : GE) : Nat := if e.down then e.k else e.n
/-- The reduction length (R72). -/
def GE.kred (e : GE) : Nat := if e.down then e.n else e.k
/-- Columns of an output block. -/
def GE.obw (e : GE) : Nat := if e.down then e.span else 128
/-- Moving elements of a pass. -/
def GE.redw (e : GE) : Nat := if e.down then 128 else e.span
/-- Columns of output block `ob` that exist. -/
def GE.outs (e : GE) (ob : Nat) : Nat := Nat.min e.obw (e.nout - ob * e.obw)
/-- OP of FUSE. -/
def GE.op (e : GE) : Nat := e.fuse % 4

/-- Rows of a chunk at most (R47, R82). -/
def GE.limit (e : GE) : Nat :=
  let rows := if e.down then 2048 * 128 / e.obw else 2048
  if e.whole then rows else rows / 2

/-! ## Blocks (R72, R82, R84) -/

/-- A stationary block of an entry: its place in W, its tile rows and columns present, where its data and its G4 scales
lie (global addresses and lengths), and its header's index (R84). -/
structure BlockRef where
  kb    : Nat
  nb    : Nat
  mask  : Nat
  data  : Nat × Nat
  sc    : Nat × Nat
  hdr   : Nat
  deriving DecidableEq, Repr

/-- A dense block (kb, nb) (R72); a quadrant's block is read as far as its elements reach (R61). -/
def GE.denseRef (e : GE) (kb nb : Nat) : BlockRef :=
  let kk := Nat.min e.span (e.k - kb * e.span)
  let nn := Nat.min 128 (e.n - nb * 128)
  { kb := kb, nb := nb, mask := 2 ^ 128 - 1,
    data := (e.wPtr + nb * e.wStride + kb * 32768,
      if e.quad then (((kk + e.pk - 1) / e.pk - 1) * 128 + nn) * 2 else 32768),
    sc := (e.wSc + (nb * ((e.k + 511) / 512) + kb) * 2048, if fmtOf e.wf = .g4 then 2048 else 0), hdr := 0 }

/-- What an engine finds when it reads a structured block's header (R85). -/
inductive HdrCheck where
  | ok (r : BlockRef)
  | bounds
  | poisoned
  deriving DecidableEq, Repr

/-- Set bits of a mask among given positions. -/
def countBits (m : Nat) (is : List Nat) : Nat := (is.filter (bitOf m)).length

/-- A block's mask obeys R81. -/
def maskLegal (m : Nat) : Bool :=
  ((List.range 8).all fun u => (List.range 4).all fun g =>
    decide (countBits m ((List.range 4).map fun i => 16 * u + 4 * g + i) ≤ 2)) &&
  ((List.range 16).all fun t => (List.range 2).all fun h =>
    decide (countBits m ((List.range 4).map fun i => 16 * (4 * h + i) + t) ≤ 2))

/-- Read and check the header of structured block (kb, nb) (R84, R85). -/
def GE.structRef (e : GE) (hdr : Nat) (kb nb : Nat) : HdrCheck :=
  let ix := nb * ((e.k + e.span - 1) / e.span) + kb
  let mask := hdr % 2 ^ 128
  let off := bitsOf hdr 159 128
  let cnt := bitsOf hdr 167 160
  let inside := (List.range 128).all fun i =>
    !bitOf mask i || (decide (kb * e.span + i % 16 * 16 * e.pk < e.k) && decide (nb * 128 + i / 16 * 16 < e.n))
  if bitOf hdr 168 then .poisoned
  else if cnt ≠ countBits mask (List.range 128) ∨ !maskLegal mask ∨ e.wStride < off + cnt ∨ !inside then .bounds
  else .ok { kb := kb, nb := nb, mask := mask, data := (e.wPtr + off * 512, cnt * 512),
             sc := (e.wSc + off * 32, if fmtOf e.wf = .g4 then cnt * 32 else 0), hdr := ix }

/-- A loaded block: its reference, its bytes and its scales' bytes with their marks. -/
structure Block where
  ref  : BlockRef
  data : Array PByte
  sc   : Array PByte

/-- Position of a tile among a structured block's stored tiles: u ascending, then t (R84). -/
def tilePos (mask t u : Nat) : Nat := countBits mask (List.range (16 * u + t))

/-- Byte of the position of element (k, n) in the block's data, and of its G4 scale. -/
def Block.at (b : Block) (e : GE) (k n : Nat) : Nat × Nat :=
  if e.struct then
    let h := 16 * e.pk
    let p := tilePos b.ref.mask (k / h) (n / 16)
    (p * 512 + (k % h / e.pk * 16 + n % 16) * 2, p * 32 + n % 16 * 2 + k % h / 32)
  else ((k / e.pk * 128 + n) * 2, n * 16 + k / 32)

/-- A byte with its mark. -/
def byteAt (a : Array PByte) (i : Nat) : PByte := a.getD i (0, false)

/-- The decoded element (k, n) of a block, its block scale applied (R45). -/
def Block.val (b : Block) (e : GE) (k n : Nat) : FVal :=
  let (p, q) := b.at e k n
  let w := (byteAt b.data p).1.toNat + 256 * (byteAt b.data (p + 1)).1.toNat
  let f := fmtOf e.wf
  let c := w >>> (f.bits * (k % e.pk)) % 2 ^ f.bits
  decodeScaled f c 0 (if f = .g4 then scaleExp (byteAt b.sc q).1.toNat else some 0)

/-- Tile (t, u) of the block is present; every tile of a dense block is. -/
def Block.has (b : Block) (e : GE) (t u : Nat) : Bool := !e.struct || bitOf b.ref.mask (16 * u + t)

/-- Rows and columns of a block inside W. -/
def Block.dims (b : Block) (e : GE) : Nat × Nat :=
  (Nat.min e.span (e.k - b.ref.kb * e.span), Nat.min 128 (e.n - b.ref.nb * 128))

/-- Elements from `lo` up, `len` of them, below a limit. -/
def sliceOf (lo len lim : Nat) : List Nat := (List.range (Nat.min len (lim - lo))).map (lo + ·)

/-- The tiles of a block, as (t, u), that hold elements. -/
def Block.tiles (b : Block) (e : GE) : List (Nat × Nat) :=
  let (kk, nn) := b.dims e
  let h := 16 * e.pk
  ((List.range ((nn + 15) / 16)).flatMap fun u => (List.range ((kk + h - 1) / h)).map fun t => (t, u)).filter
    fun x => b.has e x.1 x.2

/-- The global address of the first poisoned sector that holds an element of the block or its scale. -/
def Block.poison (b : Block) (e : GE) : Option Nat :=
  let (kk, nn) := b.dims e
  let h := 16 * e.pk
  if b.data.any (·.2) || b.sc.any (·.2) then
    (b.tiles e).findSome? fun (t, u) => (sliceOf (h * t) h kk).findSome? fun k =>
      (sliceOf (16 * u) 16 nn).findSome? fun n =>
        let (p, q) := b.at e k n
        if (byteAt b.data p).2 then some ((b.ref.data.1 + p) / 32 * 32)
        else if fmtOf e.wf = .g4 && (byteAt b.sc q).2 then some ((b.ref.sc.1 + q) / 32 * 32)
        else none
  else none

/-- The result c of one output of one pass (R43, R46, R82): the group sums of the panes that hold its tiles, combined;
empty slots take no part (assumption 130, DESIGN CHOICE). `x` holds the moving elements of the pass. -/
def Block.sum (b : Block) (e : GE) (x : Array FVal) (o : Nat) : FVal :=
  let (kk, nn) := b.dims e
  let h := 16 * e.pk
  let w := groupWindow e.pk
  if e.down then
    treeSum 48 (((List.range 8).filter (b.has e (o / h))).map fun u =>
      treeSum w ((sliceOf (16 * u) 16 nn).map fun n => (fvMul (b.val e o n) (x.getD n .zero)).1))
  else
    treeSum 48 (((List.range ((kk + h - 1) / h)).filter fun t => b.has e t (o / 16)).map fun t =>
      treeSum w ((sliceOf (h * t) h kk).map fun k => (fvMul (b.val e k o) (x.getD k .zero)).1))

/-! ## Gating (R59) -/

/-- A value is a zero of either sign. -/
def isZero (v : FVal) : Bool :=
  match v with
  | .fin _ m => m == 0
  | _ => false

/-- A value is finite. -/
def isFinite (v : FVal) : Bool :=
  match v with
  | .fin _ _ => true
  | _ => false

/-- Every multiplier of a pane holds its inputs: each position's stationary elements are zero or the broadcast slice
is, and the other operand is finite. A position is the list of its (stationary, moving) pairs. -/
def paneHeld (ps : List (List (FVal × FVal))) : Bool :=
  let slice := ps.all fun p => p.all fun x => isZero x.2
  ps.all fun p =>
    (p.all (fun x => isZero x.1) && p.all fun x => isFinite x.2) || (slice && p.all fun x => isFinite x.1)

/-- Panes of a dense block without elements that do not hold: their broadcast slice holds an infinity or a NaN (R59). The
empty panes of a structured block have no tile row of their own, and hold (assumption 123). -/
def Block.openPanes (b : Block) (e : GE) (x : Array FVal) : Nat :=
  if e.struct then 0
  else
    let (kk, nn) := b.dims e
    let h := 16 * e.pk
    let (w, lim, full) := if e.down then (16, nn, (kk + h - 1) / h) else (h, kk, (nn + 15) / 16)
    let slices := (List.range ((lim + w - 1) / w)).filter fun t =>
      (sliceOf (w * t) w lim).any fun i => !isFinite (x.getD i .zero)
    slices.length * ((if e.quad then 4 else 8) - full)

/-- Panes that hold in one cycle of a pass (R59, R68). A quadrant has 16 panes, an engine 64. A group's cycles
beyond a shorter quadrant's own M count nothing (R68; assumption 65, DESIGN CHOICE). -/
def Block.held (b : Block) (e : GE) (x : Array FVal) : Nat :=
  let (kk, nn) := b.dims e
  let h := 16 * e.pk
  let ts := b.tiles e
  let busy := ts.filter fun (t, u) =>
    !paneHeld ((sliceOf (16 * t) 16 ((kk + e.pk - 1) / e.pk)).flatMap fun i => (sliceOf (16 * u) 16 nn).map fun n =>
      (sliceOf (e.pk * i) e.pk (Nat.min kk (h * (t + 1)))).map fun k =>
        (b.val e k n, x.getD (if e.down then n else k) .zero))
  (if e.quad then 16 else 64) - busy.length - b.openPanes e x

/-! ## Stops -/

/-- Why an engine's work on an entry stops: a status and its DETAIL. -/
structure MStop where
  status : Nat
  detail : Nat
  dform  : Bool
  deriving DecidableEq, Repr

/-- A poisoned operand at a global address. -/
def MStop.poison (g : Nat) : MStop := ⟨stPoison, g, false⟩

/-- A poisoned operand at a local offset. -/
def State.mPoison (s : State) (p a : Nat) : MStop := .poison (s.globalOf p a).toNat

/-- An access outside the partition's regions at a local offset. -/
def State.mBounds (s : State) (p a : Nat) : MStop := ⟨stBounds, (s.globalOf p a).toNat, false⟩

/-- A local pointer's offset. -/
def ptrOff (v : Nat) : Nat := v % 2 ^ 48

/-! ## Moving and fusion operands -/

/-- Read `n` elements of format f from local offset `a`, `stride` bytes apart or packed (0), from element `i0` on: the
codes; bounds before poison at each access. -/
def State.readElems (s : State) (p : Nat) (f : Fmt) (a stride i0 n : Nat) : Except MStop (List Nat) × State :=
  if n = 0 then (.ok [], s)
  else if stride = 0 then
    let lo := a + i0 * f.bits / 8
    let len := (i0 * f.bits % 8 + n * f.bits + 7) / 8
    match s.refusedGal p lo len with
    | some b => (.error (s.mBounds p b), s)
    | none =>
      let (bs, s) := s.load p lo len
      match firstPoison lo bs with
      | some g => (.error (s.mPoison p g), s)
      | none =>
        let arr := (plain bs).toArray
        let code := fun i =>
          if f = .g4 then bitsOf (arr.getD (i / 2) 0).toNat (4 * (i % 2) + 3) (4 * (i % 2))
          else leNat ((List.range f.bytes).map fun j => arr.getD (i * f.bytes + j) 0)
        (.ok ((List.range n).map fun i => code (i + (if f = .g4 then i0 % 2 else 0))), s)
  else
    (List.range n).foldl (fun (r : Except MStop (List Nat) × State) i =>
      match r.1 with
      | .error e => (.error e, r.2)
      | .ok cs =>
        let at_ := a + (i0 + i) * stride
        match r.2.refusedGal p at_ f.bytes with
        | some b => (.error (r.2.mBounds p b), r.2)
        | none =>
          let (bs, s) := r.2.load p at_ f.bytes
          match firstPoison at_ bs with
          | some g => (.error (s.mPoison p g), s)
          | none => (.ok (cs ++ [leNat (plain bs)]), s)) (.ok [], s)

/-- The moving vector of row r in a pass (R43, R72), its block scales applied; or what stops it, of its elements and of its
scales. -/
def State.moving (s : State) (p : Nat) (e : GE) (r pass : Nat) : Except (List MStop) (Array FVal) × State :=
  let f := fmtOf e.xf
  let i0 := pass * e.redw
  let n := Nat.min e.redw (e.kred - i0)
  let (cs, s) := s.readElems p f (ptrOff e.xPtr + r * e.xv) e.xe i0 n
  let (sc, s) := if f = .g4 then
      s.readElems p .e8m0 (ptrOff e.xSc + r * ((e.kred + 31) / 32)) 0 (i0 / 32) ((n + 31) / 32)
    else (.ok [], s)
  match cs, sc with
  | .ok cs, .ok sc =>
    let scs := sc.toArray
    (.ok (cs.mapIdx fun i c =>
      decodeScaled f c 0 (if f = .g4 then scaleExp (scs.getD (i / 32) 127) else some 0)).toArray, s)
  | .error x, .ok _ => (.error [x], s)
  | .ok _, .error y => (.error [y], s)
  | .error x, .error y => (.error [x, y], s)

/-! ## The accumulator (R48 to R51) -/

/-- The accumulator rounding mode of a tile with P passes (R50). -/
def accRound (mode passes threshold : Nat) : Nat :=
  if mode = 0 ∧ threshold ≠ 0xFFFF ∧ threshold < passes then 2 else mode

/-- Add c to a word with one rounding (R48): the word, and whether a finite sum overflowed. -/
def accAdd (a : Option W32) (c : FVal) (mode r : Nat) : W32 × Bool :=
  let v := match a with
    | some a => (fvAdd (Fmt.fp32.decode a.toNat) c 0).1
    | none => c
  let cv := convert v .fp32 mode 0 0 false r
  (BitVec.ofNat 32 cv.code, decide (cv.flags &&& flOverflow ≠ 0))

/-- Where a tile lies and how its words are rounded. -/
structure TileCfg where
  e     : GE
  p     : Part
  ob    : Nat
  row0  : Nat
  rows  : Nat
  mode  : Nat
  seed  : W64
  step  : W32

/-- One pass over a tile (R60): the words after it, whether one overflowed and the pane-cycles held; `old` holds the
words before (none for a first pass from zero). -/
def passRow (t : TileCfg) (b : Block) (pass r : Nat) (x : Array FVal) (old : Nat → Option W32) :
    List W32 × Bool × Nat :=
  let n := t.e.outs t.ob
  let id := tensorId .accum (t.e.stream * 4096 + pass)
  let ws := (List.range n).map fun j =>
    let c := b.sum t.e x j
    let idx := (t.row0 + r) * t.e.nout + t.ob * t.e.obw + j
    accAdd (old (r * n + j)) c t.mode (if t.mode = 2 then srBits t.seed t.step id idx else 0)
  (ws.map (·.1), ws.any (·.2), b.held t.e x)

/-- What a pass leaves: the words of its rows, whether one overflowed, the pane-cycles held, and what stopped it. -/
structure PassRes where
  words  : List W32
  tooBig : Bool
  held   : Nat
  stops  : List MStop

/-- Run one pass of a tile, every moving vector of it (R63): the first of what stops it leaves the accumulator as it is
from there on. A vector that stops counts no held panes, nor does any against a poisoned block (assumption 123). -/
def State.runPass (s : State) (t : TileCfg) (b : Block) (red pass : Nat) (old : Nat → Option W32) (stops : List MStop) :
    PassRes × State :=
  let bad := b.poison t.e
  (List.range t.rows).foldl (fun (a : PassRes × State) r =>
    match a.2.moving t.p.val t.e (t.row0 + r) red with
    | (.error xs, s) => (if a.1.stops.isEmpty then { a.1 with stops := xs } else a.1, s)
    | (.ok x, s) =>
      if bad.isSome then (a.1, s)
      else if a.1.stops.isEmpty then
        let (w, o, h) := passRow t b pass r x old
        ({ a.1 with words := a.1.words ++ w, tooBig := a.1.tooBig || o, held := a.1.held + h }, s)
      else ({ a.1 with held := a.1.held + b.held t.e x }, s))
    (⟨[], false, 0, stops ++ (bad.map MStop.poison).toList⟩, s)

/-- The accumulator-start words of a tile under ACC_LOAD (R48, R72). -/
def State.accStart (s : State) (t : TileCfg) : Except MStop (List W32) × State :=
  let n := t.e.outs t.ob
  (List.range t.rows).foldl (fun (a : Except MStop (List W32) × State) r =>
    match a.1 with
    | .error e => (.error e, a.2)
    | .ok ws =>
      match a.2.readElems t.p.val .fp32 (ptrOff t.e.aPtr + (t.row0 + r) * t.e.as) 0 (t.ob * t.e.obw) n with
      | (.error e, s) => (.error e, s)
      | (.ok cs, s) => (.ok (ws ++ cs.map (BitVec.ofNat 32)), s)) (.ok [], s)

/-! ## Output fusion (R52 to R55) -/

/-- The exact value of one output before its conversion (R53). -/
def fuseVal (e : GE) (sg : Int) (a : W32) (t : Option FVal) : FVal :=
  let v := (Fmt.fp32.decode a.toNat).scale (-sg)
  match t with
  | none => v
  | some t => if e.op = 1 then (fvAdd v t 0).1 else (fvMul v t).1

/-- The values of one row of a tile. -/
def State.fuseRow (s : State) (t : TileCfg) (sg sf : Int) (r : Nat) (ws : List W32) : Except MStop (List FVal) × State :=
  let e := t.e
  if e.op = 0 then (.ok (ws.map fun a => fuseVal e sg a none), s)
  else
    let f := fmtOf e.ff
    match s.readElems t.p.val f (ptrOff e.fPtr + (t.row0 + r) * e.fs) 0 (t.ob * e.obw) ws.length with
    | (.error x, s) => (.error x, s)
    | (.ok cs, s) => (.ok ((ws.zip cs).map fun (a, c) => fuseVal e sg a (some (decodeScaled f c sf (some 0)))), s)

/-- Split a list into runs of `n`. -/
def chunksOf {α : Type} (n : Nat) : Nat → List α → List (List α)
  | 0, _ => []
  | k + 1, l => if l.isEmpty then [] else l.take n :: chunksOf n k (l.drop n)

/-- Convert one row: the codes, the G4 block scales, and what its slot gathers (R53, R54). -/
def fuseConv (e : GE) (sd : Int) (vs : List FVal) (acc : SlotAcc) : List Nat × List Nat × SlotAcc :=
  let f := fmtOf e.yf
  let mode := if bitOf e.flags 7 then 1 else 0
  let amax := bitOf e.fuse 3
  let blocks := if f = .g4 then chunksOf 32 vs.length vs else [vs]
  blocks.foldl (fun (r : List Nat × List Nat × SlotAcc) blk =>
    let xe := if f = .g4 then blockScaleExp (blk.filterMap fun v => match v with
        | .fin _ m => some (m * pow2 sd)
        | _ => none) else 0
    let cs := blk.map fun v => (convert v f mode sd xe (bitOf e.flags 8) 0, v)
    (r.1 ++ cs.map (·.1.code), r.2.1 ++ (if f = .g4 then [scaleCode xe] else []),
      cs.foldl (fun a (c, v) => captureIf amax v (a.conv c)) r.2.2)) ([], [], acc)

/-- The bytes of codes; an odd G4 element leaves the other half of its byte as it was. -/
def codeBytes (f : Fmt) (cs : List Nat) (last : Nat) : List Byte :=
  if f = .g4 then
    (chunksOf 2 cs.length cs).map fun
      | [a, b] => BitVec.ofNat 8 (a + 16 * b)
      | [a] => BitVec.ofNat 8 (a + last / 16 * 16)
      | _ => 0
  else cs.flatMap (natLe f.bytes)

/-- Where row r of a tile's output lies: its elements and, for a G4 output, its block scales, each with its length. -/
def TileCfg.outRow (t : TileCfg) (r : Nat) : (Nat × Nat) × (Nat × Nat) :=
  let e := t.e
  let f := fmtOf e.yf
  let n := e.outs t.ob
  ((ptrOff e.yPtr + (t.row0 + r) * e.ys + t.ob * e.obw * f.bits / 8, (n * f.bits + 7) / 8),
   (ptrOff e.ySc + (t.row0 + r) * ((e.nout + 31) / 32) + t.ob * e.obw / 32, if f = .g4 then (n + 31) / 32 else 0))

/-- The first byte of a tile's output that the partition may not reach. -/
def State.outRefused (s : State) (t : TileCfg) : Option Nat :=
  (List.range t.rows).findSome? fun r =>
    let (y, sc) := t.outRow r
    (s.refusedGal t.p.val y.1 y.2).or (if sc.2 = 0 then none else s.refusedGal t.p.val sc.1 sc.2)

/-- Write one row of outputs and its block scales. The half of a byte that an odd G4 row keeps comes with the partial
write's own read of its sector. -/
def State.fuseWrite (s : State) (t : TileCfg) (r : Nat) (cs scs : List Nat) : State :=
  let f := fmtOf t.e.yf
  let (y, sc) := t.outRow r
  let last := if f = .g4 ∧ cs.length % 2 = 1 then s.peek (y.1 + y.2 - 1) 1 else 0
  let s := s.storeP t.p.val y.1 (clean (codeBytes f cs last))
  if f = .g4 then s.storeP t.p.val sc.1 (clean (scs.flatMap (natLe 1))) else s

/-- Drain a tile through output fusion: the bounds of every row are checked and every fusion operand is read before any
output is written (R63). -/
def State.drain (s : State) (t : TileCfg) (acc : List W32) : List MStop × State :=
  let e := t.e
  let p := t.p.val
  let sg := s.sigmaOf p e.xsl + s.sigmaOf p e.wsl
  let sd := if bitOf e.fuse 2 then s.sigmaOf p e.ysl else 0
  let rows := chunksOf (e.outs t.ob) t.rows acc
  let out := ((s.outRefused t).map (s.mBounds p)).toList
  let (vs, s) := rows.zipIdx.foldl (fun (a : Except MStop (List (List FVal)) × State) (ws, r) =>
    match a.1 with
    | .error x => (.error x, a.2)
    | .ok l => match a.2.fuseRow t sg (s.sigmaOf p e.fsl) r ws with
      | (.error x, s) => (.error x, s)
      | (.ok v, s) => (.ok (l ++ [v]), s)) (.ok [], s)
  match vs, out with
  | .error x, _ => (out ++ [x], s)
  | .ok _, o :: t => (o :: t, s)
  | .ok l, [] =>
    let (acc, s) := l.zipIdx.foldl (fun (a : SlotAcc × State) (v, r) =>
      let (cs, scs, acc) := fuseConv e sd v a.1
      (acc, a.2.fuseWrite t r cs scs)) (SlotAcc.none, s)
    ([], s.slotApply p e.ysl acc)

end Sys2Proof.Machine
end

