-- ==== Sys2Proof/Machine/Grouped.lean ====
section
/-! DEFINITION. RUN_GROUPED (R69, R75, R76, R91): the check of its table and the division of its work, and what each
engine does with its items pass by pass: blocks, versions, sums, output fusion and faults (R58, R60, R63, R78, R90,
R92, R158). -/

namespace Sys2Proof.Machine

/-! ## The check of an entry (R75) -/

/-- The class of a format in the array: elements per position, or 0 outside the three classes (R42). -/
def meClass (c : Nat) : Nat :=
  match Fmt.ofCode c with
  | some .bf16 | some .fp16 | some .mw16 => 1
  | some .e4m3 | some .e5m2 => 2
  | some .g4 => 4
  | _ => 0

/-- A format output fusion writes (R53). -/
def meOut (c : Nat) : Bool := c == 0 || (decide (2 ≤ c) && decide (c ≤ 6))

/-- A format of the fusion operand (R53). -/
def meFuse (c : Nat) : Bool := c == 0 || (decide (2 ≤ c) && decide (c ≤ 5))

/-- Fields, reserved codes and formats. -/
def GE.fieldsOk (e : GE) : Bool :=
  decide (e.n ≠ 0) && decide (e.k ≠ 0) && decide (e.flags < 2048) && !bitOf e.flags 1 && decide (e.rsvd = 0) &&
  decide (e.fuse < 16) && decide (e.op ≠ 3) && decide (e.sparse ≠ 3) && decide (e.accMode ≠ 3) &&
  !(decide (0xFFFC ≤ e.ver) && decide (e.ver ≤ 0xFFFE)) &&
  decide (meClass e.wf ≠ 0) && decide (meClass e.wf = meClass e.xf) && meOut e.yf && decide (e.ff ≤ 12) &&
  (e.op == 0 || meFuse e.ff) && (decide (e.xf ≠ 6) || decide (e.xe = 0)) &&
  (decide (e.fuse / 4 = 0) || decide (e.ysl ≠ 0xFFFF)) && decide (e.sparse = 2 ∨ e.passes ≤ 4096)

/-- Modes: QUAD (R61), tile lists (R75, R89). -/
def GE.modesOk (e : GE) (only : Bool) : Bool :=
  (!e.quad || (!e.down && decide (e.sparse = 0) && decide (e.m ≤ 64 * e.pk) && decide (e.n ≤ 64) &&
    decide (e.k ≤ 64 * e.pk))) &&
  (decide (e.sparse ≠ 2) || (!e.accLoad && !e.down && only))

/-- The pointers that an entry uses and that must be local, with the alignment each needs. -/
def GE.locals (e : GE) : List (Nat × Nat) :=
  [(e.xPtr, (fmtOf e.xf).bytes), (e.yPtr, (fmtOf e.yf).bytes)] ++
    (if e.op = 0 then [] else [(e.fPtr, (fmtOf e.ff).bytes)]) ++
    (if e.accLoad || e.sparse == 2 then [(e.aPtr, 4)] else []) ++ (if e.xf = 6 then [(e.xSc, 1)] else []) ++
    (if e.yf = 6 then [(e.ySc, 1)] else []) ++
    (if e.sparse = 1 then [(e.sp, 32)] else if e.sparse = 2 then [(e.sp, 8)] else [])

/-- Pointers and the stride of W (R72, R75). -/
def GE.ptrsOk (e : GE) (own : Nat) : Bool :=
  (e.locals.all fun (v, al) => decide (v % al = 0) && decide (v / 2 ^ 48 = 0 ∨ v / 2 ^ 48 = own)) &&
  decide (e.wPtr % (if e.struct then 512 else 32768) = 0) && globalOk e.wPtr && (e.wf != 6 || globalOk e.wSc) &&
  (e.struct || decide ((e.k + e.span - 1) / e.span * 32768 ≤ e.wStride))

/-- The fusion operand and the output overlap otherwise than as one tensor updated in place (R55). -/
def GE.overlaps (e : GE) : Bool :=
  let y := ptrOff e.yPtr
  let f := ptrOff e.fPtr
  let len := fun (c st : Nat) => (e.m - 1) * st + (e.nout * (fmtOf c).bits + 7) / 8
  decide (e.op ≠ 0) && decide (0 < e.m) && !(decide (y = f) && decide (e.yf = e.ff) && decide (e.ys = e.fs)) &&
    decide (y < f + len e.ff e.fs) && decide (f < y + len e.yf e.ys)

/-- The scale slots an entry names; an empty entry touches none (R75). -/
def GE.slots (e : GE) : List Nat := if e.m = 0 then [] else [e.wsl, e.xsl, e.ysl, e.fsl].filter (· != 0xFFFF)

/-- An entry is well formed (R75), its slots' poison apart. -/
def State.entryOk (s : State) (p : Nat) (only : Bool) (e : GE) : Bool :=
  e.fieldsOk && e.modesOk only && e.ptrsOk (s.ownNode p) && !e.overlaps && decide (s.checkSlots p e.slots = .ok)

/-! ## Division (R60, R76, R79, R91) -/

/-- Chunks of M rows with at most h each: first row and rows, larger first (R60). -/
def chunkRows (m h : Nat) : List (Nat × Nat) :=
  let n := (m + h - 1) / h
  (List.range n).map fun c => (c * (m / n) + Nat.min c (m % n), m / n + if c < m % n then 1 else 0)

/-- The items of an entry that is not QUAD, with their costs. -/
def entryItems (c : CmdId) (e : GE) (raw : Nat) : List (Nat × Item) :=
  (List.range e.obs).flatMap fun ob => (chunkRows e.m e.limit).map fun (r0, l) =>
    (e.passes * Nat.max l 256, ⟨c, [(e.ix, raw)], ob, r0, l, [], 0⟩)

/-- The items of a table in order: QUAD entries in groups of four at their first entry's place (R76;
empty entries take no place: assumption 65, DESIGN CHOICE). -/
def tableItems (c : CmdId) (es : List (GE × Nat)) : List (Nat × Item) :=
  let quads := es.filter fun x => x.1.quad
  let groups := chunksOf 4 quads.length quads
  es.flatMap fun (e, raw) =>
    if !e.quad then entryItems c e raw
    else match groups.find? fun g => (g.head?.map (·.1.ix)) == some e.ix with
      | some g => [(g.foldl (fun m x => Nat.max m x.1.m) 256, ⟨c, g.map fun x => (x.1.ix, x.2), 0, 0, 0, [], 0⟩)]
      | none => []

/-- The engine with the least cost, the lower index on a tie. -/
def leastLoaded : List (Nat × Nat) → Option Nat
  | [] => none
  | (e, w) :: t => some (t.foldl (fun (b : Nat × Nat) x => if x.2 < b.2 then x else b) (e, w)).1

/-- Assign items in order: each to the engine with the least cost so far (R76). -/
def assignItems (engines : List Nat) (is : List (Nat × Item)) : List (Nat × Item) :=
  (is.foldl (fun (r : List (Nat × Nat) × List (Nat × Item)) x =>
    match leastLoaded r.1 with
    | some e => (r.1.map fun y => if y.1 = e then (e, y.2 + x.1) else y, r.2 ++ [(e, x.2)])
    | none => r) (engines.map fun e => (e, 0), [])).2

/-- Tiles of a list, as (position, row block, reduction block), in the pieces of one engine: consecutive ones of one
row block. -/
def pieceRuns : List (Nat × Nat × Nat) → List (Nat × List (Nat × Nat))
  | [] => []
  | (q, i, j) :: t =>
    match pieceRuns t with
    | (i', js) :: r => if i' = i then (i, (j, q) :: js) :: r else (i, [(j, q)]) :: (i', js) :: r
    | [] => [(i, [(j, q)])]

/-- The share of a tile list that the engine of rank `q` of `n` has, as pieces (R91, R92): one item of work (R78). A
row block without a list entry has none, and its rows of Y stay (R89; assumption 130, DESIGN CHOICE). -/
def listPieces (tiles : List (Nat × Nat)) (n q : Nat) : List TilePiece :=
  let cnt := tiles.length
  let lo := q * cnt / n
  let mine := ((tiles.zipIdx.map fun (t, k) => (k, t)).drop lo).take ((q + 1) * cnt / n - lo)
  let runs := pieceRuns mine
  runs.zipIdx.map fun ((i, js), k) =>
    let all := tiles.filter fun t => t.1 == i
    let first := (tiles.findIdx? fun t => t.1 == i).getD 0
    { rb := i, js := js, before := ((js.head?.map (·.2)).getD 0) - first, total := all.length,
      slot := if js.length = all.length then none else some (2 * q + if k = 0 then 0 else 1) }

/-- The joins a divided list needs (R92). -/
def listJoins (e : GE) (raw : Nat) (shares : List (Nat × List TilePiece)) : List Join :=
  let split := shares.flatMap fun (eng, ps) => ps.filterMap fun t => t.slot.map fun sl => (t.rb, sl, eng)
  split.foldl (fun js (rb, sl, eng) =>
    if js.any fun j => j.rb == rb then js.map fun j => if j.rb = rb then { j with slots := j.slots ++ [sl] } else j
    else js ++ [⟨rb, [sl], eng / 12, (e.ix, raw)⟩]) []

/-! ## RUN_GROUPED (R69, R75) -/

/-- The engines of a RUN_GROUPED command's mask, by ascending global index. -/
def Cmd.meMask (x : Cmd) : List Nat := maskBits 96 (x.par 2 + x.par 3 * 2 ^ 64)

/-- ME_ERR of a matrix engine: set a bit. -/
def State.meErr (s : State) (e b : Nat) : State := s.setBit (meErrOff (e / 12) (e % 12)) b

/-- A command ends before its first pass with an error of its lowest engine (R545). -/
def State.meEnd (s : State) (c : CmdId) (es : List Nat) (b st detail : Nat) (dform : Bool := false) : State :=
  (s.meErr (es.headD 0) b).endCmd c st detail dform

/-- Put an item behind those that an engine has. -/
def State.queueItem (s : State) (e : Nat) (i : Item) : State := s.onMe e fun m => { m with queue := m.queue ++ [i] }

/-- Issue a command's items. -/
def State.issueItems (s : State) (c : CmdId) (is : List (Nat × Item)) (joins : List Join) (slots : List Nat) : State :=
  let s := is.foldl (fun s (e, i) => s.queueItem e i) s
  (s.onCmd c fun x => { x with joins := joins, slots := slots.eraseDups }).issued c (is.length + joins.length)

/-- The list of a TILELIST entry (R89): its (i, j) pairs; or the way the command ends. -/
def State.tileList (s : State) (p : Nat) (e : GE) : Except (Option Nat) (List (Nat × Nat)) × State :=
  let a := ptrOff e.sp
  match s.refusedGal p a 8 with
  | some b => (.error (some b), s)
  | none =>
    let h := s.peek a 8
    let n := h % 2 ^ 32
    match s.refusedGal p a (8 + 8 * n) with
    | some b => (.error (some b), s)
    | none =>
      let ws := (List.range n).map fun q => s.peek (a + 8 + 8 * q) 8
      let s := s.look a (8 + 8 * n)
      let up := (ws.zip (ws.drop 1)).all fun (x, y) => decide (x < y)
      let ts := ws.map fun w => (w / 2 ^ 32, w % 2 ^ 32)
      if 2 ^ 32 ≤ h ∨ !up ∨ ts.any fun t => decide (4096 < (ts.filter fun u => u.1 == t.1).length) then (.error none, s)
      else (.ok ts, s)

/-- Start a checked table's work. -/
def State.startTable (s : State) (c : CmdId) (engines : List Nat) (es : List (GE × Nat)) : State :=
  let live := es.filter fun x => decide (0 < x.1.m)
  let slots := (live.map (·.1.ysl)).filter (· != 0xFFFF)
  match live with
  | [(e, raw)] =>
    if e.sparse = 2 then
      match s.tileList c.p e with
      | (.error none, s) => s.meEnd c engines 0 stMalformed e.ix
      | (.error (some b), s) => s.meEnd c engines 1 stBounds (s.globalOf c.p b).toNat
      | (.ok ts, s) =>
        let shares := engines.zipIdx.map fun (eng, q) => (eng, listPieces ts engines.length q)
        let is := shares.filterMap fun (eng, ps) =>
          if ps.isEmpty then none else some (eng, (⟨c, [(e.ix, raw)], 0, 0, 0, ps, 0⟩ : Item))
        s.issueItems c is (listJoins e raw shares) slots
    else s.issueItems c (assignItems engines (tableItems c live)) [] slots
  | _ => s.issueItems c (assignItems engines (tableItems c live)) [] slots

/-- RUN_GROUPED (R69): read and check every entry, then divide the work. -/
def execRunGrouped (c : CmdId) (s : State) : Host.Outcome State Fault Refusal :=
  .next (match s.starting c 0x20 with
    | none => s
    | some x =>
      let engines := x.meMask
      let n := x.par 1
      match s.localPtr c.p (x.par 0) with
      | none => s.badPacket c
      | some a =>
        if a % 128 ≠ 0 ∨ n = 0 ∨ 4096 < n ∨ 2 ^ 32 ≤ x.par 3 ∨ engines = [] ∨ !unusedZero x 4 then s.badPacket c
        else
          match s.refusedGal c.p a (128 * n) with
          | some b => s.meEnd c engines 1 stBounds (s.globalOf c.p b).toNat
          | none =>
            let es := (List.range n).map fun i => let r := s.peek (a + 128 * i) 128; (GE.ofRaw i r, r)
            let s := (s.look a (128 * n)).lookSlots c.p (es.flatMap fun e => e.1.slots)
            match s.checkSlots c.p (es.flatMap fun e => e.1.slots) with
            | .poison b => s.slotBite c b
            | _ =>
              match es.find? fun e => !s.entryOk c.p (n == 1) e.1 with
              | some e => s.meEnd c engines 0 stMalformed e.1.ix
              | none => s.startTable c engines es)

/-! ## The passes of an item -/

/-- One stationary block with its moving vectors: the entry, the tile, the reduction block and its ordinal in the
tile, the tile's passes, whether it is the tile's first and last, and the scratch slot of a tile-list piece with the list
position. -/
structure PassJob where
  e      : GE
  ob     : Nat
  row0   : Nat
  rows   : Nat
  red    : Nat
  pass   : Nat
  total  : Nat
  first  : Bool
  last   : Bool
  slot   : Option Nat
  pos    : Option Nat

/-- A dense or structured item's pass `i`. -/
def densePass (e : GE) (ob row0 rows i : Nat) : PassJob :=
  { e := e, ob := ob, row0 := row0, rows := rows, red := i, pass := i, total := e.passes, first := i == 0,
    last := i + 1 == e.passes, slot := none, pos := none }

/-- A tile list's tiles for one output block, in list order. -/
def listJobs (e : GE) (ob : Nat) (ps : List TilePiece) : List PassJob :=
  ps.flatMap fun t => t.js.zipIdx.map fun ((j, q), k) =>
    { e := e, ob := ob, row0 := 128 * t.rb, rows := Nat.min 128 (e.m - 128 * t.rb), red := j, pass := t.before + k,
      total := t.total, first := k == 0, last := k + 1 == t.js.length, slot := t.slot, pos := some q }

/-- Consecutive jobs of one reduction block run as one pass (R91). -/
def sameBlock : List PassJob → List (List PassJob)
  | [] => []
  | j :: t => match sameBlock t with
    | (i :: g) :: r => if i.red = j.red then (j :: i :: g) :: r else [j] :: (i :: g) :: r
    | r => [j] :: r

/-- The steps of an item: the quadrants of a QUAD group, one pass of a tile, or one pass of a tile list (R91).
A list tile's pass index is its ordinal among the row block's list tiles (R51; assumption 130, DESIGN CHOICE). -/
def Item.steps (it : Item) : List (List PassJob) :=
  let es := it.entries.map fun (i, r) => GE.ofRaw i r
  match es with
  | [] => []
  | e :: _ =>
    if e.quad then [es.map fun e => densePass e 0 0 e.m 0]
    else if it.pieces.isEmpty then (List.range e.passes).map fun i => [densePass e it.ob it.row0 it.rows i]
    else (List.range e.obs).flatMap fun ob => sameBlock (listJobs e ob it.pieces)

/-- The item is a QUAD group (R76). -/
def Item.quad (it : Item) : Bool := (it.entries.head?.map fun (i, r) => (GE.ofRaw i r).quad).getD false

/-- Rank of a fault among an engine's or a command's (R63). -/
def stopRank (st : Nat) : Nat :=
  if st = stPoison then 0 else if st = stBounds then 1 else if st = stVersionTimeout then 2
  else if st = stMalformed then 3 else 4

/-- A stop with the entry it belongs to. -/
abbrev EntryStop := Nat × MStop

/-- The stop that decides among several (R63, R78). -/
def firstStop : List EntryStop → Option EntryStop
  | [] => none
  | x :: t => some (t.foldl (fun b y =>
      if stopRank y.2.status < stopRank b.2.status ∨ (stopRank y.2.status = stopRank b.2.status ∧ y.1 < b.1) then y
      else b) x)

/-- A matrix engine's STATE. -/
def State.meState (s : State) (e v : Nat) : State := s.setFld (meStatusOff (e / 12) (e % 12)) 31 30 v

/-- What an engine has asked of the fabric for its block is no longer wanted. -/
def State.meForget (s : State) (e : Nat) : State :=
  let mine := fun (r : Req) => match r.cont with
    | .meLoad e' _ => e' == e
    | _ => false
  { s with fabric := { s.fabric with
      waiting := s.fabric.waiting.filter fun r => !mine r,
      flying := s.fabric.flying.map fun r => if mine r then { r with cmd := none, cont := .none } else r } }

/-- An engine that a command holds and that has no more of its items is free and IDLE, unless it is in FAULT (R63). -/
def State.meRelease (s : State) (e : Nat) (c : CmdId) : State :=
  if ((s.me e).queue.any fun i => i.cmd == c) || decide (keyGet s.holders e ≠ some c) || s.engineFaulted e then s
  else ({ s with holders := keyDel s.holders e }).meIdle e

/-- The command whose item an engine runs next: its holder's, else of those that wait the first in the order of grants
(R356). -/
def State.meNext (s : State) (e : Nat) : Option CmdId :=
  match keyGet s.holders e with
  | some c => some c
  | none => (s.me e).queue.foldl (fun b i => match b with
      | none => some i.cmd
      | some c => if s.grantBefore e i.cmd.p c.p then some i.cmd else some c) none

/-- A free engine is granted (R356): the command's items come first, and the first goes on where it yielded. -/
def State.meGrant (s : State) (e : Nat) : State :=
  match keyGet s.holders e, s.meNext e with
  | none, some c =>
    let s := s.onMe e fun m =>
      let q := m.queue.filter (·.cmd == c) ++ m.queue.filter (·.cmd != c)
      { m with queue := q, pass := (q.head?.map (·.start)).getD 0 }
    { s with holders := keySet s.holders e c, grants := keySet s.grants e c.p }
  | _, _ => s

/-- A command's items that have not started leave the other engines (R78), and with them its joins. An engine has started
the first item of the command that it runs next: it takes one as soon as it can. -/
def State.dropUnstarted (s : State) (e : Nat) (c : CmdId) : State :=
  let s := s.mes.foldl (fun s (e', m) =>
    let mine := m.queue.filter fun i => i.cmd == c
    let n := if s.meNext e' = some c then 1 else 0
    if e' = e ∨ mine.length ≤ n then s
    else
      let s := s.onMe e' fun m => { m with queue := mine.take n ++ m.queue.filter fun i => i.cmd != c }
      ((List.range (mine.length - n)).foldl (fun s _ => s.pieceDone c) s).meRelease e' c) s
  let n := ((s.cmd c).map fun x => x.joins.length).getD 0
  (List.range n).foldl (fun s _ => s.pieceDone c) (s.onCmd c fun x => { x with joins := [] })

/-- What one error leaves in ME_ERR, with its bite (R66, R258). -/
def State.meStop (s : State) (e : Nat) (p : Part) (x : MStop) : State :=
  if x.status = stPoison then (s.meErr e 3).biteG p blkMe (BitVec.ofNat 64 x.detail)
  else if x.status = stBounds then s.meErr e 1
  else if x.status = stVersionTimeout then s.meErr e 2
  else s

/-- An engine faults in its front item (R63, R78): every error sets its bit, and the first in R63's order is the command's. -/
def State.meFault (s : State) (e : Nat) (p : Part) (c : CmdId) (xs : List EntryStop) : State :=
  match firstStop xs with
  | none => s
  | some x =>
    let s := xs.foldl (fun s y => s.meStop e p y.2) s
    let s := (s.meForget e).meState e 3
    let gone := ((s.me e).queue.filter fun i => i.cmd == c).length
    let s := s.noteFail c ⟨stopRank x.2.status, x.1, x.2.status, BitVec.ofNat 64 x.2.detail, x.2.dform⟩
    let s := s.onMe e fun m => { MeState.idle with
      queue := m.queue.filter fun i => i.cmd != c, active := m.active, shadow := m.shadow }
    (List.range gone).foldl (fun s _ => s.pieceDone c) (s.dropUnstarted e c)

/-- The engine has finished its front item. -/
def State.itemDone (s : State) (e : Nat) (c : CmdId) : State :=
  ((s.onMe e fun m => { MeState.idle with queue := m.queue.drop 1, active := m.active, shadow := m.shadow }).pieceDone
    c).meRelease e c

/-! ## Stationary blocks (R57, R58, R85, R90, R158) -/

/-- A global address's offset. -/
def gOff (g : Nat) : Nat := g % 2 ^ 48

/-- The reference of a job's block: a list tile outside the tensor and a bad header stop it (R85, R90).
Headers lie in the gallery (R84; assumption 130, DESIGN CHOICE). -/
def State.jobRef (s : State) (p : Nat) (j : PassJob) : Except MStop BlockRef × State :=
  let e := j.e
  let (kb, nb) := if e.down then (j.ob, j.red) else (j.red, j.ob)
  match j.pos with
  | some q =>
    if e.m ≤ j.row0 ∨ (e.k + e.span - 1) / e.span ≤ j.red then
      (.error ⟨stBounds, e.ix * 2 ^ 52 + q, true⟩, s)
    else (.ok (e.denseRef kb nb), s)
  | none =>
    if !e.struct then (.ok (e.denseRef kb nb), s)
    else
      let ix := nb * ((e.k + e.span - 1) / e.span) + kb
      let a := ptrOff e.sp + 32 * ix
      match s.refusedGal p a 32 with
      | some b => (.error (s.mBounds p b), s)
      | none =>
        let (bs, s) := s.load p a 32
        match firstPoison a bs with
        | some g => (.error (s.mPoison p g), s)
        | none =>
          match e.structRef (leNat (plain bs)) kb nb with
          | .ok r => (.ok r, s)
          | .bounds => (.error ⟨stBounds, e.ix * 2 ^ 52 + ix, true⟩, s)
          | .poisoned => (.error (s.mPoison p a), s)

/-- The regions of a block: its data and its scales, where they have bytes. -/
def BlockRef.regions (r : BlockRef) : List (Nat × Nat) := [r.data, r.sc].filter fun x => decide (0 < x.2)

/-- The lines of regions on other nodes: global address and bytes, none across a 128-byte line. -/
def State.remoteLines (s : State) (rs : List BlockRef) : List (Nat × Nat) :=
  (rs.flatMap BlockRef.regions).flatMap fun (a, n) =>
    if s.here (a / 2 ^ 48) then [] else (copyPieces (n / 128 + 2) a a n).map fun (a, _, n) => (a, n)

/-- Ask for the lines of remote blocks (R72, R286). -/
def State.meAsk (s : State) (e : Nat) (c : CmdId) (lines : List (Nat × Nat)) : State :=
  let lan : Lan := Fin.ofNat 8 (e / 12)
  let rs := lines.zipIdx.map fun ((a, n), i) =>
    cmdReq c 0 lan (.meLoad e i) { pkTo 0x01 0 c.part a with len := BitVec.ofNat 8 n }
  ((s.onMe e fun m => { m with lines := [], asked := rs.length, fail := none }).meState e 2).fabIssue rs

/-- The first byte of a block's local regions that the partition may not reach. -/
def State.blockRefused (s : State) (p : Nat) (r : BlockRef) : Option Nat :=
  r.regions.findSome? fun (a, n) => if s.here (a / 2 ^ 48) then s.refused p (gOff a) n else none

/-- The bytes of a region: read here, or what the lines brought. -/
def State.regionBytes (s : State) (p e : Nat) (lines : List (Nat × Nat)) (r : Nat × Nat) : List PByte × State :=
  if r.2 = 0 then ([], s)
  else if s.here (r.1 / 2 ^ 48) then s.loadNoAlloc p (gOff r.1) r.2
  else
    let got := (s.me e).lines
    (lines.zipIdx.flatMap fun ((a, _), i) =>
      if r.1 ≤ a ∧ a < r.1 + r.2 then ((keyGet got i).map (·.1)).getD [] else [], s)

/-- The tags of the granules a block occupied, read after the load (R158). -/
def State.blockTags (s : State) (e : Nat) (lines : List (Nat × Nat)) (r : BlockRef) : List Nat :=
  r.regions.flatMap fun (a, n) =>
    if s.here (a / 2 ^ 48) then
      (List.range ((gOff a + n - 1) / 32768 + 1 - gOff a / 32768)).map fun i =>
        (s.tagAt ((gOff a / 32768 + i) * 32768)).tag.toNat
    else lines.zipIdx.filterMap fun ((b, _), i) =>
      if a ≤ b ∧ b < a + n then (keyGet (s.me e).lines i).map (·.2.toNat) else none

/-- What the tags decide (R158). -/
inductive VerCheck where
  | go
  | wait (tag : Nat)
  | newer (tag : Nat)
  deriving DecidableEq, Repr

/-- All equal V, any newer than V, or a wait. -/
def verCheck (v : Nat) (tags : List Nat) : VerCheck :=
  if v = 0xFFFF then .go
  else match tags.find? fun t => t != 0xFFFF && verNewer v t with
    | some t => .newer t
    | none => match tags.find? (· != v) with
      | some t => .wait t
      | none => .go

/-- DETAIL of ST_VERSION_TIMEOUT (R434). -/
def verDetail (e : GE) (tag : Nat) : Nat := e.ix * 2 ^ 32 + e.ver * 2 ^ 16 + tag

/-! ## Running a pass -/

/-- The tile of a job: its accumulator rounding is chosen before its first pass, and the engine keeps it (R50). -/
def PassJob.tile (j : PassJob) (s : State) (p : Part) (e : Nat) : TileCfg :=
  let pl := (s.job p.val).plan
  { e := j.e, p := p, ob := j.ob, row0 := j.row0, rows := j.rows,
    mode := if j.first then accRound j.e.accMode j.total (s.fld (meLongsumOff (e / 12) p.val) 15 0) else (s.me e).mode,
    seed := pl.elim 0 (·.seed), step := pl.elim 0 (·.step) }

/-- Where a piece's scratch slot for an output block lies (R92; assumption 60). -/
def scratchAt (e : GE) (engines ob slot : Nat) : Nat := ptrOff e.aPtr + (ob * 2 * engines + slot) * 65536

/-- Write a piece of a split row block to its scratch slot: unrounded words, row by row (R92). -/
def State.putPiece (s : State) (t : TileCfg) (at_ : Nat) (acc : List W32) : List MStop × State :=
  let n := t.e.outs t.ob
  match s.refusedGal t.p.val at_ 65536 with
  | some b => ([s.mBounds t.p.val b], s)
  | none =>
    ([], (chunksOf n t.rows acc).zipIdx.foldl (fun s (ws, r) =>
      s.storeP t.p.val (at_ + r * 512) (clean (ws.flatMap fun w => natLe 4 w.toNat))) s)

/-- A pass reads accumulator words that fail parity: each is counted when it is first met (R248, R268). -/
def State.accMet (s : State) (e : Nat) : State :=
  let bad := (s.me e).accBad
  (s.count (galParAccOff (e / 12)) (bad.filter fun x => !x.2).length).onMe e fun m =>
    { m with accBad := bad.map fun x => (x.1, true) }

/-- The words that a tile's pass adds to: those of the pass before, those it loads under ACC_LOAD, or none (R48). -/
def State.accOld (s : State) (e : Nat) (j : PassJob) (t : TileCfg) : Except MStop (Option (List W32)) × State :=
  if !j.first then (.ok (some (s.me e).acc), s.accMet e)
  else
    let s := s.onMe e fun m => { m with accBad := [] }
    if j.e.accLoad then
      match s.accStart t with
      | (.ok ws, s) => (.ok (some ws), s)
      | (.error x, s) => (.error x, s)
    else (.ok none, s)

/-- Run one job on a loaded block: the words, and what stops it (R60, R63). -/
def State.runJob (s : State) (e : Nat) (j : PassJob) (t : TileCfg) (b : Block) : (List W32 × List MStop) × State :=
  let (start, s) := s.accOld e j t
  let (ws, stops) := match start with
    | .ok ws => (ws, [])
    | .error x => (none, [x])
  let arr := (ws.getD []).toArray
  let (res, s) := s.runPass t b j.red j.pass (fun i => if ws.isSome then arr[i]? else none) stops
  let s := if res.tooBig then s.meErr e 4 else s
  let s := if s.bit (meCtrlOff (e / 12) (e % 12)) 0 then s else s.count (meGatedOff (e / 12) (e % 12)) res.held
  ((res.words, res.stops), s)

/-- The poison of a tile at its drain: the sector of the output that a bad accumulator word belongs to (R248; assumption
124). -/
def State.accPoison (s : State) (t : TileCfg) (i : Nat) : MStop :=
  let n := t.e.outs t.ob
  s.mPoison t.p.val (((t.outRow (i / n)).1.1 + i % n * (fmtOf t.e.yf).bits / 8) / 32 * 32)

/-- Drain a job's tile, or write its piece. -/
def State.endJob (s : State) (e engines : Nat) (j : PassJob) (t : TileCfg) (ws : List W32) : List MStop × State :=
  if !j.last then ([], s)
  else match (s.me e).accBad.head?, j.slot with
    | some (i, _), _ => ([s.accPoison t i], s)
    | none, some sl => s.putPiece t (scratchAt j.e engines j.ob sl) ws
    | none, none => s.drain t ws

/-- A job's pass and its tile's end: the words, and what stops it. -/
def State.doJob (s : State) (e engines : Nat) (j : PassJob) (t : TileCfg) (b : Block) : (List W32 × List MStop) × State :=
  let ((ws, xs), s) := s.runJob e j t b
  if !xs.isEmpty then ((ws, xs), s)
  else
    let (xs, s) := s.endJob e engines j t ws
    ((ws, xs), s)

/-- Idle cycles that a pass of `n` vectors costs where issue is withheld or the engine's clock is stretched (R62, R362,
R474, R475). -/
def State.chargePass (s : State) (e : Nat) (x : Cmd) (n : Nat) : State :=
  let (hot, cap) := s.heldCycles x n
  let s := (s.count (cmdIdleMeOff x.id.p 1) hot).count (cmdIdleMeOff x.id.p 2) cap
  if s.meStretched e then s.count (cmdIdleMeOff x.id.p 0) ((n + 1) / 2) else s

/-- Load blocks into the shadow registers, with their scales. -/
def State.loadBlocks (s : State) (p e : Nat) (lines : List (Nat × Nat)) (rs : List BlockRef) : List Block × State :=
  rs.foldl (fun (a : List Block × State) r =>
    let (d, s) := a.2.regionBytes p e lines r.data
    let (c, s) := s.regionBytes p e lines r.sc
    (a.1 ++ [⟨r, d.toArray, c.toArray⟩], s)) ([], s)

/-- The bytes of blocks. -/
def blockBytes (bs : List Block) : List Byte := bs.flatMap fun b => (b.data.toList ++ b.sc.toList).map (·.1)

/-- What becomes of a job whose step is tried: it stops, waits for its version with the DETAIL that its timeout would give,
or goes. -/
inductive JobCheck where
  | stop (x : MStop)
  | wait (detail : Nat)
  | go (b : Block)

/-- A load from a peer that failed stops the jobs whose block lacks a line, at its first line that did not come. -/
def MeState.failStop (m : MeState) (lines : List (Nat × Nat)) (r : BlockRef) : Option MStop :=
  m.fail.bind fun (st, _) => (lines.zipIdx.find? fun ((a, _), i) =>
    (r.regions.any fun (lo, n) => decide (lo ≤ a) && decide (a < lo + n)) && (keyGet m.lines i).isNone).map
      fun ((a, _), _) => ⟨st, a, false⟩

/-- A job against its block: the block's bounds, its load, its version (R58, R63, R158). -/
def State.jobCheck (s : State) (e : Nat) (lines : List (Nat × Nat)) (bs : List Block) (j : PassJob) :
    Except MStop BlockRef → JobCheck
  | .error x => .stop x
  | .ok r =>
    match (s.me e).failStop lines r, bs.find? fun b => b.ref == r with
    | some x, _ => .stop x
    | none, none => .stop ⟨stBounds, r.data.1, false⟩
    | none, some b =>
      match verCheck j.e.ver (s.blockTags e lines r) with
      | .newer t => .stop ⟨stVersionTimeout, verDetail j.e t, false⟩
      | .wait t => .wait (verDetail j.e t)
      | .go => .go b

/-- The references of a step's jobs, their local bytes within the partition's regions. -/
def State.jobRefs (s : State) (p : Nat) (jobs : List PassJob) : List (Except MStop BlockRef) × State :=
  jobs.foldl (fun (a : List (Except MStop BlockRef) × State) j =>
    let (r, s) := a.2.jobRef p j
    let r := match r with
      | .ok b => match s.blockRefused p b with
        | some x => .error (s.mBounds p x)
        | none => .ok b
      | .error x => .error x
    (a.1 ++ [r], s)) ([], s)

/-- What a step has come to: the jobs that ran, each with its place in the step, whether its tile goes on with which words,
and its stops. -/
structure StepRun where
  ran   : List Nat
  acc   : List W32
  mode  : Nat
  stops : List EntryStop

/-- Run a step's jobs that may go. -/
def State.runJobs (s : State) (p : Part) (e engines : Nat) (jobs : List ((PassJob × Nat) × JobCheck)) : StepRun × State :=
  jobs.foldl (fun (a : StepRun × State) ((j, q), k) =>
    match k with
    | .go b =>
      let t := j.tile a.2 p e
      let ((ws, xs), s) := a.2.doJob e engines j t b
      (⟨a.1.ran ++ [q], if j.last then [] else ws, t.mode, a.1.stops ++ xs.map fun x => (j.e.ix, x)⟩, s)
    | .stop x => ({ a.1 with stops := a.1.stops ++ [(j.e.ix, x)] }, a.2)
    | .wait _ => a) (⟨[], [], (s.me e).mode, []⟩, s)

/-- What the passes of a step count (R68): one pass for each quadrant, one for the jobs of a tile list that share theirs;
the panes of a group's unused quadrants hold throughout (R79). How a group counts is the model's choice (assumption 65). -/
def State.countStep (s : State) (e : Nat) (x : Cmd) (it : Item) (ran : List Nat) (rows : List Nat) : State :=
  if ran.isEmpty then s
  else
    let o := (e / 12, e % 12)
    let n := if it.quad then rows.foldl Nat.max 0 else rows.foldl (· + ·) 0
    let idle := if it.quad && ran.contains 0 && !s.bit (meCtrlOff o.1 o.2) 0 then
        (4 - it.entries.length) * 16 * ((it.steps.flatten.map (·.rows)).foldl Nat.max 0) else 0
    (((s.count (mePassesOff o.1 o.2) (if it.quad then ran.length else 1)).count (meGatedOff o.1 o.2) idle)).chargePass e x n

/-- A step's jobs, checked, run: the quadrants that wait hold back neither the others' passes nor their drains
(R79). A quadrant that stops lets those that run with it drain, and those that wait never start (R63; assumption 65, DESIGN
CHOICE). -/
def State.runStep (s : State) (p : Part) (e : Nat) (x : Cmd) (it : Item) (jobs : List ((PassJob × Nat) × JobCheck)) : State :=
  let c := it.cmd
  let goes := jobs.filterMap fun (_, k) => match k with
    | .go b => some b
    | _ => none
  let (r, s) := s.runJobs p e x.meMask.length jobs
  let s := s.countStep e x it r.ran ((jobs.filter fun j => r.ran.contains j.1.2).map (·.1.1.rows))
  let s := if goes.isEmpty then s else s.onMe e fun m =>
    { m with active := if it.quad then blockBytes goes else blockBytes (goes.take 1), shadow := [] }
  let wait := jobs.findSome? fun (_, k) => match k with
    | .wait d => some d
    | _ => none
  if !r.stops.isEmpty then s.meFault e p c r.stops
  else match wait with
    | some d =>
      (s.onMe e fun m => { m with ended := m.ended ++ r.ran, lines := [], fail := none, waiting := some d }).meState e 2
    | none =>
      if (s.me e).pass + 1 = it.steps.length then s.itemDone e c
      else s.onMe e fun m => { m with
        pass := m.pass + 1, acc := r.acc, mode := r.mode, ended := [], lines := [], fail := none, waiting := none }

/-- A step's blocks are loaded, from peers where they lie there, and their versions read; then what may go runs. -/
def State.tryStep (s : State) (p : Part) (e : Nat) (x : Cmd) (it : Item) (jobs : List (PassJob × Nat)) : State :=
  let (rs, s) := s.jobRefs p.val (jobs.map (·.1))
  let ok := (rs.filterMap fun r => match r with
    | .ok b => some b
    | .error _ => none).eraseDups
  let lines := s.remoteLines ok
  if !lines.isEmpty ∧ (s.me e).lines.isEmpty ∧ (s.me e).fail.isNone then s.meAsk e it.cmd lines
  else
    let (bs, s) := s.loadBlocks p.val e lines ok
    let s := s.onMe e fun m => { m with shadow := blockBytes bs }
    s.runStep p e x it ((jobs.zip rs).map fun (j, r) => (j, s.jobCheck e lines bs j.1 r))

/-- ME_STATUS of an engine that runs a step (R65). -/
def State.meShow (s : State) (e : Nat) (it : Item) (jobs : List (PassJob × Nat)) : State :=
  let o := meStatusOff (e / 12) (e % 12)
  let j := jobs.head?.map (·.1)
  ((((s.setFld o 29 28 it.cmd.p).setFld o 27 16 ((j.map (·.e.ix)).getD 0)).setFld o 12 12 (if it.quad then 1 else 0)).setFld
    o 11 0 ((j.map (·.pass)).getD 0)).meState e 1

/-- An engine's next pass (R57, R60): it is granted to the first of the commands that wait for it, and its step is tried
unless all of its issue is withheld (R471). -/
def State.passStep (s : State) (e : Nat) : State :=
  if 0 < (s.me e).asked then s
  else
    let s := s.meGrant e
    match (s.me e).queue.head? with
    | none => s
    | some it =>
      match s.cmd it.cmd with
      | none => s
      | some x =>
        if keyGet s.holders e ≠ some it.cmd then s
        else
          let m := s.me e
          let jobs := (it.steps.getD m.pass []).zipIdx.filter fun j => !m.ended.contains j.2
          let s := s.meShow e it jobs
          if !s.mayIssue x then s.meState e 2 else s.tryStep it.cmd.part e x it jobs

/-- PASS_START (R57): the engine's next pass enters, unless its block waits for its version. -/
def execPassStart (e : MeIx) (s : State) : Host.Outcome State Fault Refusal :=
  let m := s.me e.val
  .next (if m.waiting.isSome ∧ m.lines.isEmpty ∧ m.fail.isNone then s else s.passStep e.val)

/-- VERSION_RECHECK (R158): 256 cycles later the tags are read again, and the block is reloaded. -/
def execVersionRecheck (e : MeIx) (s : State) : Host.Outcome State Fault Refusal :=
  .next (if (s.me e.val).waiting.isSome then s.passStep e.val else s)

/-- VERSION_TIMEOUT (R158): the wait exceeds ME_VERSION_TMO.TIMEOUT; 0 waits without limit (R174). -/
def execVersionTimeout (e : MeIx) (s : State) : Host.Outcome State Fault Refusal :=
  .next (match (s.me e.val).waiting, (s.me e.val).queue with
    | some d, it :: _ =>
      if s.fld (meVersionTmoOff (e.val / 12) it.cmd.p) 15 0 = 0 then s
      else s.meFault e.val it.cmd.part it.cmd [(d / 2 ^ 32, ⟨stVersionTimeout, d, false⟩)]
    | _, _ => s)

/-! ## TILELIST_JOIN (R92) -/

/-- A piece of the row block is still to come from some engine. -/
def State.pieceLeft (s : State) (c : CmdId) (rb : Nat) : Bool :=
  s.mes.any fun (_, m) => m.queue.zipIdx.any fun (i, k) =>
    i.cmd == c && ((i.steps.drop (if k = 0 then Nat.max m.pass i.start else i.start)).any fun js =>
      js.any fun j => j.slot.isSome && j.row0 == 128 * rb)

/-- The words of a scratch slot. -/
def State.getPiece (s : State) (t : TileCfg) (at_ : Nat) : Except MStop (List W32) × State :=
  let n := t.e.outs t.ob
  (List.range t.rows).foldl (fun (a : Except MStop (List W32) × State) r =>
    match a.1 with
    | .error x => (.error x, a.2)
    | .ok ws => match a.2.readElems t.p.val .fp32 (at_ + r * 512) 0 0 n with
      | (.error x, s) => (.error x, s)
      | (.ok cs, s) => (.ok (ws ++ cs.map (BitVec.ofNat 32)), s)) (.ok [], s)

/-- Add two pieces, each word rounded RN to FP32, with the flags raised. -/
def addPieces (a b : List W32) : List W32 × Flags :=
  let rs := (a.zip b).map fun (x, y) =>
    let (v, f) := fvAdd (Fmt.fp32.decode x.toNat) (Fmt.fp32.decode y.toNat) 0
    let (c, f') := rnTo .fp32 v
    (BitVec.ofNat 32 c, invFlag f ||| f')
  (rs.map (·.1), rs.foldl (fun f r => f ||| r.2) 0)

/-- Join one output block of a row block: the pieces in rank order, then output fusion. -/
def State.joinBlock (s : State) (c : CmdId) (e : GE) (engines : Nat) (j : Join) (ob : Nat) : List MStop × State :=
  let t : TileCfg := { e := e, p := c.part, ob := ob, row0 := 128 * j.rb, rows := Nat.min 128 (e.m - 128 * j.rb),
                       mode := 0, seed := 0, step := 0 }
  let (ws, s) := j.slots.foldl (fun (a : Except MStop (Option (List W32)) × State) sl =>
    match a.1 with
    | .error x => (.error x, a.2)
    | .ok acc => match a.2.getPiece t (scratchAt e engines ob sl) with
      | (.error x, s) => (.error x, s)
      | (.ok ws, s) => match acc with
        | none => (.ok (some ws), s)
        | some old =>
          let (sum, f) := addPieces old ws
          (.ok (some sum), (s.veFlag j.lan c.p f).onCmd c fun x => { x with flags := x.flags ||| f })) (.ok none, s)
  match ws with
  | .error x => ([x], s)
  | .ok ws => s.drain t (ws.getD [])

/-- What stops a join: VE0's error bits, the bites, and the command's failure. -/
def State.joinStop (s : State) (c : CmdId) (e : GE) (lan : Nat) (xs : List MStop) : State :=
  let s := xs.foldl (fun (s : State) y =>
    if y.status = stPoison then (s.setBit (veErrOff lan 0) 2).biteG c.part blkVe (BitVec.ofNat 64 y.detail)
    else s.setBit (veErrOff lan 0) 1) s
  match firstStop (xs.map fun y => (e.ix, y)) with
  | some (i, y) => s.noteFail c ⟨stopRank y.status, i, y.status, BitVec.ofNat 64 y.detail, y.dform⟩
  | none => s

/-- VE0 of a lantern may take a command's vector work: no other command holds it, and its issue is not withheld. -/
def State.joinReady (s : State) (x : Cmd) (lan : Nat) : Bool :=
  s.mayIssue x && decide ((keyGet s.holders (96 + 2 * lan)).getD x.id = x.id)

/-- TILELIST_JOIN (R92): VE0 of the lantern of the lowest-ranked contributing engine adds the pieces in ascending rank
and applies output fusion. -/
def execTilelistJoin (c : CmdId) (rowBlock : Nat) (s : State) : Host.Outcome State Fault Refusal :=
  .next (match s.cmd c with
    | none => s
    | some x =>
      match x.joins.find? fun j => j.rb == rowBlock with
      | none => s
      | some j =>
        if s.pieceLeft c rowBlock ∨ !s.joinReady x j.lan then s
        else
          let e := GE.ofRaw j.entry.1 j.entry.2
          let (xs, s) := (List.range e.obs).foldl (fun (a : List MStop × State) ob =>
            if a.1.isEmpty then a.2.joinBlock c e x.meMask.length j ob else a) ([], s)
          ((s.joinStop c e j.lan xs).onCmd c fun x => { x with joins := x.joins.filter fun j => j.rb != rowBlock }).pieceDone c)

end Sys2Proof.Machine
end

