-- ==== Sys2Proof/Machine/Convert.lean ====
section
/-! DEFINITION. DMA_CONVERT (R439, R257): plain, blocked and compressed stores, with the tile rules of R84 to R88 and
the registers of R93 and R94. -/

namespace Sys2Proof.Machine

/-! ## The descriptor (R439) -/

/-- A conversion descriptor. -/
structure ConvDesc where
  src    : Nat
  dst    : Nat
  rows   : Nat
  cols   : Nat
  sst    : Nat
  dstr   : Nat
  sf     : Nat
  df     : Nat
  ssl    : Nat
  dsl    : Nat
  round  : Nat
  inf    : Bool
  comp   : Bool
  mode   : Nat
  blk    : Bool
  rsvd   : Bool
  sc     : Nat
  sp     : Nat
  wTiles : Nat
  deriving DecidableEq, Repr

/-- Read a descriptor from its 64 bytes. -/
def ConvDesc.ofRaw (r : Nat) : ConvDesc :=
  let d := fun o => bitsOf r (8 * o + 63) (8 * o)
  let f := d 0x20
  { src := d 0, dst := d 8, rows := bitsOf (d 0x10) 31 0, cols := bitsOf (d 0x10) 63 32, sst := bitsOf (d 0x18) 31 0,
    dstr := bitsOf (d 0x18) 63 32, sf := bitsOf f 3 0, df := bitsOf f 7 4, ssl := bitsOf f 23 8, dsl := bitsOf f 39 24,
    round := bitsOf f 40 40, inf := bitOf f 41, comp := bitOf f 42, mode := bitsOf f 44 43, blk := bitOf f 45,
    rsvd := decide (bitsOf f 63 46 ≠ 0) || decide (bitsOf (d 0x38) 63 32 ≠ 0), sc := d 0x28, sp := d 0x30,
    wTiles := bitsOf (d 0x38) 31 0 }

/-- The destination's format. -/
def ConvDesc.fmt (d : ConvDesc) : Fmt := fmtOf d.df
/-- The source's format. -/
def ConvDesc.sfmt (d : ConvDesc) : Fmt := fmtOf d.sf
/-- Elements per position of a stationary destination. -/
def ConvDesc.pk (d : ConvDesc) : Nat := fmtPack d.fmt
/-- Rows of a block: 128 e, or 256 e compressed. -/
def ConvDesc.span (d : ConvDesc) : Nat := (if d.comp then 256 else 128) * d.pk
/-- Block rows. -/
def ConvDesc.kbs (d : ConvDesc) : Nat := (d.rows + d.span - 1) / d.span
/-- Block columns. -/
def ConvDesc.nbs (d : ConvDesc) : Nat := (d.cols + 127) / 128

/-- The local pointers that a descriptor uses, with their alignments. -/
def ConvDesc.locals (d : ConvDesc) : List (Nat × Nat) :=
  [(d.src, d.sfmt.bytes), (d.dst, if d.blk then 32768 else if d.comp then 512 else d.fmt.bytes)] ++
    (if d.df = 6 then [(d.sc, 1)] else []) ++ (if d.comp then [(d.sp, 32)] else [])

/-- A descriptor is well formed (R439), its slots apart. -/
def ConvDesc.ok (d : ConvDesc) (own : Nat) : Bool :=
  !d.rsvd && decide (d.sf ≤ 12) && decide (d.df ≤ 12) && decide (d.sf ≠ 6) && decide (d.sf ≠ 8) && decide (d.df ≠ 8) &&
  !(d.comp && d.blk) && decide (d.mode ≠ 3) && (d.comp || d.mode == 0) &&
  (!(d.comp || d.blk) || decide (meClass d.df ≠ 0)) &&
  decide (d.sst % d.sfmt.bytes = 0) && decide (d.dstr % d.fmt.bytes = 0) &&
  (!d.blk || decide (d.kbs * 32768 ≤ d.dstr)) &&
  d.locals.all fun (v, al) => decide (v % al = 0) && decide (v / 2 ^ 48 = 0 ∨ v / 2 ^ 48 = own)

/-! ## The source -/

/-- A source element: its code, and its sector's offset where that is poisoned. -/
abbrev SrcElem := Nat × Option Nat

/-- Read the rows of the source, up to the first byte refused. -/
def State.convRows (s : State) (p : Nat) (d : ConvDesc) : Except Nat (Array (Array SrcElem)) × State :=
  let f := d.sfmt
  (List.range d.rows).foldl (fun (a : Except Nat (Array (Array SrcElem)) × State) r =>
    match a.1 with
    | .error b => (.error b, a.2)
    | .ok rows =>
      let at_ := ptrOff d.src + r * d.sst
      let n := d.cols * f.bytes
      match a.2.refused p at_ n with
      | some b => (.error b, a.2)
      | none =>
        let (bs, s) := a.2.load p at_ n
        let arr := bs.toArray
        let el := fun c =>
          let b := (List.range f.bytes).map fun i => arr.getD (c * f.bytes + i) (0, false)
          (leNat (plain b), if anyPoison b then some ((at_ + c * f.bytes) / 32 * 32) else none)
        (.ok (rows.push ((List.range d.cols).map el).toArray), s)) (.ok #[], s)

/-- Element (r, c) of the source. -/
def srcAt (m : Array (Array SrcElem)) (r c : Nat) : SrcElem := (m.getD r #[]).getD c (0, none)

/-- The exact value of a source code under its tensor scale (R22), an integer's as well (assumption 23). -/
def ConvDesc.value (d : ConvDesc) (sigma : Int) (c : Nat) : FVal :=
  if d.sfmt.isInt then (d.sfmt.value c).scale (-sigma) else decodeScaled d.sfmt c sigma (some 0)

/-! ## Conversion -/

/-- What a conversion uses: the descriptor, the scale exponents, and the source. -/
structure ConvJob where
  d  : ConvDesc
  ss : Int
  sd : Int
  m  : Array (Array SrcElem)

/-- The block scale exponent of G4 elements (R24). -/
def ConvJob.scaleOf (k : ConvJob) (vs : List FVal) : Int :=
  blockScaleExp (vs.filterMap fun v => match v with
    | .fin _ m => some (m * pow2 k.sd)
    | _ => none)

/-- Convert one element with a block scale exponent: its code, and what its slot counts. -/
def ConvJob.elem (k : ConvJob) (xe : Int) (c : Nat) : Nat × SlotAcc :=
  if k.d.fmt.isInt then (Config.dmaInteger k.d.df k.d.sf k.d.round k.ss k.sd c % 2 ^ k.d.fmt.bits, SlotAcc.none)
  else
    let cv := convert (k.d.value k.ss c) k.d.fmt k.d.round k.sd xe k.d.inf 0
    (cv.code, SlotAcc.none.conv cv)

/-- A converted block of elements that share a scale: its elements' places with their codes, and the scale code. -/
structure ConvUnit where
  els : List (Nat × Nat × Nat)
  xc  : Nat
  acc : SlotAcc

/-- Convert the elements at places (r, c) with one scale. -/
def ConvJob.unit (k : ConvJob) (ps : List (Nat × Nat)) : ConvUnit :=
  let xe := if k.d.fmt = .g4 then k.scaleOf (ps.map fun (r, c) => k.d.value k.ss (srcAt k.m r c).1) else 0
  let cs := ps.map fun (r, c) => ((r, c), k.elem xe (srcAt k.m r c).1)
  { els := cs.map fun (p, x) => (p.1, p.2, x.1), xc := scaleCode xe, acc := cs.foldl (fun a x => a.join x.2.2) SlotAcc.none }

/-- Runs of bytes present, with the offset each starts at. -/
def byteRuns : Nat → List (Option Byte) → List (Nat × List Byte)
  | _, [] => []
  | a, none :: t => byteRuns (a + 1) t
  | a, some b :: t =>
    match byteRuns (a + 1) t with
    | (a', bs) :: r => if a' = a + 1 then (a, b :: bs) :: r else (a, [b]) :: (a', bs) :: r
    | [] => [(a, [b])]

/-- Make all writes, unless a byte of one is refused: then none (R215). -/
def State.convWrite (s : State) (p : Nat) (ws : List (Nat × List Byte)) : Except Nat Unit × State :=
  match ws.findSome? fun (a, bs) => s.refused p a bs.length with
  | some b => (.error b, s)
  | none => (.ok (), ws.foldl (fun s (a, bs) => s.storeP p a (clean bs)) s)

/-- A byte of two G4 codes at an address; a code that is not written keeps its half. -/
def nibbles (old : Nat) (lo hi : Option Nat) : Option Byte :=
  match lo, hi with
  | none, none => none
  | _, _ => some (BitVec.ofNat 8 (lo.getD (old % 16) + 16 * hi.getD (old / 16)))

/-! ## Plain and blocked stores -/

/-- How many elements, in row-major order, come before the first whose source is poisoned; its sector. -/
def convCut (d : ConvDesc) (m : Array (Array SrcElem)) : Nat × Option Nat :=
  match (List.range d.rows).findSome? fun r => (List.range d.cols).findSome? fun c =>
      (srcAt m r c).2.map fun g => (r * d.cols + c, g) with
  | some (i, g) => (i, some g)
  | none => (d.rows * d.cols, none)

/-- The writes of row r of a plain store, its first `n` columns. -/
def ConvJob.plainRow (k : ConvJob) (s : State) (r n : Nat) : List (Nat × List Byte) × SlotAcc :=
  let d := k.d
  let f := d.fmt
  let a := ptrOff d.dst + r * d.dstr
  if f = .g4 then
    let us := ((List.range ((d.cols + 31) / 32)).map fun b => sliceOf (32 * b) 32 d.cols).filter fun cs =>
      decide (cs.getLastD 0 < n)
    let us := us.map fun cs => k.unit (cs.map fun c => (r, c))
    let cs := us.flatMap fun u => u.els.map (·.2.2)
    let arr := cs.toArray
    let bytes := (List.range ((cs.length + 1) / 2)).map fun i => nibbles (s.peek (a + i) 1) arr[2 * i]? arr[2 * i + 1]?
    (byteRuns a bytes ++ byteRuns (ptrOff d.sc + r * ((d.cols + 31) / 32)) (us.map fun u => some (BitVec.ofNat 8 u.xc)),
      us.foldl (fun x u => x.join u.acc) SlotAcc.none)
  else
    let us := (List.range n).map fun c => k.unit [(r, c)]
    (byteRuns a ((us.flatMap fun u => u.els.flatMap fun e => natLe f.bytes e.2.2).map some),
      us.foldl (fun x u => x.join u.acc) SlotAcc.none)

/-- A plain store. -/
def ConvJob.plain (k : ConvJob) (s : State) (cut : Nat) : List (Nat × List Byte) × SlotAcc :=
  (List.range k.d.rows).foldl (fun r i =>
    let (ws, a) := k.plainRow s i (Nat.min k.d.cols (cut - i * k.d.cols))
    (r.1 ++ ws, r.2.join a)) ([], SlotAcc.none)

/-- The units of one column of a block, rows `k0` up: those all of whose elements come before the cut. -/
def ConvJob.colUnits (k : ConvJob) (k0 span col cut : Nat) : List ConvUnit :=
  let rs := sliceOf k0 span k.d.rows
  let groups := if k.d.fmt = .g4 then chunksOf 32 rs.length rs else rs.map fun r => [r]
  (groups.filter fun g => decide (g.getLastD 0 * k.d.cols + col < cut)).map fun g => k.unit (g.map fun r => (r, col))

/-- The writes of block (kb, nb) of a blocked store (R72). -/
def ConvJob.block (k : ConvJob) (s : State) (kb nb cut : Nat) : List (Nat × List Byte) × SlotAcc :=
  let d := k.d
  let e := d.pk
  let k0 := kb * d.span
  let cols := ((sliceOf (nb * 128) 128 d.cols).map fun c => k.colUnits k0 d.span c cut).toArray
  let codes := cols.map fun us => ((us.flatMap fun u => u.els.map fun x => x.2.2).toArray : Array Nat)
  let at_ := fun kl n => (codes.getD n #[])[kl]?
  let base := ptrOff d.dst + nb * d.dstr + kb * 32768
  let bytes := (List.range (128 * 128)).flatMap fun q =>
    let n := q % 128
    let kl := q / 128 * e
    if e = 4 then
      [nibbles (s.peek (base + 2 * q) 1) (at_ kl n) (at_ (kl + 1) n),
       nibbles (s.peek (base + 2 * q + 1) 1) (at_ (kl + 2) n) (at_ (kl + 3) n)]
    else if e = 2 then [(at_ kl n).map (BitVec.ofNat 8), (at_ (kl + 1) n).map (BitVec.ofNat 8)]
    else [(at_ kl n).map (BitVec.ofNat 8), (at_ kl n).map fun c => BitVec.ofNat 8 (c / 256)]
  let scs := if d.fmt = .g4 then
      cols.toList.flatMap fun us => (List.range 16).map fun i => (us[i]?).map fun u => BitVec.ofNat 8 u.xc
    else []
  (byteRuns base bytes ++ byteRuns (ptrOff d.sc + (nb * ((d.rows + 511) / 512) + kb) * 2048) scs,
    cols.foldl (fun a us => us.foldl (fun a u => a.join u.acc) a) SlotAcc.none)

/-- A blocked store. -/
def ConvJob.blocked (k : ConvJob) (s : State) (cut : Nat) : List (Nat × List Byte) × SlotAcc :=
  ((List.range k.d.nbs).flatMap fun nb => (List.range k.d.kbs).map fun kb => (kb, nb)).foldl (fun r (kb, nb) =>
    let (ws, a) := k.block s kb nb cut
    (r.1 ++ ws, r.2.join a)) ([], SlotAcc.none)

/-! ## Compressed stores (R84 to R88) -/

/-- A tile of a block: its codes by stored row and column with the scale codes, its squared norm (none above every
finite one), and whether it is present (R80, R86, R87). -/
structure ConvTile where
  t    : Nat
  u    : Nat
  data : List Byte
  sc   : List Byte
  norm : Option Rat
  has  : Bool

/-- Convert tile (t, u) of block (kb, nb), and what its elements count. -/
def ConvJob.tile (k : ConvJob) (kb nb t u : Nat) : ConvTile × SlotAcc :=
  let d := k.d
  let f := d.fmt
  let e := d.pk
  let k0 := kb * d.span + 16 * e * t
  let cols := (List.range 16).map fun n =>
    let c := nb * 128 + 16 * u + n
    if c < d.cols then k.colUnits k0 (16 * e) c (d.rows * d.cols + 1) else []
  let codes := (cols.map fun us => ((us.flatMap fun x => x.els.map fun y => y.2.2).toArray : Array Nat)).toArray
  let at_ := fun kl n => (codes.getD n #[]).getD kl 0
  let data := (List.range 256).flatMap fun q =>
    let n := q % 16
    let kl := q / 16 * e
    natLe 2 ((List.range e).foldl (fun w i => w + at_ (kl + i) n * 2 ^ (f.bits * i)) 0)
  let sc := if f = .g4 then
      cols.flatMap fun us => (List.range 2).map fun i => BitVec.ofNat 8 (((us[i]?).map (·.xc)).getD 0x7F)
    else []
  let vals := cols.flatMap fun us => us.flatMap fun x =>
    x.els.map fun y => decodeScaled f y.2.2 0 (if f = .g4 then scaleExp x.xc else some 0)
  let norm := if vals.all isFinite then some (vals.foldl (fun a v => a + v.rat * v.rat) 0) else none
  ({ t := t, u := u, data := data, sc := sc, norm := norm, has := !vals.all isZero },
    cols.foldl (fun a us => us.foldl (fun a x => a.join x.acc) a) SlotAcc.none)

/-- The larger norm, the lower index on a tie. -/
def ConvTile.above (key : ConvTile → Nat) (a b : ConvTile) : Bool :=
  match a.norm, b.norm with
  | none, none => decide (key a < key b)
  | none, some _ => true
  | some _, none => false
  | some x, some y => decide (y < x) || (decide (x = y) && decide (key a < key b))

/-- Keep the two present tiles of largest norm in each group (R87). -/
def pruneBy (grp key : ConvTile → Nat) (ts : List ConvTile) : List ConvTile :=
  ts.filter fun x => decide (((ts.filter fun y => grp y == grp x).filter fun y => ConvTile.above key y x).length < 2)

/-- PRUNE's two passes over a block's present tiles (R87). -/
def pruneTiles (ts : List ConvTile) : List ConvTile :=
  pruneBy (fun x => x.t * 8 + x.u / 4) (·.u) (pruneBy (fun x => x.u * 8 + x.t / 4) (·.t) ts)

/-- The tiles of the first group that breaks R81, with the two lowest indices (R88): column groups before row groups, ascending
(assumption 130, DESIGN CHOICE). -/
def breaking (ts : List ConvTile) : List (Nat × Nat) :=
  let groups := ((List.range 8).flatMap fun u => (List.range 4).map fun g =>
      ts.filter fun x => decide (x.u = u) && decide (x.t / 4 = g)) ++
    (List.range 16).flatMap fun t => (List.range 2).map fun h =>
      sortBy (fun a b => decide (a.u < b.u)) (ts.filter fun x => decide (x.t = t) && decide (x.u / 4 = h))
  match groups.find? fun g => decide (2 < g.length) with
  | some g => ((sortBy (fun a b => decide (a.t * 8 + a.u < b.t * 8 + b.u)) g).take 2).map fun x => (x.t, x.u)
  | none => []

/-- A compressed store under way: tiles stored, tiles pruned, what the slot counts, and how it has ended. -/
structure CompRun where
  s     : State
  off   : Nat
  gone  : Nat
  acc   : SlotAcc
  stop  : Option (Nat × Nat × Bool)

/-- A block's header (R84). -/
def tileHeader (ts : List ConvTile) (off : Nat) (bad : Bool) : List Byte :=
  natLe 16 (ts.foldl (fun m x => m + 2 ^ (16 * x.u + x.t)) 0) ++ natLe 4 off ++ natLe 1 ts.length ++
    natLe 11 (if bad then 1 else 0)

/-- A block with a poisoned source element: its first poisoned sector. -/
def ConvJob.blockPoison (k : ConvJob) (kb nb : Nat) : Option Nat :=
  (sliceOf (kb * k.d.span) k.d.span k.d.rows).findSome? fun r =>
    (sliceOf (nb * 128) 128 k.d.cols).findSome? fun c => (srcAt k.m r c).2

/-- Write a block's tiles, scales and header; `bad` are the tiles written with the poison mark. -/
def CompRun.write (r : CompRun) (p : Nat) (d : ConvDesc) (ix : Nat) (ts : List ConvTile) (bad : List (Nat × Nat)) :
    CompRun :=
  let a := ptrOff d.dst + r.off * 512
  let sa := ptrOff d.sc + r.off * 32
  let h := ptrOff d.sp + 32 * ix
  let sc := ts.flatMap (·.sc)
  match ((r.s.refused p a (ts.length * 512)).or (r.s.refused p sa sc.length)).or (r.s.refused p h 32) with
  | some b => { r with stop := some (stBounds, (r.s.globalOf p b).toNat, false) }
  | none =>
    let mark := fun (x : ConvTile) (bs : List Byte) => bs.map fun b => (b, bad.contains (x.t, x.u))
    let s := if ts.isEmpty then r.s else r.s.storeP p a (ts.flatMap fun x => mark x x.data)
    let s := if sc.isEmpty then s else s.storeP p sa (clean sc)
    { r with s := s.storeP p h (clean (tileHeader ts r.off (!bad.isEmpty))), off := r.off + ts.length }

/-- One block of a compressed store (R86 to R88). -/
def CompRun.block (p : Nat) (k : ConvJob) (r : CompRun) (b : Nat × Nat) : CompRun :=
  if r.stop.isSome then r
  else
    let (kb, nb) := b
    let d := k.d
    let ix := nb * d.kbs + kb
    match k.blockPoison kb nb with
    | some g => { r with stop := some (stPoison, (r.s.globalOf p g).toNat, false) }
    | none =>
      let all := (List.range 8).flatMap fun u => (List.range 16).map fun t => k.tile kb nb t u
      let acc := all.foldl (fun a x => a.join x.2) r.acc
      let found := (all.map (·.1)).filter (·.has)
      let ts := if d.mode = 1 then pruneTiles found else found
      let r := { r with gone := r.gone + (found.length - ts.length), acc := acc }
      if d.wTiles < r.off + ts.length then { r with stop := some (stBounds, ix, true) }
      else
        let bad := breaking ts
        let r := r.write p d ix ts bad
        if bad.isEmpty || r.stop.isSome then r else { r with stop := some (stSparseStruct, ix, false) }

/-- A compressed store, in ascending header order. -/
def ConvJob.compress (k : ConvJob) (s : State) (p : Nat) : CompRun :=
  ((List.range k.d.nbs).flatMap fun nb => (List.range k.d.kbs).map fun kb => (kb, nb)).foldl (CompRun.block p k)
    ⟨s, 0, 0, SlotAcc.none, none⟩

/-! ## DMA_CONVERT -/

/-- A conversion's poison bites (R257). -/
def State.convPoison (s : State) (c : CmdId) (g : Nat) : State :=
  (s.biteG c.part blkDma (BitVec.ofNat 64 g)).endCmd c stPoison g

/-- The end of a compressed store: its registers (R93, R94), its slot, and its status. -/
def CompRun.finish (r : CompRun) (c : CmdId) (d : ConvDesc) (eng : Nat) : State :=
  let sp := galDmaSparseOff (eng / 4) (eng % 4)
  let s := if r.gone = 0 then r.s else (r.s.setBit sp 1).count (galDmaPrunedOff (eng / 4) (eng % 4)) r.gone
  let s := s.slotApply c.p d.dsl r.acc
  match r.stop with
  | none => (s.onCmd c fun x => { x with detail := BitVec.ofNat 64 r.gone }).issued c 0
  | some (st, det, form) =>
    if st = stPoison then s.convPoison c det
    else (if st = stSparseStruct then s.setBit sp 2 else s).endCmd c st det form

/-- Convert and store, the descriptor checked and the source read. -/
def State.convStore (s : State) (c : CmdId) (k : ConvJob) (eng : Nat) : State :=
  let d := k.d
  if d.comp then (k.compress s c.p).finish c d eng
  else
    let (cut, bite) := convCut d k.m
    let (ws, acc) := if d.blk then k.blocked s cut else k.plain s cut
    match s.convWrite c.p ws with
    | (.error b, s) => s.endBounds c b
    | (.ok _, s) =>
      let s := s.slotApply c.p d.dsl acc
      match bite with
      | some g => s.convPoison c (s.globalOf c.p g).toNat
      | none => s.issued c 0

/-- The engine that makes a conversion: the lowest of its command's mask (assumption 87). -/
def Cmd.convEngine (x : Cmd) : Nat := (maskBits 32 (x.par 1)).headD 0

/-- The command is a store with COMPRESS set, as its descriptor stands. -/
def State.compresses (s : State) (x : Cmd) : Bool :=
  match s.localPtr x.id.p (x.par 0) with
  | some a => (s.refusedGal x.id.p a 64).isNone && (ConvDesc.ofRaw (s.peek a 64)).comp
  | none => false

/-- GAL_DMA_SPARSE.BUSY of the engine of a compressed store, from its start to its end (R93). -/
def State.compBusy (s : State) (x : Cmd) (v : Nat) : State :=
  s.setFld (galDmaSparseOff (x.convEngine / 4) (x.convEngine % 4)) 0 0 v

/-- DMA_CONVERT (R439), once every engine of its mask has it. -/
def execDmaConvert (c : CmdId) (s : State) : Host.Outcome State Fault Refusal :=
  .next (match s.starting c 0x14 with
    | none => s
    | some x =>
      let engines := maskBits 32 (x.par 1)
      if s.hasYielded c then s
      else State.compBusy (x := x) (v := 0) <| match s.localPtr c.p (x.par 0) with
      | none => s.badPacket c
      | some a =>
        if a % 64 ≠ 0 ∨ 2 ^ 32 ≤ x.par 1 ∨ engines = [] ∨ !unusedZero x 2 then s.badPacket c
        else
          match s.refusedGal c.p a 64 with
          | some b => s.endBounds c b
          | none =>
            let d := ConvDesc.ofRaw (s.peek a 64)
            let s := (s.look a 64).lookSlots c.p [d.ssl, d.dsl]
            match s.checkSlots c.p [d.ssl, d.dsl] with
            | .poison b => s.slotBite c b
            | .malformed => s.badPacket c
            | .ok =>
              if !d.ok (s.ownNode c.p) then s.badPacket c
              else
                match s.convRows c.p d with
                | (.error b, s) => s.endBounds c b
                | (.ok m, s) =>
                  let s := s.onCmd c fun y => { y with slots := if d.dsl = 0xFFFF then [] else [d.dsl] }
                  s.convStore c ⟨d, s.sigmaOf c.p d.ssl, s.sigmaOf c.p d.dsl, m⟩ x.convEngine)

end Sys2Proof.Machine
end

