-- ==== Sys2Proof/Machine/Replay.lean ====
section
/-! DEFINITION. Step replay from the journal (R398 to R404): commands made anew, what is restored before a replay,
and its start and end. -/

namespace Sys2Proof.Machine

/-! ## Commands (R427, R470) -/

/-- The energy class of a command, by its opcode and the formats it names (R470); a table that cannot be read counts
as 16-bit. -/
def State.energyOf (s : State) (p : Nat) (words : List W64) : Nat :=
  let w := fun i => (words.getD i 0).toNat
  let op := w 0 % 256
  if op = 0x20 then
    match s.localPtr p (w 2) with
    | some a =>
      if w 3 ≤ 4096 ∧ (s.refusedGal p a (128 * w 3)).isNone then
        if (List.range (w 3)).any fun i => decide (s.peek (a + 128 * i) 4 ≠ 0) &&
            decide (2 ≤ meBits (s.peek (a + 128 * i + 0x68) 1 % 16)) then 3 else 2
      else 2
    | none => 2
  else if op = 0x21 ∨ op = 0x27 then 2
  else if op = 0x13 ∨ op = 0x14 ∨ (0x22 ≤ op ∧ op ≤ 0x25) ∨ 0x30 ≤ op then 1
  else 0
where
  /-- Elements of a format per array position: 1, 2 or 4. -/
  meBits (c : Nat) : Nat :=
    match Fmt.ofCode c with
    | some f => if f.bits ≤ 4 then 4 else if f.bits ≤ 8 then 2 else 1
    | none => 1

/-- A command as it stands when it is consumed. -/
def Cmd.fresh (id : CmdId) (words : List W64) (replay layer : Bool) (energy : Nat) : Cmd :=
  { id := id, words := words, phase := .consumed, replay := replay, energy := energy, flags := 0, pending := 0,
    left := 0, fails := [], status := 0, detail := 0, dform := false, slots := [], layer := layer, got := [],
    joins := [] }

/-- The name of a work command of a partition with these words. -/
def workId (p : Part) (words : List W64) : CmdId := ⟨funcOf p, 0, BitVec.ofNat 32 ((words.getD 0 0).toNat / 2 ^ 32)⟩

/-- The eight words of 64 bytes. -/
def wordsOf (bs : List Byte) : List W64 :=
  (List.range 8).map fun i => BitVec.ofNat 64 (leNat ((bs.drop (8 * i)).take 8))

/-! ## Restoring (R398) -/

/-- TOKENS of the partition's local slot tables are cleared (R185, R436), where the partition still owns them (R215). A
table is kept as its offset times 512 plus its number of entries. -/
def State.tokensClear (s : State) (p : Nat) : State :=
  (s.job p).slotTabs.foldl (fun s t =>
    (List.range (t % 512)).foldl (fun s v =>
      let a := t / 512 + 128 * v + 0x0C
      if (s.refusedGal p a 4).isSome then s else s.poke a 4 0) s) s

/-- One slot's first 8 bytes from a SLOTS record, its counters cleared and HIST[HEAD] +0; a poisoned record marks the slot
(R256). -/
def State.slotRestore (s : State) (p i : Nat) (bs : List PByte) : State :=
  if !s.slotNamed p i then s
  else
    let v := setBits (setBits (leNat (plain bs)) 47 40 0) 51 48 0
    let s := s.store (s.slotAddr p i) ((natLe 8 v).map fun b => (b, anyPoison bs))
    let s := (s.slotPut p i 0x0C 4 0).slotPut p i 0x10 4 0
    s.slotPut p i (0x40 + 4 * bitsOf v 35 32) 4 0

/-- Every slot from a SLOTS record's body. -/
def State.slotsRestore (s : State) (p : Nat) (body : List PByte) : State :=
  (List.range (Nat.min (s.slotCount p) (body.length / 8))).foldl (fun s i =>
    s.slotRestore p i ((body.drop (8 * i)).take 8)) s

/-- The four POOL_COUNT values of a plan block (R436). -/
def planCounts (block : List Byte) : List Nat :=
  (List.range 4).map fun c => leNat ((block.drop (8 + 8 * c)).take 8) % 2 ^ 19

/-- Write pool 0's COUNT fields from a plan (R241), and apply them. -/
def State.poolCounts (s : State) (p : Nat) (counts : List Nat) : State :=
  let s := (List.range 4).foldl (fun s c =>
    s.poolSetSize p 0 c (s.poolCap p 0 c + counts.getD c 0 * 2 ^ 32)) s
  if s.poolOn p 0 then s.poolApply p 0 else s

/-- An enabled pool 0 is initialised again at a plan's sizes, and what its buffers held is gone (R398). -/
def State.poolRestart (s : State) (p : Nat) (counts : List Nat) : State :=
  let s : State := { s with
    parcels := s.parcels.filter fun x => x.part.val != p,
    xallocs := s.xallocs.filter fun x => x.2 != p }
  if s.poolOn p 0 then ((s.poolCounts p counts).poolInit p 0).poolInitEnd p 0 else s

/-- Open exchanges and gradient-channel work are discarded (R398). -/
def State.discardOpen (s : State) (p : Part) : State :=
  { s with
    exchs := s.exchs.filter fun x => x.part != p,
    exchDone := s.exchDone.filter fun x => x.1 != p,
    xsends := s.xsends.filter fun x => x.2.part != p,
    gcIn := s.gcIn.filter fun g => g.part != p,
    gcs := (s.gcs.map fun (n, es) => (n, es.filter fun e => e.cmd.part != p)).filter fun e => !e.2.isEmpty }

/-! ## The Keeper's phase and its end -/

/-- KPR_STATUS.PHASE (R410). -/
def State.setPhase (s : State) (p n : Nat) : State := s.setFld (kprStatusOff p) 5 3 n

/-- KPR_STATUS.PHASE. -/
def State.phase (s : State) (p : Nat) : Nat := s.fld (kprStatusOff p) 5 3

/-- KPR_STATUS.COMMITTED. -/
def State.committed (s : State) (p : Nat) : W32 := BitVec.ofNat 32 (s.fld (kprStatusOff p) 63 32)

/-- Recovery has failed: the job enters FAULT, with EV_KEEPER_FATAL (R384, R392, R397, R405). -/
def State.keeperFatal (s : State) (p : Part) : State :=
  let s := (s.abandon p none).onKpart p.val fun k =>
    { k with takeovers := [], release := none, replan := false, pull := none, replayRecs := [], replayGate := none,
             replayStep := none, diag := false }
  let s := (s.setPhase p.val 0).setFld (kprStatusOff p.val) 6 6 0
  let s := if s.jobState p.val = jClosed then s else s.setJobState p jFault
  s.raise evKeeperFatal (some p)

/-- How many replays of a step the journal holds. -/
def State.replayAttempts (s : State) (p : Nat) (r : W32) : Nat :=
  ((s.kpart p).jRecs.filter fun x =>
    let rec_ := s.jrRead p x.1 x.2
    decide (rec_.ty = jrReplay) && rec_.step == r).length

/-- A step of the journal is r or later. -/
def fromStep (r st : W32) : Bool := decide ((st - r).toNat < 2 ^ 31)

/-- What every replay begins with: the REPLAY record, REPLAYING, KPR_REPLAYS, the commands to re-issue, and a step
that has not yet reached a gate (R396, R399, R416). -/
def State.replayStart (s : State) (p : Part) (r : W32) (cause : Nat) (recs : List Nat) (gate : Option (List Byte))
    (first : Bool) : State :=
  let n := s.replayAttempts p.val r + 1
  let s := (s.discardOpen p).journal p jrReplay r (natLe 4 r.toNat ++ natLe 4 n ++ natLe 8 cause)
  let s := (s.setBit (kprStatusOff p.val) 6).count kprReplaysOff
  let s := s.onKpart p.val fun k =>
    { k with replayRecs := recs, replayGate := gate, replayStep := if first then some r else none,
             diag := decide (cause = 4) }
  let again := ((s.kpart p.val).jSteps.map (·.1)).filter (fromStep r)
  (s.slowMark p.val again).onJob p.val fun j =>
    { j with gate := none, stepTrip := false, drain := [], tripSeq := none, tripped := [], closing := none, marked := [],
             overLimit := false, poolSeen := [] }

/-- A record of a replay: its position and length with what it holds. -/
abbrev PosRec := (Nat × Nat) × JRec

/-- The records of a step and later, as they stand in the ring. -/
def State.replayRecs (s : State) (p : Nat) (r : W32) : List PosRec :=
  (s.jrFrom p r).map fun x => (x, s.jrRead p x.1 x.2)

/-- Begin the replay of step r (R398, R399) for a cause of R405: the slots, pool 0 and TOKENS are restored, and the
PLAN and CMD records from r on will be re-issued, of step r alone where REPLAY_STEP names it (R404). Steps that the journal
does not hold, or of which it lost a record, are fatal (R397). -/
def State.replayBegin (s : State) (p : Part) (r : W32) (cause : Nat) (gate : Option (List Byte)) : State :=
  let replayed := fun (st : W32) => if cause = 4 then st == r else fromStep r st
  let rs := (s.replayRecs p.val r).filter fun x => replayed x.2.step
  let s := s.jrLook p.val (rs.map (·.1))
  match rs.find? fun x => decide (x.2.ty = jrSlots) && x.2.step == r,
        rs.find? fun x => decide (x.2.ty = jrPlan) && x.2.step == r,
        (s.kpart p.val).jLost.any replayed with
  | some (at_, _), some (_, pl), false =>
    let s := s.slotsRestore p.val (((s.readMem (s.jrBase p.val + at_.1 % jrBytes) at_.2).1).drop 16)
    let s := (s.poolRestart p.val (planCounts (pl.body.drop 64))).tokensClear p.val
    let recs := (rs.filter fun x => decide (x.2.ty = jrCmd) || decide (x.2.ty = jrPlan)).map (·.1.1)
    s.replayStart p r cause recs gate true
  | _, _, _ => s.keeperFatal p

/-- The replay of the step in force after a SCALE_REPLAY outcome (R403): without HELD, under the σ that the close has
set. -/
def State.replayScale (s : State) (p : Part) (r : W32) : State :=
  let rs := s.replayRecs p.val r
  let s := s.jrLook p.val (rs.map (·.1))
  match rs.find? fun x => decide (x.2.ty = jrPlan) && x.2.step == r, (s.kpart p.val).jLost.any (fromStep r) with
  | some (_, pl), false =>
    let s := (s.poolRestart p.val (planCounts (pl.body.drop 64))).tokensClear p.val
    let recs := (rs.filter fun x => decide (x.2.ty = jrCmd)).map (·.1.1)
    s.replayStart p r 3 recs none false
  | _, _ => s.keeperFatal p

/-- Copy the slot table to or from the save area of REPLAY_STEP (R404). -/
def State.slotTableCopy (s : State) (p : Nat) (save : Bool) : State :=
  let t := (s.reg (cmdSlotBaseOff p)).toNat % 2 ^ 48
  let d := (s.reg (kprDiagSaveOff p)).toNat % 2 ^ 48
  let n := 128 * s.slotCount p
  let (a, b) := if save then (t, d) else (d, t)
  if (s.refusedGal p t n).isSome ∨ (s.refused p d n).isSome then s
  else
    let (bs, s) := s.readMem a n
    s.store b bs

/-- Some command of a replay is not complete. -/
def State.replayRunning (s : State) (p : Part) : Bool :=
  s.cmds.any fun x => decide (x.id.func = funcOf p) && decide (x.id.ring = 0) && x.replay

/-- The last journaled command has completed: issue goes on from the ring, a diagnosis replay restores the slot table
(R404), and the plan that a scale replay held now closes the step (R403). -/
def State.replayEnd (s : State) (p : Part) : State :=
  let s := s.setFld (kprStatusOff p.val) 6 6 0
  let s := if (s.kpart p.val).diag then s.slotTableCopy p.val false else s
  let s := s.onKpart p.val fun k => { k with replayGate := none, replayStep := none, diag := false }
  s.onJob p.val fun j => { j with closing := j.heldPlan, heldPlan := none }

end Sys2Proof.Machine
end

