-- ==== Sys2Proof/Machine/Scaling.lean ====
section
/-! DEFINITION. Scale slots at a step's close, overflow correction and layer replay (R128 to R133), the update gate
(R136 to R139), and STEP_PLAN with the close of a step (R129, R365, R436). -/

namespace Sys2Proof.Machine

/-! ## Closing slots (R128) -/

/-- The largest integer n with m × 2^(n + headroom) ≤ dmax, for m above 0. -/
def largestExp (m dmax : Rat) (headroom : Nat) : Int := floorLog2 (dmax / m) - headroom

/-- −120 to 120. -/
def clampSigma (v : Int) : Int := max (-120) (min 120 v)

/-- The σ that a close computes. -/
def closeSigma (r : SlotRaw) (failed : Bool) : Int :=
  let hm := (List.range (slHlen r)).foldl (fun (m : Rat) i => max m (Fmt.fp32.decode (slHist r i)).rat) 0
  let dmax := ((Fmt.ofCode (slFmt r)).getD .fp32).maxMag
  let s := if 0 < hm then largestExp hm dmax (slHeadroom r) else slSigma r
  let thr := if failed then 0 else slSatThresh r
  clampSigma (if thr < slSatCount r then min s (slSigma r - (slExcess r + 1)) else s)

/-- The closed slot's 128 bytes. -/
def closeSlot (r : SlotRaw) (failed : Bool) : SlotRaw :=
  let σ := toSext8 (closeSigma r failed)
  let r := if slKind r = 0 then setBits r 7 0 σ else if slKind r = 1 then setBits r 15 8 σ else r
  let head := (slHead r + 1) % slHlen r
  let r := setBits (setBits r 35 32 head) (512 + 32 * head + 31) (512 + 32 * head) 0
  setBits (setBits (setBits (setBits r 127 96 0) 159 128 0) 47 40 0) 51 48 0

/-- Close slot i: one that is invalid or poisoned stays as it is (R129). -/
def State.closeSlot (s : State) (p i : Nat) (failed : Bool) : State :=
  let s := s.lookSlots p [i]
  if s.checkSlots p [i] = .ok then s.poke (s.slotAddr p i) 128 (Machine.closeSlot (s.slot p i) failed) else s

/-- Close every slot of the partition, in ascending number. -/
def State.closeSlots (s : State) (p : Nat) (failed : Bool) : State :=
  (List.range (s.slotCount p)).foldl (fun s i => s.closeSlot p i failed) s

/-- The gate outcome fails the step (R128): NONFINITE, ABSURD or SCALE_REPLAY. -/
def Job.failed (j : Job) : Bool :=
  match j.gate with
  | some g => decide (3 ≤ g.outcome)
  | none => false

/-! ## Trips and layer replay (R130, R131) -/

/-- A slot's place of REPLAYS has reached CMD_SCALE_CTRL.REPLAY_LIMIT. -/
def State.atLimit (s : State) (p i : Nat) : Bool := decide (s.fld (cmdScaleCtrlOff p) 3 0 ≤ slReplays (s.slot p i))

/-- A command has completed: the slots it has raised above their threshold trip (R130). A LAYER slot asks for a
layer replay, unless the unit since the mark is too long, there is no mark, or a tripped slot has reached its limit
(R131); a STEP slot decides the step's gate (R133). -/
def State.tripTest (s : State) (x : Cmd) : State :=
  let p := x.id.p
  let j := s.job p
  let trips := (x.slots.filter fun i => i != 0xFFFF && s.slotNamed p i && !j.tripped.contains i &&
    decide (slSatThresh (s.slot p i) < slSatCount (s.slot p i))).eraseDups
  let layer := trips.filter fun i => slReplay (s.slot p i) == 1
  let s := s.onJob p fun j =>
    { j with tripped := j.tripped ++ trips, stepTrip := j.stepTrip || trips.any fun i => slReplay (s.slot p i) == 2 }
  if layer.isEmpty then s
  else if j.overLimit || j.marked.isEmpty || layer.any (s.atLimit p) then
    s.raise evScaleReplayLimit (some x.id.part) (layer.headD 0)
  else
    s.onJob p fun j =>
      let later := match j.tripSeq with
        | some q => if (x.id.seq - q).toNat < 2 ^ 31 then x.id.seq else q
        | none => x.id.seq
      { j with drain := j.drain ++ layer, tripSeq := some later }

/-- Correct one tripped slot (R131, step 2). -/
def State.layerFix (s : State) (p i : Nat) : State :=
  let r := s.slot p i
  let σ := max (-120) (slSigma r - (slExcess r + 1))
  let r := setBits (setBits (setBits (setBits r 7 0 (toSext8 σ)) 127 96 0) 159 128 0) 47 40 0
  s.poke (s.slotAddr p i) 128 (setBits r 51 48 (Nat.min 15 (slReplays r + 1)))

/-- The commands of the unit, from the mark through the one that tripped. -/
def unitOf (p : Part) (marked : List (List W64)) (last : W32) : List (List W64) :=
  match marked.findIdx? fun w => (workId p w).seq == last with
  | some i => marked.take (i + 1)
  | none => marked

/-- What an exchange command of a partition closes when it ends, as its words and its descriptor name it (R202). -/
def State.exchKey (s : State) (p : Part) (words : List W64) : Option (Part × W32 × W32 × Fin 4) :=
  let w := fun i => (words.getD i 0).toNat
  let op := w 0 % 256
  if op < 0x30 then none
  else (s.localPtr p.val (w 2)).map fun a =>
    (p, BitVec.ofNat 32 (s.peek a 4), BitVec.ofNat 32 (s.peek (a + 4) 4), Fin.ofNat 4 (op - 0x30))

/-- LAYER_REPLAY (R131): no command of the partition runs any more. The replay raises one event, with the lowest slot it
corrects, and counts once. The exchanges of the unit are open to parcels again. -/
def execLayerReplay (p : Part) (s : State) : Host.Outcome State Fault Refusal :=
  let j := s.job p.val
  .next (match j.tripSeq with
    | none => s
    | some last =>
      if s.partRunning p.val || s.cmds.any (fun x => decide (x.id.func = funcOf p) && decide (x.id.ring = 0) &&
          decide (x.phase = .ended)) then s
      else
        let s := j.drain.foldl (fun s i => s.layerFix p.val i) s
        let s := (s.raise evScaleReplay (some p) (j.drain.foldl Nat.min (j.drain.headD 0))).count (cmdScaleReplaysOff p.val)
        let again := (unitOf p j.marked last).map fun w => Cmd.fresh (workId p w) w true true (s.energyOf p.val w)
        let open_ := (unitOf p j.marked last).filterMap (s.exchKey p)
        let s : State := { s with cmds := again ++ s.cmds, exchDone := s.exchDone.filter fun k => !open_.contains k }
        s.onJob p.val fun j =>
          { j with drain := [], tripSeq := none, tripped := j.tripped.filter fun i => !j.drain.contains i })

/-! ## The update gate (R136 to R139) -/

/-- The gate's fixed list in FP32 under RN: the outcome, the norm and the factor, with the flags its two roundings
raise. -/
def gateOf (sq a t : W32) : (Nat × Nat × Nat) × Flags :=
  let v := Fmt.fp32.decode sq.toNat
  match v with
  | .fin sgn m =>
    if sgn && decide (m ≠ 0) then ((3, sq.toNat, 0), 0)
    else
      let (x, f0) := fvSqrt v
      let (g, f1) := rnTo .fp32 x
      let fa := Fmt.fp32.decode a.toNat
      let ft := Fmt.fp32.decode t.toNat
      let fg := Fmt.fp32.decode g
      if fa.rat < fg.rat then ((4, g, 0), f0 ||| f1)
      else if fg.rat ≤ ft.rat then ((1, g, 0x3F800000), f0 ||| f1)
      else
        let (q, f2) := fvDiv ft fg
        let (k, f3) := rnTo .fp32 q
        ((2, g, k), f0 ||| f1 ||| f2 ||| f3)
  | _ => ((3, sq.toNat, 0), 0)

/-- A skipped step counts as committed, after the steps before it (R380). -/
def State.commitSkipped (s : State) (p : Part) (step : W32) : State :=
  if (s.kpart p.val).sendStep.isSome then s.onKpart p.val fun k => { k with skipped := some step }
  else (s.setFld (kprStatusOff p.val) 63 32 step.toNat).journal p jrCommit step []

/-- Record a gate's outcome: the registers, the job's record, the journal, and for a skipped step its counter, event
and, with nothing to mirror, COMMITTED (R136, R139, R380, R396). -/
def State.gateDone (s : State) (c : CmdId) (pl : Plan) (g : GateRes) : State :=
  let p := c.part
  let before := (s.job p.val).failed
  let s := s.setReg (cmdGateStatusOff p.val) (BitVec.ofNat 64 (pl.step.toNat * 2 ^ 32 + g.outcome))
  let s := s.setReg (cmdGateNormOff p.val) (BitVec.ofNat 64 (g.factor.toNat * 2 ^ 32 + g.g.toNat))
  let s := s.onJob p.val fun j => { j with gate := some g }
  let s := s.journal p jrGate pl.step
    (natLe 8 (s.reg (cmdGateStatusOff p.val)).toNat ++ natLe 8 (s.reg (cmdGateNormOff p.val)).toNat ++ natLe 8 g.s.toNat)
  let s := if 3 ≤ g.outcome ∧ !before then
      (s.count (cmdSkippedOff p.val)).raise evStepSkipped (some p) g.outcome (pl.step.toNat + g.s.toNat * 2 ^ 32)
    else s
  let replays := decide (g.outcome = 5) && !(s.job p.val).replayTry
  let s := if s.keeperOn p.val && !(s.kpart p.val).diag && decide (3 ≤ g.outcome) && !replays then s.commitSkipped p pl.step
    else s
  s.endCmd c (if g.outcome ≤ 2 then stOk else stGateFail) (g.outcome * 2 ^ 32 + g.g.toNat)

/-- The outcome of a GATE record that a REPLAY carries (R399). -/
def gateOfRecord (rec_ : List Byte) (seq : W32) : GateRes :=
  let w := fun i => leNat ((rec_.drop (8 * i)).take 8)
  { outcome := w 0 % 16, g := BitVec.ofNat 32 (w 1), factor := BitVec.ofNat 32 (w 1 / 2 ^ 32),
    s := BitVec.ofNat 32 (w 2), seq := seq }

/-- The gate runs on the S it has read (R136): a tripped STEP slot makes the outcome SCALE_REPLAY (R133), a second
one in the replay of the same step raising EV_SCALE_REPLAY_LIMIT (R403). -/
def State.gateRun (s : State) (c : CmdId) (pl : Plan) (sq : W32) : State :=
  let p := c.part
  let ((o, g, k), fl) := gateOf sq pl.absurd pl.clip
  let s := (s.veFlag 0 p.val fl).onCmd c fun x => { x with flags := x.flags ||| fl }
  let trip := (s.job p.val).stepTrip
  let s := if trip && (s.job p.val).replayTry then s.raise evScaleReplayLimit (some p) else s
  s.gateDone c pl { outcome := if trip then 5 else o, g := BitVec.ofNat 32 g,
                    factor := if trip then 0 else BitVec.ofNat 32 k, s := sq, seq := c.seq }

/-- UPDATE_GATE (R136). -/
def execUpdateGate (c : CmdId) (s : State) : Host.Outcome State Fault Refusal :=
  .next (match s.starting c 0x26 with
    | none => s
    | some x =>
      match s.localPtr c.p (x.par 0), (s.job c.p).plan with
      | none, _ => s.badPacket c
      | some _, none => s.endCmd c stState
      | some a, some pl =>
        if a % 4 ≠ 0 ∨ !unusedZero x 1 then s.badPacket c
        else match s.refusedGal c.p a 4 with
          | some b => s.endBounds c b
          | none =>
            match (s.kpart c.p).replayGate, x.replay with
            | some rec_, true => s.gateDone c pl (gateOfRecord rec_ c.seq)
            | _, _ =>
              let (bs, s) := s.load c.p a 4
              if anyPoison bs then ((s.veErr [] 2).bite c.part blkVe (a / 32 * 32)).endPoison c a
              else s.gateRun c pl (BitVec.ofNat 32 (leNat (plain bs))))

/-- UPDATE_PROGRAM_START (R138): the gate that an update program waited for has completed. -/
def updateStart (c : CmdId) (s : State) : State :=
  match s.starting c 0x21 with
  | some x =>
    match s.vectorArgs x with
    | .error f => f s
    | .ok (l, engines) => if l.hdr.update ∧ !s.gatePending c ∧ s.mayIssue x then s.startUpdateList c l engines else s
  | none => s

/-! ## The step plan (R436) and the close (R129) -/

/-- A plan block as read: NVER, the counts, the versions, and the lowest inconsistent entry if any (the block's own
header counts as the packet). -/
def State.planBlock (s : State) (a bytes : Nat) : Except Nat (List Nat × List (Nat × BitVec 16)) :=
  let nver := s.peek a 4
  let head := s.peek a 64
  let rsvd := bitsOf head 63 32 ≠ 0 ∨ (List.range 4).any (fun c => bitsOf head (64 * c + 127) (64 * c + 83) ≠ 0) ∨
    bitsOf head 511 320 ≠ 0
  if rsvd ∨ bytes < 0x40 + 8 * nver then .error detailPacket
  else
    let es := (List.range nver).map fun i => s.peek (a + 0x40 + 8 * i) 8
    let bad := (es.zip (0 :: es)).zipIdx.find? fun ((e, before), i) =>
      decide (bitsOf e 63 48 ≠ 0) || decide (0xFFFC ≤ bitsOf e 47 32) ||
        (decide (0 < i) && decide (e % 2 ^ 32 ≤ before % 2 ^ 32))
    match bad with
    | some (_, i) => .error i
    | none => .ok (planCounts (natLe 64 head), es.map fun e => (e % 2 ^ 32, BitVec.ofNat 16 (e / 2 ^ 32)))

/-- A and T are allowed (R136): finite, T above 0, A not below T. -/
def limitsOk (a t : Nat) : Bool :=
  match Fmt.fp32.decode a, Fmt.fp32.decode t with
  | .fin sa ma, .fin st mt => !st && decide (0 < mt) && !sa && decide (mt ≤ ma)
  | _, _ => false

/-- The local offset of a STEP_PLAN's block: P3's, or where its journal record holds it when it is re-issued. -/
def State.planAt (s : State) (x : Cmd) : Option Nat := if x.replay ∧ !x.layer then some x.left else s.localPtr x.id.p (x.par 3)

/-- Bytes 0x00 to 0x07 of every slot, with their marks (R256, R396). -/
def State.slotHeads (s : State) (p : Nat) : List PByte × State :=
  (List.range (s.slotCount p)).foldl (fun (a : List PByte × State) i =>
    let (bs, s) := a.2.readMem (s.slotAddr p i) 8
    (a.1 ++ bs, s)) ([], s)

/-- Put a plan in force (R436): the pool counts, TOKENS, the plan and its flag, the SLOTS and PLAN records (a replay
journals neither again), the step's clocks; a HELD_REPLAN partition runs again (R442). -/
def State.acceptPlan (s : State) (p : Part) (c : Closing) : State :=
  let old := (s.job p.val).plan.map (·.planId)
  let s := (s.poolCounts p.val c.counts).tokensClear p.val
  let s : State := { s with exchDone := s.exchDone.filter fun x =>
    x.1 != p || (some x.2.2.1 == old && x.2.2.1 != c.plan.planId) }
  let s := (s.onJob p.val fun j =>
    { j with plan := some c.plan, closing := none, gate := none, stepTrip := false, replayTry := false, tripped := [],
             marked := [], overLimit := false, poolSeen := [], stepStart := (s.reg modTimeOff).toNat,
             waitStart := (List.range 16).map fun i => (s.reg (cmdWaitOff p.val i)).toNat }).setBit (cmdJobStateOff p.val) 4
  let s := if c.replay then s.onKpart p.val fun k =>
      { k with replayStep := none, replayGate := if k.replayStep.isSome then k.replayGate else none }
    else
      let (slots, s) := s.slotHeads p.val
      let s := s.journalWith p jrSlots c.plan.step none slots
      let words := ((s.cmd c.cmd).map (·.words)).getD []
      let (block, s) := s.readMem c.plan.ptr c.plan.bytes
      s.journalWith p jrPlan c.plan.step none (clean (words.flatMap fun w => natLe 8 w.toNat) ++ block)
  let s := s.slowForce p c.plan.step
  let s := if s.jobState p.val = jReplan then s.setJobState p jRun else s
  s.done c.cmd

/-- Causes that are a module's waiting for others (R365). -/
def externalCauses : List Nat := [5, 6, 7, 8, 9, 14, 15]

/-- The step's times and the values that STEP_REPORT gives (R365, R372, R449). -/
def State.stepTimes (s : State) (p : Part) (pl : Plan) : State :=
  let j := s.job p.val
  let wall := (s.reg modTimeOff).toNat - j.stepStart
  let waits := (List.range 16).map fun i =>
    ((s.reg (cmdWaitOff p.val i)).toNat + 2 ^ 64 - j.waitStart.getD i 0) % 2 ^ 64
  let own := wall - externalCauses.foldl (fun n i => n + waits.getD i 0) 0
  let s := (s.setReg (cmdStepTimeWallOff p.val) (BitVec.ofNat 64 wall)).setReg (cmdStepTimeOwnOff p.val)
    (BitVec.ofNat 64 own)
  s.onJob p.val fun j =>
    { j with lastPlan := some pl, lastWait := waits,
             lastGate := if j.gate.isSome then s.reg (cmdGateStatusOff p.val) else 0,
             lastNorm := if j.gate.isSome then s.reg (cmdGateNormOff p.val) else 0 }

/-- The step in force closes and the waiting plan is accepted (R129, R436). After a SCALE_REPLAY outcome in a
Keeper-enabled partition the plan is held, and the step is replayed first (R403). -/
def State.stepClose (s : State) (p : Part) (pl : Plan) (c : Closing) : State :=
  let j := s.job p.val
  let s := s.closeSlots p.val j.failed
  let scale := decide ((j.gate.map (·.outcome)) = some 5)
  if scale && s.keeperOn p.val && !j.replayTry && !c.replay then
    let s := s.replayScale p pl.step
    if s.jobState p.val = jFault then s
    else s.onJob p.val fun j => { j with heldPlan := some c, replayTry := true }
  else
    let s := s.stepTimes p pl
    let s := s.slowClose p pl.step ((s.reg (cmdStepTimeOwnOff p.val)).toNat / 1000)
    s.acceptPlan p c

/-- STEP_CLOSE (R129): every command of the step has completed. -/
def execStepClose (p : Part) (s : State) : Host.Outcome State Fault Refusal :=
  let j := s.job p.val
  .next (match j.closing with
    | none => s
    | some c =>
      if s.cmds.any fun x => decide (x.id.func = funcOf p) && decide (x.id.ring = 0) && x.id != c.cmd &&
          decide (x.phase ≠ .consumed) then s
      else match j.plan with
        | some pl => s.stepClose p pl c
        | none => s.acceptPlan p c)

/-- STEP_PLAN (R436): validated; it waits for the close of the step in force, or is accepted at once when none is in
force, or as the first plan of a replay (R398). -/
def execStepPlan (c : CmdId) (s : State) : Host.Outcome State Fault Refusal :=
  .next (match s.starting c 0x10 with
    | none => s
    | some x =>
      match s.planAt x with
      | none => s.badPacket c
      | some a =>
        let bytes := x.par 4
        if (!x.replay ∧ a % 128 ≠ 0) ∨ bytes < 64 ∨ 1048576 < bytes ∨ !unusedZero x 5 ∨
            !limitsOk (x.par 2 % 2 ^ 32) (x.par 2 / 2 ^ 32) then s.badPacket c
        else match s.refusedGal c.p a bytes with
          | some b => s.endBounds c b
          | none =>
            let s := s.look a bytes
            match s.planBlock a bytes with
            | .error i => s.endCmd c stMalformed i
            | .ok (counts, versions) =>
              let pl : Plan :=
                { step := BitVec.ofNat 32 (x.par 0), planId := BitVec.ofNat 32 (x.par 0 / 2 ^ 32),
                  seed := BitVec.ofNat 64 (x.par 1), absurd := BitVec.ofNat 32 (x.par 2),
                  clip := BitVec.ofNat 32 (x.par 2 / 2 ^ 32), ptr := a, bytes := bytes, versions := versions }
              let cl : Closing := ⟨x.replay, pl, counts, c⟩
              let first := x.replay && (s.kpart c.p).replayStep.isSome
              let s := s.issued c 1
              if (s.job c.p).plan.isNone || first then s.acceptPlan c.part cl
              else s.onJob c.p fun j => { j with closing := some cl })

end Sys2Proof.Machine
end

