-- ==== Sys2Proof/Machine/Mirror.lean ====
section
/-! DEFINITION. The mirror stream at the owner (R376 to R381): mirror records, their sending and commitment, and
MIRROR_CONFIG. -/

namespace Sys2Proof.Machine

/-! ## Records (R378) -/

/-- One item of a record: its owner-local offset and length. -/
abbrev MirItem := Nat × Nat

/-- Everything of a shard that is mirrored: its entry, its slots, the master, the data of every ELEM output stream but
stream 0 of the update program, the committed queue slots of a SLOW shard, and the program. -/
def State.mirItems (s : State) (p i : Nat) : List MirItem :=
  let r := s.shard p i
  let n := slElements (s.slot p (shMslot r))
  let at_ := shList r % 2 ^ 48
  let l := (s.readList at_).hdr
  let states := (List.range 8).filterMap fun k =>
    let st := l.streamAt k
    if k ≠ 0 ∧ st.mode = 0 ∧ st.out then some (st.ptr.toNat % 2 ^ 48, st.segBytes n) else none
  let queue := if shSlow r then
      (List.range (shQlen r)).map fun q =>
        (shGrad r % 2 ^ 48 + (shQhead r + q) % (shDelay r + 1) * gradBytes n, gradBytes n)
    else []
  [(s.shardAddr p i, 128), (s.slotAddr p (shMslot r), 128), (s.slotAddr p (shWslot r), 128), (shMaster r % 2 ^ 48, 2 * n)] ++
    states ++ queue ++ [(at_, 0x140 + 8 * l.ops)]

/-- An item with its bytes. -/
abbrev MirData := Nat × List PByte

/-- Read items. -/
def State.mirRead (s : State) (items : List MirItem) : List MirData × State :=
  items.foldl (fun (a : List MirData × State) (o, n) =>
    let (bs, s) := a.2.readMem o n
    (a.1 ++ [(o, bs)], s)) ([], s)

/-- The items that have changed since the committed ones: at least the first, which is the entry (R378). -/
def mirChanged (held items : List MirData) : List MirData :=
  let new := items.filter fun x => decide (keyGet held x.1 ≠ some x.2)
  if new.isEmpty then items.take 1 else new

/-- The header of a record with a CRC value. -/
def mirHeader (shard step ver nitem bytes crc : Nat) : List Byte :=
  natLe 8 (shard + step * 2 ^ 32) ++ natLe 8 (ver + nitem * 2 ^ 16) ++ natLe 8 bytes ++ natLe 8 crc ++
    List.replicate 32 0

/-- A record's bytes, poison marks kept, with its CRC over the record whose CRC field is zero. -/
def mirRecord (shard step ver : Nat) (items : List MirData) : List PByte :=
  let pad := fun n => (n + 127) / 128 * 128
  let data := items.flatMap fun (_, bs) => bs ++ clean (List.replicate (pad bs.length - bs.length) 0)
  let desc := items.flatMap fun (a, bs) => natLe 8 a ++ natLe 8 bs.length
  let head := mirHeader shard step ver items.length (64 + desc.length + data.length)
  let crc := (crc32c (head 0 ++ desc ++ plain data)).toNat
  clean (head crc ++ desc) ++ data

/-- The items a record's bytes describe, each with where its data begin. -/
def mirParse (bs : List Byte) : List (Nat × Nat × Nat) :=
  let n := (bs.getD 10 0).toNat
  ((List.range n).foldl (fun (r : Nat × List (Nat × Nat × Nat)) k =>
    let at_ := 64 + 16 * k
    let off := leNat ((bs.drop at_).take 8) % 2 ^ 48
    let len := leNat ((bs.drop (at_ + 8)).take 8)
    (r.1 + (len + 127) / 128 * 128, r.2 ++ [(off, len, r.1)])) (64 + 16 * n, [])).2

/-- The CRC of a record holds (R378). -/
def mirCrcOk (bs : List Byte) : Bool :=
  decide ((crc32c (bs.take 24 ++ List.replicate 4 0 ++ bs.drop 28)).toNat = leNat ((bs.drop 24).take 4))

/-! ## Streaming (R379, R380) -/

/-- The mirror partner that the partition's records go to, if it has one that is not lost. -/
def State.mirTo (s : State) (p : Part) : Option Nat :=
  if s.keeperOn p.val && !(s.kpart p.val).mirrorLost then (s.mirrorNode p.val).filter fun n => !s.here n else none

/-- A record on its way: shard, STEP, bytes, and the half of the staging area it has gone to. -/
abbrev SendRec := W32 × W32 × List PByte × Option Nat

/-- Where the halves of a staging area begin (assumption 64, DESIGN CHOICE: the second at half of STAGE_BYTES). -/
def stageHalf (base bytes h : Nat) : Nat := base + h * (bytes / 256 * 128)

/-- Stream a record: STOREs into a half of the partner's staging area, then MIR_COMMIT naming the shard, STEP, BYTES and
CRC (R379). -/
def State.mirStream (s : State) (p : Part) (n h : Nat) (x : SendRec) : State :=
  let (shard, step, bs, _) := x
  let own := s.ownNode p.val
  let a := stageHalf (Config.stageBase n p.val own) (Config.stageBytes n p.val own) h
  let rs := (storeLines n 3 p (bs.length / 128 + 2) (a % 2 ^ 48) bs).map plainReq
  let pk := kctlPk p n 0x0B own step.toNat (natLe 4 shard.toNat ++ ((plain bs).drop 24).take 4 ++ natLe 8 bs.length)
  s.fabIssue (rs ++ [{ plainReq pk with cont := .kctl }])

/-- Put the first record that waits into a half. -/
def sendMark (h : Nat) : List SendRec → List SendRec
  | [] => []
  | (a, b, bs, none) :: t => (a, b, bs, some h) :: t
  | x :: t => x :: sendMark h t

/-- The half that the next record may go to: one at a time, or two where the staging area holds twice the largest
(R379). -/
def freeHalf (room : Nat) (rs : List SendRec) : Option Nat :=
  let used := rs.filterMap (·.2.2.2)
  let big := rs.foldl (fun m x => Nat.max m x.2.2.1.length) 0
  if used.isEmpty then some 0
  else if used.length = 1 ∧ 2 * ((big + 127) / 128 * 128) ≤ room then some (1 - used.headD 0)
  else none

/-- Stream the next record, if one waits and a half is free. -/
def State.mirSend1 (s : State) (p : Part) : State :=
  let rs := (s.kpart p.val).sendRecs
  match s.mirTo p, rs.find? (·.2.2.2.isNone) with
  | some n, some x =>
    match freeHalf (Config.stageBytes n p.val (s.ownNode p.val)) rs with
    | some h => (s.onKpart p.val fun k => { k with sendRecs := sendMark h k.sendRecs }).mirStream p n h x
    | none => s
  | _, _ => s

/-- Stream what may go. -/
def State.mirSend (s : State) (p : Part) : State := (s.mirSend1 p).mirSend1 p

/-- A step has committed (R380): COMMITTED and the COMMIT record, and that of a step skipped after it. -/
def State.mirCommitted (s : State) (p : Part) (step : W32) : State :=
  let s := (s.setFld (kprStatusOff p.val) 63 32 step.toNat).journal p jrCommit step []
  let later := (s.kpart p.val).skipped
  let s := s.onKpart p.val fun k => { k with sendStep := none, skipped := none }
  match later with
  | some st => (s.setFld (kprStatusOff p.val) 63 32 st.toNat).journal p jrCommit st []
  | none => s

/-- When every record of the step is committed, MIR_STEP is sent (R380); without a mirror the step counts as committed
at once. -/
def State.mirStepTry (s : State) (p : Part) : State :=
  match (s.kpart p.val).sendStep with
  | some st =>
    if !(s.kpart p.val).sendRecs.isEmpty then s
    else match s.mirTo p with
      | some n => s.kctlSend p n 0x0C (s.ownNode p.val) st.toNat []
      | none => s.mirCommitted p st
  | none => s

/-- A shard's record joins those that wait: what has changed of it since the record that the partner has committed. A shard
taken over without a mirror has none (R393). -/
def State.mirHand (s : State) (p : Part) (i : Nat) (step : W32) : State :=
  match if s.unmirrored p.val i then none else s.mirTo p with
  | none => s
  | some n =>
    let s := if (s.kpart p.val).mirAt = some n then s
      else s.onKpart p.val fun k => { k with mirHeld := [], mirAt := some n }
    let r := s.shard p.val i
    let (items, s) := s.mirRead ((s.mirItems p.val i).filter fun x => decide (0 < x.2))
    let new := mirChanged ((keyGet (s.kpart p.val).mirHeld (shId r)).getD []) items
    let rec_ := mirRecord (shId r) step.toNat (shVersion r) new
    (s.onKpart p.val fun k =>
      { k with sendRecs := k.sendRecs ++ [(BitVec.ofNat 32 (shId r), step, rec_, none)] }).mirSend p

/-- UPDATE_SHARDS has processed the step's shards (R380). -/
def State.mirStepEnd (s : State) (p : Part) (step : W32) : State :=
  if !s.keeperOn p.val then s
  else (s.onKpart p.val fun k => { k with sendStep := some step }).mirStepTry p

/-- What stands committed of a shard once a record is (R378). -/
def mirTake (held : List MirData) (bs : List PByte) : List MirData :=
  (mirParse (plain bs)).foldl (fun l x => keySet l x.1 ((bs.drop x.2.2).take x.2.1)) held

/-- The partner's answer to MIR_COMMIT (R379): committed, or sent again when its CRC failed. -/
def State.mirAck (s : State) (p : Part) (shard step : W32) (bad : Bool) : State :=
  let k := s.kpart p.val
  match k.sendRecs.find? fun x => x.1 == shard && x.2.1 == step && x.2.2.2.isSome, s.mirTo p with
  | some x, some n =>
    if bad then s.mirStream p n (x.2.2.2.getD 0) x
    else
      let held := mirTake ((keyGet k.mirHeld shard.toNat).getD []) x.2.2.1
      let rest := k.sendRecs.filter (· != x)
      let s := s.onKpart p.val fun k =>
        { k with sendRecs := rest, recDone := keySet k.recDone shard.toNat step, mirHeld := keySet k.mirHeld shard.toNat held }
      if rest.isEmpty then s.mirStepTry p else s.mirSend p
  | _, _ => s

/-- The stream has nowhere to go any more: its records are dropped, and the step counts as committed. -/
def State.mirDrop (s : State) (p : Part) : State :=
  (s.onKpart p.val fun k =>
    { k with sendRecs := [], mirHeld := [], mirAt := none, mirrorLost := true }).mirStepTry p

/-! ## MIRROR_CONFIG (R381) -/

/-- The lists that the partition's owned shards name: offset and bytes. -/
def State.shardLists (s : State) (p : Nat) : List (Nat × Nat) :=
  (s.ownedShards p).map fun i =>
    let a := shList (s.shard p i) % 2 ^ 48
    (a, 0x140 + 8 * bitsOf (s.peek (a + 8) 8) 38 32)

/-- Reading the lists' headers leaves what a read leaves. -/
def State.lookLists (s : State) (p : Nat) : State :=
  (s.ownedShards p).foldl (fun s i => s.look (shList (s.shard p i) % 2 ^ 48 + 8) 8) s

/-- Every range that MIRROR_CONFIG copies. -/
def State.configRanges (s : State) (p : Nat) : List (Nat × Nat) :=
  [((s.reg (cmdShardBaseOff p)).toNat % 2 ^ 48, 128 * s.shardCount p),
   ((s.reg (cmdSlotBaseOff p)).toNat % 2 ^ 48, 128 * s.slotCount p)] ++ (s.shardLists p).eraseDups

/-- MIRROR_CONFIG (R381): to the partner that the shards name, which is a mirror again. The replay of REPLAY_STEP mirrors
nothing (R404). -/
def execMirrorConfig (c : CmdId) (s : State) : Host.Outcome State Fault Refusal :=
  .next (match s.starting c 0x28 with
    | none => s
    | some x =>
      if !unusedZero x 0 then s.badPacket c
      else if (s.kpart c.p).diag then s.done c
      else
        let s := s.lookLists c.p
        let rs := (s.configRanges c.p).filter fun r => decide (0 < r.2)
        match rs.findSome? fun r => s.refused c.p r.1 r.2 with
        | some b => s.endBounds c b
        | none =>
          let s := s.onKpart c.p fun k => { k with mirrorLost := false }
          match s.mirTo c.part with
          | none => s.done c
          | some n =>
            let (data, s) := s.mirRead rs
            let pks := data.flatMap fun (a, bs) => storeLines n 3 c.part (bs.length / 128 + 2) a bs
            (s.issued c pks.length).fabIssue (pks.mapIdx fun i pk => { plainReq pk with cmd := some c, ix := i }))

end Sys2Proof.Machine
end

