-- ==== Sys2Proof/Machine/Splits.lean ====
section
/-! DEFINITION. Split reductions: SPLIT_REDUCE, the collector's fold, the chain and their timeout (R113 to R119). -/

namespace Sys2Proof.Machine

/-- The op and the precision of the record at a local offset (assumption 62). -/
def State.recordOf (s : State) (a : Nat) : RedOp × Fmt :=
  match keyGet s.recTypes a with
  | some v => ((RedOp.ofCode (v % 64)).getD .sum, if 64 ≤ v then .fp64 else .fp32)
  | none =>
    let v := Config.recordType a
    ((RedOp.ofCode (0x38 + v % 6)).getD .sum, if v / 6 % 2 = 1 then .fp64 else .fp32)

/-- A descriptor is well formed (R113). -/
def State.splitOk (s : State) (p : Nat) (d : SplitDesc) : Bool :=
  decide (2 ≤ d.ncon) && decide (d.ncon ≤ 1048576) && decide (d.index < d.ncon) && decide (d.method ≠ 3) && !d.rsvd &&
  globalOk d.collect && globalOk d.result && (s.localPtr p d.table).isSome && (!d.cast || s.mayCast d.grp)

/-- A record travels as a remote reduction outside deterministic mode (R115): its REDUCE code. -/
def remoteRed (t : RedOp × Fmt) : Option Nat :=
  if t.2 ≠ .fp32 then none
  else match t.1 with
    | .sum | .ssq => some 0
    | .max => some 1
    | .min => some 2
    | _ => none

/-- The way record `a` goes to the collector. -/
def State.splitRed (s : State) (p recs a : Nat) : Option Nat :=
  if s.determ p then none else remoteRed (s.recordOf (recs + 32 * a))

/-- Node `i` of a chain's table. -/
def State.splitNode (s : State) (d : SplitDesc) (i : Nat) : Nat := s.peek (ptrOff d.table + 2 * i) 2

/-- Reading node `i` of a chain's table leaves what a read leaves. -/
def State.splitLook (s : State) (d : SplitDesc) (i : Nat) : State := s.look (ptrOff d.table + 2 * i) 2

/-- STOREs of records to a global address in class 2, no packet across a line. -/
def recStores (c : CmdId) (lan : Lan) (g : Nat) (bs : List PByte) : List Req :=
  (copyPieces (bs.length / 128 * 2 + 3) g g bs.length).map fun (a, _, n) =>
    cmdReq c 0 lan .none (pkWith (pkTo 0x03 2 c.part a) ((bs.drop (a - g)).take n))

/-- A reduction of bytes at a global address in class 2. -/
def recRed (c : CmdId) (lan : Lan) (rop : Nat) (f : Fmt) (g : Nat) (bs : List PByte) (ct : Cont) : Req :=
  cmdReq c 0 lan ct { pkWith (pkTo 0x05 2 c.part g) bs with rop := BitVec.ofNat 3 rop, rtype := BitVec.ofNat 4 f.code }

/-- The requests of a contributor under PARTIALS (R115): slots or single records, then its presence bit. -/
def State.partialReqs (s : State) (c : CmdId) (d : SplitDesc) (recs : Nat) (bs : List PByte) : List Req :=
  let lan : Lan := Fin.ofNat 8 d.lan
  let body := (List.range d.nrec).flatMap fun a =>
    let r := (bs.drop (32 * a)).take 32
    match s.splitRed c.p recs a with
    | some rop =>
      [recRed c lan rop .fp32 (d.collect + 32 * a) (r.take 4) .none,
       recRed c lan 0 .uint64 (d.collect + 32 * a + 16) ((r.drop 16).take 8) .none]
    | none => recStores c lan (d.collect + (d.index * d.nrec + a) * 32) r
  let w := d.collect + d.slotBytes + d.index / 32 * 4
  body ++ [recRed c lan 3 .uint32 w (clean (natLe 4 (2 ^ (d.index % 32)))) .presence]

/-- The multicast of a result to a group (R113, R293). -/
def State.splitCast (s : State) (c : CmdId) (d : SplitDesc) (bs : List PByte) : State :=
  if !d.cast then s
  else
    let run := s.fabric.nextRun
    let lan : Lan := Fin.ofNat 8 d.lan
    let k : CopyCfg := { c := c, tc := 2, lan := lan, host := false, dst := .mcast run d.grp }
    let off := d.result % 2 ^ 48
    let data := (copyPieces (bs.length / 128 * 2 + 3) off off bs.length).map fun (a, _, n) =>
      (true, pkWith (mcastPk s k d.grp a) ((bs.drop (a - off)).take n))
    let m : McRun :=
      { id := run, grp := BitVec.ofNat 14 d.grp, part := c.part, tc := 2, cmd := some c, ix := 0, lantern := lan,
        data := data, sent := false, members := [], repairs := 0, lost := [] }
    let s := s.onCmd c fun x => { x with pending := x.pending + 1 }
    ({ s with fabric := { s.fabric with mcRuns := s.fabric.mcRuns ++ [m], nextRun := run + 1 } } : State).mcStart

/-- Send requests for a command that has been issued already. -/
def State.more (s : State) (c : CmdId) (rs : List Req) : State :=
  (s.onCmd c fun x => { x with pending := x.pending + rs.length }).fabIssue rs

/-- A result that this module holds has the types of its records. -/
def State.typeResult (s : State) (d : SplitDesc) (recs : Nat) : State :=
  if s.here (d.result / 2 ^ 48) then
    (List.range d.nrec).foldl (fun s a =>
      match keyGet s.recTypes (recs + 32 * a) with
      | some v => { s with recTypes := keySet s.recTypes (d.result % 2 ^ 48 + 32 * a) v }
      | none => s) s
  else s

/-- Write a result: to RESULT_PTR, and to the group. -/
def State.splitResult (s : State) (c : CmdId) (d : SplitDesc) (recs : Nat) (bs : List PByte) : State :=
  ((s.typeResult d recs).more c (recStores c (Fin.ofNat 8 d.lan) d.result bs)).splitCast c d bs

/-- Flags of a join: on the receiving lantern, and with the command (R97). -/
def State.splitFlags (s : State) (c : CmdId) (d : SplitDesc) (f : Flags) : State :=
  (s.veFlag d.lan c.p f).onCmd c fun x => { x with flags := x.flags ||| f }

/-- The receiving lantern's VE0 shows the reduction: WAIT for records, IDLE once it has applied them, FAULT until the
completion is posted (R63, R122); not while a list has the engine. -/
def State.splitVe (s : State) (c : CmdId) (d : SplitDesc) (st : Nat) : State :=
  if (keyGet s.holders (96 + 2 * d.lan)).isSome then s else s.veState (2 * d.lan) st c.part

/-- A join meets poison at a local offset. -/
def State.splitPoison (s : State) (c : CmdId) (d : SplitDesc) (a : Nat) : State :=
  (((s.splitVe c d 3).setBit (veErrOff d.lan 0) 2).bite c.part blkVe (a / 32 * 32)).endPoison c (a / 32 * 32)

/-! ## CHAIN (R116) -/

/-- Combine the running records with this contributor's own, and send or write what comes of it. -/
def State.chainStep (s : State) (c : CmdId) (d : SplitDesc) (recs : Nat) (run : List PByte) : State :=
  let (own, s) := s.load c.p recs (32 * d.nrec)
  match (firstPoison (d.collect % 2 ^ 48) run).or (firstPoison recs own) with
  | some a => s.splitPoison c d a
  | none =>
    let (out, fl) := (List.range d.nrec).foldl (fun (r : List Byte × Flags) a =>
      let (o, f) := s.recordOf (recs + 32 * a)
      let (v, fl) := comb o f (Red.ofBytes (plain (run.drop (32 * a)))) (Red.ofBytes (plain (own.drop (32 * a))))
      (r.1 ++ v.bytes, r.2 ||| fl)) ([], 0)
    let s := (s.splitFlags c d fl).splitVe c d 0
    let s := if d.index + 1 = d.ncon then s.splitResult c d recs (clean out)
      else s.more c (recStores c (Fin.ofNat 8 d.lan)
        (s.splitNode d (d.index + 1) * 2 ^ 48 + d.collect % 2 ^ 48) (clean out))
    let s := if d.index + 1 = d.ncon then s else s.splitLook d (d.index + 1)
    s.pieceDone c

/-- Running records that were held for a command (R116). -/
def State.chainHeld (s : State) (c : CmdId) : Option (List PByte) :=
  (s.chainIn.find? fun e => e.1 == c).map fun e => e.2.2.flatten

/-- Start a contributor of a chain. -/
def State.startChain (s : State) (c : CmdId) (d : SplitDesc) (recs : Nat) : State :=
  if d.index = 0 then
    let (bs, s) := s.load c.p recs (32 * d.nrec)
    let rs := recStores c (Fin.ofNat 8 d.lan) (s.splitNode d 1 * 2 ^ 48 + d.collect % 2 ^ 48) bs
    ((s.splitLook d 1).issued c rs.length).fabIssue rs
  else
    let s := (s.issued c 1).splitVe c d 2
    match s.chainHeld c with
    | some run =>
      let s : State := { s with chainIn := s.chainIn.filter fun e => e.1 != c }
      (s.onCmd c fun x => { x with left := 1 }).chainStep c d recs run
    | none => s

/-- SPLIT_REDUCE (R113). -/
def execSplitReduce (c : CmdId) (s : State) : Host.Outcome State Fault Refusal :=
  .next (match s.starting c 0x22 with
    | none => s
    | some x =>
      match s.localPtr c.p (x.par 0), s.localPtr c.p (x.par 1) with
      | some a, some recs =>
        if a % 64 ≠ 0 ∨ !unusedZero x 2 then s.badPacket c
        else
          match s.refusedGal c.p a 64 with
          | some b => (s.veErr [] 1).endBounds c b
          | none =>
            let d := SplitDesc.ofRaw (s.peek a 64)
            let s := s.look a 64
            if !s.splitOk c.p d then s.veMalformed c [] d.index
            else
              let chain := s.splitChain c.p d
              let here := s.here (d.collect / 2 ^ 48)
              match ((s.refusedGal c.p recs (32 * d.nrec)).or
                  (if chain then s.refusedGal c.p (ptrOff d.table) (2 * d.ncon) else none)).or
                  (if !chain && here then s.refusedGal c.p (d.collect % 2 ^ 48) (d.slotBytes + (d.ncon + 31) / 32 * 4)
                   else none) with
              | some b => (s.veErr [] 1).endBounds c b
              | none =>
                if chain then s.startChain c d recs
                else
                  let (bs, s) := s.load c.p recs (32 * d.nrec)
                  let rs := s.partialReqs c d recs bs
                  let s := if here then s.splitVe c d 2 else s
                  (s.issued c (rs.length + if here then 1 else 0)).fabIssue rs
      | _, _ => s.badPacket c)

/-- A command that is issued, with its descriptor and its records' offset. -/
def State.splitCmd (s : State) (c : CmdId) : Option (SplitDesc × Nat) :=
  match s.cmd c with
  | some x => match s.splitOf x, s.localPtr c.p (x.par 1) with
    | some d, some recs => some (d, recs)
    | _, _ => none
  | none => none

/-! ## The collector (R115) -/

/-- The left fold of record `a` over the slots in ascending index, with its flags; or the first poisoned sector. -/
def State.slotFold (s : State) (p : Nat) (d : SplitDesc) (t : RedOp × Fmt) (a : Nat) :
    Except Nat (List Byte × Flags) × State :=
  let at_ := fun i => d.collect % 2 ^ 48 + (i * d.nrec + a) * 32
  let (r, s) := (List.range d.ncon).foldl (fun (r : Except Nat (Option Red × Flags) × State) i =>
    match r.1 with
    | .error b => (.error b, r.2)
    | .ok (acc, fl) =>
      let (bs, s) := r.2.load p (at_ i) 32
      match firstPoison (at_ i) bs with
      | some b => (.error b, s)
      | none =>
        let v := Red.ofBytes (plain bs)
        match acc with
        | none => (.ok (some v, fl), s)
        | some o =>
          let (v, f) := comb t.1 t.2 o v
          (.ok (some v, fl ||| f), s)) (.ok (none, 0), s)
  match r with
  | .error b => (.error b, s)
  | .ok (v, fl) => (.ok ((v.getD ⟨0, 0, 0⟩).bytes, fl), s)

/-- The result's bytes: every record folded, or taken as the remote reductions left it. -/
def State.collectAll (s : State) (c : CmdId) (d : SplitDesc) (recs : Nat) : Except Nat (List PByte × Flags) × State :=
  (List.range d.nrec).foldl (fun (r : Except Nat (List PByte × Flags) × State) a =>
    match r.1 with
    | .error b => (.error b, r.2)
    | .ok (bs, fl) =>
      if (r.2.splitRed c.p recs a).isSome then
        let (v, s) := r.2.load c.p (d.collect % 2 ^ 48 + 32 * a) 32
        (.ok (bs ++ v, fl), s)
      else
        match r.2.slotFold c.p d (r.2.recordOf (recs + 32 * a)) a with
        | (.error b, s) => (.error b, s)
        | (.ok (v, f), s) => (.ok (bs ++ clean v, fl ||| f), s)) (.ok ([], 0), s)

/-- The command waits as a collector: PARTIALS, with COLLECT_PTR at this module and its result not yet written. -/
def State.collecting (s : State) (c : CmdId) (d : SplitDesc) : Bool :=
  !s.splitChain c.p d && s.here (d.collect / 2 ^ 48) && ((s.cmd c).map (·.left)).getD 1 == 0

/-- The command waits for records: a chain's contributor for those of the one before, a collector for those of its slots
(R115, R116). -/
def State.splitWaits (s : State) (c : CmdId) (d : SplitDesc) : Bool :=
  if s.splitChain c.p d then decide (0 < d.index) && ((s.cmd c).map (·.left)).getD 1 == 0
  else s.collecting c d && !(List.range d.ncon).all (s.splitPresent d)

/-- The cap leaves a command's iterations a cycle (R471). -/
def State.splitIssues (s : State) (c : CmdId) : Bool := ((s.cmd c).map s.mayIssue).getD true

/-- SPLIT_COLLECT (R115): every presence bit is set. -/
def execSplitCollect (c : CmdId) (s : State) : Host.Outcome State Fault Refusal :=
  .next (match s.splitCmd c with
    | none => s
    | some (d, recs) =>
      if !s.collecting c d || !s.splitIssues c || !(List.range d.ncon).all (s.splitPresent d) then s
      else
        match s.collectAll c d recs with
        | (.error b, s) => s.splitPoison c d b
        | (.ok (bs, fl), s) =>
          let s := ((s.onCmd c fun x => { x with left := 1 }).splitFlags c d fl).splitVe c d 0
          (s.splitResult c d recs bs).pieceDone c)

/-- CHAIN_RECORD_ARRIVAL (R116): the running records of contributor `index` arrive for the command's reduction. -/
def execChainRecordArrival (c : CmdId) (index : Nat) (recs : List (List Byte × Bool)) (s : State) :
    Host.Outcome State Fault Refusal :=
  let run : List (List PByte) := recs.map fun (bs, p) => bs.map fun b => (b, p)
  .next (match s.splitCmd c with
    | some (d, own) =>
      if !s.splitChain c.p d || d.index ≠ index + 1 then s
      else if ((s.cmd c).map (·.left)).getD 1 = 0 then
        (s.onCmd c fun x => { x with left := 1 }).chainStep c d own run.flatten
      else s.raise evReduceDup (some c.part) index
    | none =>
      match s.cmd c with
      | some x => if x.phase = .ended then s
        else if s.chainIn.any fun e => e.1 == c then s.raise evReduceDup (some c.part) index
        else { s with chainIn := s.chainIn ++ [(c, index, run)] }
      | none =>
        if s.chainIn.any fun e => e.1 == c then s.raise evReduceDup (some c.part) index
        else { s with chainIn := s.chainIn ++ [(c, index, run)] })

/-- SPLIT_TIMEOUT (R119): a record set has not arrived within VE_SPLIT.TIMEOUT; 0 means none (R121). -/
def execSplitTimeout (c : CmdId) (s : State) : Host.Outcome State Fault Refusal :=
  .next (match s.splitCmd c with
    | none => s
    | some (d, _) =>
      let chain := s.splitChain c.p d
      if !s.splitWaits c d || s.fld (veSplitOff d.lan c.p) 15 0 = 0 then s
      else
        let miss := if chain then some (d.index - 1) else (List.range d.ncon).find? fun i => !s.splitPresent d i
        match miss with
        | none => s
        | some i =>
          let s := ((s.splitVe c d 3).setBit (veErrOff d.lan 0) 3).raise evReduceTimeout (some c.part) i
          s.endCmd c stReduceTimeout (if chain then s.splitNode d i else i))

end Sys2Proof.Machine
end

