-- ==== Sys2Proof/Machine/Weights.lean ====
section
/-! DEFINITION. Working copies, their publication and loading (R141, R159 to R163), and the update of owned shards
(R164 to R170). -/

namespace Sys2Proof.Machine

/-! ## Derivation (R141) -/

/-- The base of version v's slot in a shard's ring (R159). -/
def ringSlot (r : ShardRaw) (v : Nat) : Nat := shWcBase r % 2 ^ 48 + v % 4 * shWcBytes r

/-- Where a derived element goes: the byte's index in the ring slot, the power of two its code is shifted by, and the
code. -/
structure DerivedElem where
  pos   : Nat
  shift : Nat
  code  : Nat

/-- The values of a master's elements under its σ. -/
def masterValues (codes : List Nat) (sigma : Int) : List FVal := codes.map fun c => decodeScaled .mw16 c sigma (some 0)

/-- The σ of a derived copy: the largest that keeps the largest magnitude in range; 0 for none. -/
def derivedSigma (f : Fmt) (vals : List FVal) (headroom : Nat) : Int :=
  let m := vals.foldl (fun (m : Rat) v => match v with
    | .fin _ x => max m x
    | _ => m) 0
  if 0 < m then clampSigma (largestExp m f.maxMag headroom) else 0

/-- The elements of one group that share a scale, converted; `at_` are their (k, n) places. -/
def deriveGroup (f : Fmt) (rows : Nat) (sigma : Int) (es : List ((Nat × Nat) × FVal)) : List DerivedElem × SlotAcc :=
  let xe := if f = .g4 then blockScaleExp (es.filterMap fun e => match e.2 with
    | .fin _ m => some (m * pow2 sigma)
    | _ => none) else 0
  let body := es.map fun ((k, n), v) =>
    let cv := convert v f 0 sigma xe false 0
    let (pos, nib) := denseAt f rows k n
    (({ pos := pos, shift := 4 * nib, code := cv.code } : DerivedElem), SlotAcc.none.conv cv)
  let scale := match f, es with
    | .g4, ((k, n), _) :: _ => [(⟨denseScaleAt rows k n, 0, scaleCode xe⟩ : DerivedElem)]
    | _, _ => []
  (body.map (·.1) ++ scale.map (fun d => { d with shift := d.shift + 8 }), body.foldl (fun a x => a.join x.2) SlotAcc.none)

/-- The bytes of a ring slot that holds the derived copy, padding zero: the data, and for G4 the scales behind them
(R141, R160); with what the conversions count. The whole slot is written, so that every granule completes. -/
def deriveBytes (f : Fmt) (rows cols bytes : Nat) (sigma : Int) (vals : List FVal) : Array Byte × SlotAcc :=
  let vs := vals.toArray
  let at_ := fun k n => ((k, n), vs.getD (k * cols + n) .zero)
  let groups :=
    if f = .g4 then
      (List.range cols).flatMap fun n => (List.range ((rows + 31) / 32)).map fun b =>
        ((List.range (Nat.min 32 (rows - 32 * b))).map fun j => at_ (32 * b + j) n)
    else (List.range rows).flatMap fun k => (List.range cols).map fun n => [at_ k n]
  let d := denseBytes f rows cols
  groups.foldl (fun (r : Array Byte × SlotAcc) g =>
    let (es, acc) := deriveGroup f rows sigma g
    (es.foldl (fun a e =>
      if 8 ≤ e.shift then a.setIfInBounds (d + e.pos) (BitVec.ofNat 8 e.code)
      else a.setIfInBounds e.pos (a.getD e.pos 0 ||| BitVec.ofNat 8 (e.code * 2 ^ e.shift))) r.1, r.2.join acc))
    (Array.replicate bytes (0#8), SlotAcc.none)

/-- Why a shard's work stopped: status and local offset. -/
abbrev ShardStop := Nat × Nat

/-- The lines of a ring slot. -/
def slotLines (base bytes : Nat) : List Nat := (List.range (bytes / 128)).map fun i => base + 128 * i

/-- Derive version v of shard entry i into its own ring slot (R141, R162): the slot's bytes, or why not. -/
def State.derive (s : State) (p : Part) (i v : Nat) : Except ShardStop (Array Byte) × State :=
  let r := s.shard p.val i
  let m := s.slot p.val (shMslot r)
  let n := slElements m
  let a := shMaster r % 2 ^ 48
  let base := ringSlot r v
  match (s.refused p.val a (2 * n)).or (s.refused p.val base (shWcBytes r)) with
  | some b => (.error (stBounds, b), s)
  | none =>
    let (bs, s) := s.load p.val a (2 * n)
    match firstPoison a bs with
    | some b => (.error (stPoison, b), s.bite p blkDma b)
    | none =>
      let codes := (List.range n).map fun k => elemCode .mw16 (plain bs) k
      let f := (wcFormat r).getD .e4m3
      let vals := masterValues codes (slSigma m)
      let sg := derivedSigma f vals (slHeadroom (s.slot p.val (shWslot r)))
      let (bytes, acc) := deriveBytes f (slRows m) (slCols m) (shWcBytes r) sg vals
      let s := (s.setSigma p.val (shWslot r) sg).slotApply p.val (shWslot r) acc
      let s := (slotLines base (shWcBytes r)).zipIdx.foldl (fun s (la, k) =>
        (s.cacheAccess p.val la 128 true true).vstoreLine la (BitVec.ofNat 16 v)
          (clean (bytes.extract (128 * k) (128 * k + 128)).toList)) s
      (.ok bytes, s)

/-- Publish a derived version to the shard's group (R162): a multicast run of versioned stores, one more piece of the
command, numbered by the shard entry. -/
def State.publish (s : State) (c : CmdId) (i v : Nat) (bytes : Array Byte) : State :=
  let r := s.shard c.p i
  let base := ringSlot r v
  let run := s.fabric.nextRun
  let lan : Lan := Fin.ofNat 8 (homeLan base)
  let k : CopyCfg := { c := c, tc := 0, lan := lan, host := false, dst := .mcast run (shMcast r) }
  let data := (slotLines base (shWcBytes r)).zipIdx.map fun (la, j) =>
    (true, pkWith { mcastPk s k (shMcast r) la with op := 0x09, ver := BitVec.ofNat 16 v }
      (clean (bytes.extract (128 * j) (128 * j + 128)).toList))
  let m : McRun :=
    { id := run, grp := BitVec.ofNat 14 (shMcast r), part := c.part, tc := 0, cmd := some c, ix := i, lantern := lan,
      data := data, sent := false, members := [], repairs := 0, lost := [] }
  let s := s.onCmd c fun x => { x with pending := x.pending + 1 }
  ({ s with fabric := { s.fabric with mcRuns := s.fabric.mcRuns ++ [m], nextRun := run + 1 } } : State).mcStart

/-- What reading a shard's entry and its slots counts and marks. -/
def State.lookShard (s : State) (p i : Nat) : State :=
  if s.shardNamed p i then
    (s.look (s.shardAddr p i) 128).lookSlots p
      (if shOwned (s.shard p i) then [shMslot (s.shard p i), shWslot (s.shard p i)] else [shWslot (s.shard p i)])
  else s

/-- A derivation writes the WORKING slot of the shard, whose counts its command answers for (R130). -/
def State.ownsSlots (s : State) (c : CmdId) (is : List Nat) : State :=
  s.onCmd c fun x => { x with slots := (x.slots ++ is).eraseDups }

/-- What the check of a shard's slots and entry finds. -/
def State.checkShard (s : State) (p i : Nat) : SlotCheck :=
  if !s.shardNamed p i then .malformed
  else
    let r := s.shard p i
    match s.checkSlots p (if shOwned r then [shMslot r, shWslot r] else [shWslot r]) with
    | .ok => if s.shardOk p i then .ok else .malformed
    | x => x

/-- DERIVE_WORKING (R162): derive and publish an owned shard at its present VERSION; a group that this module may not send
to makes the publication malformed (R343). The replay of REPLAY_STEP publishes nothing (R404). -/
def execDeriveWorking (c : CmdId) (s : State) : Host.Outcome State Fault Refusal :=
  .next (match s.starting c 0x24 with
    | none => s
    | some x =>
      let i := x.par 0
      if 2 ^ 16 ≤ i ∨ !unusedZero x 1 then s.badPacket c
      else
        let s := s.lookShard c.p i
        match s.checkShard c.p i with
        | .poison a => s.slotBite c a
        | .malformed => s.endCmd c stMalformed i
        | .ok =>
          if !shOwned (s.shard c.p i) then s.endCmd c stMalformed i
          else
            let v := shVersion (s.shard c.p i)
            let s := s.ownsSlots c [shWslot (s.shard c.p i)]
            match s.derive c.part i v with
            | (.error (st, a), s) => s.endCmd c st (s.globalOf c.p a).toNat
            | (.ok bytes, s) =>
              if (s.kpart c.p).diag then s.done c
              else if s.mayCast (shMcast (s.shard c.p i)) then ((s.issued c 1).publish c i v bytes).pieceDone c
              else s.endCmd c stMalformed i)

/-- LOAD_WEIGHTS's reads (R163): the source's ring slot of version v, line by line with its granules' tags. -/
def loadReqs (c : CmdId) (i v src : Nat) (r : ShardRaw) : List Req :=
  (slotLines (ringSlot r v) (shWcBytes r)).mapIdx fun ix a =>
    cmdReq c ix (Fin.ofNat 8 (homeLan a)) (.weight i (BitVec.ofNat 16 v) a)
      { pkTo 0x01 0 c.part (src * 2 ^ 48 + a) with len := 128 }

/-- LOAD_WEIGHTS (R163). -/
def execLoadWeights (c : CmdId) (s : State) : Host.Outcome State Fault Refusal :=
  .next (match s.starting c 0x23 with
    | none => s
    | some x =>
      let i := x.par 0 % 2 ^ 16
      let v := bitsOf (x.par 0) 31 16
      let src := bitsOf (x.par 0) 47 32
      if 2 ^ 48 ≤ x.par 0 ∨ 0xFFFC ≤ v ∨ src = 0xFFFF ∨ !unusedZero x 1 then s.badPacket c
      else
        let s := s.lookShard c.p i
        match s.checkShard c.p i with
        | .poison a => s.slotBite c a
        | .malformed => s.endCmd c stMalformed i
        | .ok =>
          let r := s.shard c.p i
          match s.refused c.p (ringSlot r v) (shWcBytes r) with
          | some b => s.endBounds c b
          | none =>
            let rs := loadReqs c i v src r
            (s.issued c rs.length).fabIssue rs)

/-! ## UPDATE_SHARDS (R165 to R170) -/

/-- A natural number as an FP32 constant, rounded RN. -/
def fpConst (n : Nat) : W32 := BitVec.ofNat 32 (rnCode .fp32 (.fin false n))

/-- The local offset of a shard's gradient queue slot q. -/
def queueSlot (r : ShardRaw) (elements q : Nat) : Nat := shGrad r % 2 ^ 48 + q * gradBytes elements

/-- The list that runs for a shard with queue entry o (R169). -/
def State.shardList (s : State) (p i o : Nat) : VList :=
  let r := s.shard p i
  let l := s.readList (shList r % 2 ^ 48)
  let n := slElements (s.slot p (shMslot r))
  let st0 : VStream :=
    { ptr := BitVec.ofNat 64 (shMaster r), stride := 0, fmt := Fmt.mw16.code, mode := 0, out := true, inf := false,
      amax := false, rsvd := 0, slot := shMslot r, scPtr := 0 }
  let st1 : VStream :=
    { ptr := BitVec.ofNat 64 (queueSlot r n o), stride := 0, fmt := Fmt.bf16.code, mode := 0, out := false, inf := false,
      amax := false, rsvd := 0, slot := 0xFFFF, scPtr := 0 }
  let cs := ((((l.hdr.consts.set 15 (BitVec.ofNat 32 (shQfactor r o))).set 14 (BitVec.ofNat 32 (shQnorm r o))).set 13
    (fpConst (shSkips r))).set 12 (fpConst (verDist (shQver r o) (shVersion r)))).set 11 (fpConst (shUpdates r + 1))
  { l with hdr := { l.hdr with
      n := n, idxBase := 0, stream := 64 * i, streams := (l.hdr.streams.set 0 st0).set 1 st1, consts := cs } }

/-- discard of R165. -/
def State.shardDiscard (s : State) (p i o : Nat) : State :=
  let r := s.shard p i
  s.shardPut p i 0x0A 2 (setBits (setBits (bitsOf r 95 80) 6 5 ((o + 1) % (shDelay r + 1))) 9 7 (shQlen r - 1))

/-- QLEN of an entry. -/
def State.setQlen (s : State) (p i n : Nat) : State :=
  s.shardPut p i 0x0A 2 (setBits (bitsOf (s.shard p i) 95 80) 9 7 n)

/-- The commit of R165: this step's gate into the incoming queue slot, and QLEN. -/
def State.shardCommit (s : State) (p i : Nat) (factor g : W32) : State :=
  let r := s.shard p i
  let j := (shQhead r + shQlen r) % (shDelay r + 1)
  let s := (s.shardPut p i (0x40 + 16 * j + 8) 4 factor.toNat).shardPut p i (0x40 + 16 * j + 12) 4 g.toNat
  s.setQlen p i (shQlen r + 1)

/-- The stale shards so far: the lowest entry in [63:32] and the count (R434). -/
def staleNote (x : Cmd) (i : Nat) : Cmd :=
  let n := x.detail.toNat % 2 ^ 32
  let low := if n = 0 then i else Nat.min (x.detail.toNat / 2 ^ 32) i
  { x with status := stStaleGradient, detail := BitVec.ofNat 64 (low * 2 ^ 32 + n + 1) }

/-- The command stops at a shard: its status and the entry with the offset (R168, R434). -/
def State.shardFail (s : State) (c : CmdId) (i st a : Nat) : State :=
  (if st = stBounds then s.galBounds (a % 2 ^ 48) else s).noteFail c
    ⟨0, i, st, BitVec.ofNat 64 (i * 2 ^ 48 + a % 2 ^ 48), true⟩

/-- Run the update program of a shard and publish (R162, R168, R169), its commit made; the Keeper is told of a fault; `before` is QLEN before it. -/
def State.shardRun (s : State) (c : CmdId) (engines : List Nat) (i o before : Nat) (step : W32) : State :=
  let p := c.p
  let l := s.shardList p i o
  match s.listBounds p l with
  | some b => ((s.setQlen p i before).veErr engines 1).shardFail c i stBounds b
  | none =>
    let (s, fl, stop) := s.runList c.part l engines
    let s := (s.onCmd c fun x => { x with flags := x.flags ||| fl }).ownsSlots c (l.outSlots ++ [shWslot (s.shard p i)])
    match stop with
    | some (st, a) => ((s.setQlen p i before).notify p (.update i (s.globalOf p a))).shardFail c i st a
    | none =>
      let r := s.shard p i
      let v := verNext (shVersion r)
      let visited := shExpert r
      let s := s.shardPut p i 8 2 v
      let s := s.shardPut p i 0x38 8 (setBits (setBits (bitsOf r 511 448) 63 24 (shUpdates r + 1)) 23 0
        (if visited then 0 else shSkips r))
      let s := s.shardDiscard p i o
      match s.derive c.part i v with
      | (.error (st, a), s) => (s.mirHand c.part i step).shardFail c i st a
      | (.ok bytes, s) =>
        if s.mayCast (shMcast r) then (s.publish c i v bytes).mirHand c.part i step
        else (s.mirHand c.part i step).shardFail c i stMalformed (ringSlot r v)

/-- Process one owned shard (R165). -/
def State.shardStep (s : State) (c : CmdId) (engines : List Nat) (i : Nat) (factor g : W32) (step : W32) : State :=
  let p := c.p
  let r0 := s.shard p i
  let before := shQlen r0
  let s := s.shardCommit p i factor g
  let r := s.shard p i
  if shQlen r ≤ shDelay r then s.mirHand c.part i step
  else
    let o := shQhead r
    let st := verDist (shQver r o) (shVersion r)
    if shMaxStale r < st then
      let s := ((s.shardDiscard p i o).count (cmdStaleOff p)).raise evStaleGradient (some c.part) (shId r)
        (shQver r o + shVersion r * 2 ^ 16)
      (s.onCmd c fun x => staleNote x i).mirHand c.part i step
    else if shExpert r ∧ shQtokens r o = 0 then
      let s := s.shardPut p i 0x38 3 (shSkips r + 1)
      ((s.shardDiscard p i o).count (cmdBypassedOff p)).mirHand c.part i step
    else s.shardRun c engines i o before step

/-- The loop of UPDATE_SHARDS from shard number `k` of the owned ones on: on until a shard publishes, whose
publication must end before the next (R168), or one fails. -/
def State.shardLoop (c : CmdId) (engines : List Nat) (factor g : W32) (pl : Plan) : Nat → State → State
  | 0, s => s
  | fuel + 1, s =>
    match s.cmd c with
    | none => s
    | some x =>
      let is := s.ownedShards c.p
      if !x.fails.isEmpty then s.pieceDone c
      else if is.length ≤ x.left ∧ x.pending ≤ 1 then (s.mirStepEnd c.part pl.step).pieceDone c
      else if 1 < x.pending then s
      else
        let i := is.getD x.left 0
        let s := s.onCmd c fun x => { x with left := x.left + 1 }
        let done := (keyGet (s.kpart c.p).recDone (shId (s.shard c.p i))).elim false fun st =>
          x.replay && decide ((st - pl.step).toNat < 2 ^ 31)
        State.shardLoop c engines factor g pl fuel (if done then s else s.shardStep c engines i factor g pl.step)

/-- The engines of UPDATE_SHARDS: its mask, 0 meaning all. -/
def Cmd.shardEngines (x : Cmd) : List Nat := if x.par 0 = 0 then List.range 16 else maskBits 16 (x.par 0)

/-- What the checks before the first shard find: a poisoned slot, or the lowest malformed entry: the entry itself, a
MIRROR that differs from the others in a Keeper-enabled partition (R376), or its list (R105, R169). -/
def State.checkShards (s : State) (p : Nat) : SlotCheck × Nat :=
  let is := (List.range (s.shardCount p)).filter fun i => s.shardNamed p i && shOwned (s.shard p i)
  let mir := s.mirrorNode p
  let poison := is.findSome? fun i => match s.checkShard p i with
    | .poison a => some a
    | .ok => match s.checkList p (s.shardList p i (shQhead (s.shard p i))) with
      | .poison a => some a
      | _ => none
    | .malformed => none
  match poison with
  | some a => (.poison a, 0)
  | none =>
    let bad := is.find? fun i =>
      decide (s.checkShard p i ≠ .ok) || (s.keeperOn p && !s.unmirrored p i && decide (mir ≠ some (shMirror (s.shard p i)))) ||
      (let l := s.shardList p i (shQhead (s.shard p i))
       !l.hdr.update || (match s.checkList p l with
         | .malformed _ => true
         | _ => false))
    match bad with
    | some i => (.malformed, i)
    | none => (.ok, 0)

/-- The step before still waits for its records' commitment (R380). -/
def State.mirWaits (s : State) (p : Nat) : Bool := s.keeperOn p && (s.kpart p).sendStep.isSome

/-- Start UPDATE_SHARDS, its gate complete and the step before committed. -/
def State.startShards (s : State) (x : Cmd) : State :=
  let c := x.id
  match s.gateFor c.p, (s.job c.p).plan with
  | .error st, _ => s.endCmd c st
  | .ok _, none => s.endCmd c stNoGate
  | .ok (f, g), some pl =>
    let s := (s.ownedShards c.p).foldl (fun s i => (s.lookShard c.p i).lookList c.p (shList (s.shard c.p i) % 2 ^ 48)
      (s.shardList c.p i (shQhead (s.shard c.p i)))) s
    match s.checkShards c.p with
    | (.poison a, _) => s.slotBite c a
    | (.malformed, i) => (s.veErr (if x.par 0 = 0 then [] else x.shardEngines) 0).endCmd c stMalformed i
    | (.ok, _) =>
      let s := (s.onCmd c fun x => { x with left := 0, detail := 0 }).issued c 1
      State.shardLoop c x.shardEngines f g pl ((s.ownedShards c.p).length + 1) s

/-- UPDATE_SHARDS (R165). -/
def execUpdateShards (c : CmdId) (s : State) : Host.Outcome State Fault Refusal :=
  .next (match s.starting c 0x27 with
    | none => s
    | some x =>
      if 2 ^ 16 ≤ x.par 0 ∨ !unusedZero x 1 then s.badPacket c
      else if s.gatePending c || s.mirWaits c.p || !s.mayIssue x then s
      else s.startShards x)

/-- The UPDATE_SHARDS command goes on: it starts when its gate and the step before allow, or it takes its next shard
once the publication before has ended. -/
def State.shardsGoOn (s : State) (c : CmdId) : State :=
  match s.cmd c with
  | none => s
  | some x =>
    if x.opcode ≠ 0x27 ∨ !s.mayIssue x then s
    else if x.phase = .started then
      if 2 ^ 16 ≤ x.par 0 ∨ !unusedZero x 1 ∨ s.gatePending c ∨ s.mirWaits c.p then s else s.startShards x
    else if x.phase = .issued then
      match s.gateFor c.p, (s.job c.p).plan with
      | .ok (f, g), some pl => State.shardLoop c x.shardEngines f g pl ((s.ownedShards c.p).length + 1) s
      | _, _ => s
    else s

/-- UPDATE_PROGRAM_START (R138): an update program starts once its gate is known: that of a RUN_VECTOR command, or the
next shard's of UPDATE_SHARDS. -/
def execUpdateProgramStart (c : CmdId) (s : State) : Host.Outcome State Fault Refusal :=
  .next ((updateStart c s).shardsGoOn c)

end Sys2Proof.Machine
end

