-- ==== Sys2Proof/Machine/Exchange.lean ====
section
/-! DEFINITION. Expert routing and the token exchange (chapter 08): the exchange descriptor and its checks, scores and
selection, the streams of parcels a command sends, the packing of those it receives, and the combines. -/

namespace Sys2Proof.Machine

/-! ## The descriptor and the tables (R182 to R190) -/

/-- The format of a row format code (R187). -/
def rowFmt (c : Nat) : Fmt := (Fmt.ofCode c).getD .fp32

/-- The row formats: FP32, BF16, FP16, E4M3, E5M2. -/
def rowFmtOk (c : Nat) : Bool := c == 0 || (decide (2 ≤ c) && decide (c ≤ 5))

/-- The row stride of a format (R185). -/
def rowStride (h c : Nat) : Nat := (h * (rowFmt c).bytes + 127) / 128 * 128

/-- A home tensor's record (R187). -/
structure HomeTensor where
  ptr    : Nat
  stride : Nat
  fmt    : Nat
  slot   : Nat
  deriving DecidableEq, Repr

/-- An inbox or expert tensor's format and scale slot (R187). -/
structure RowKind where
  fmt  : Nat
  slot : Nat
  deriving DecidableEq, Repr

/-- An exchange descriptor (R187), pointers as the words give them. -/
structure ExDesc where
  exchId : Nat
  planId : Nat
  expert : Bool
  score  : Nat
  next   : Bool
  renorm : Bool
  k      : Nat
  spill  : Nat
  retain : Bool
  nexp   : Nat
  ndom   : Nat
  t      : Nat
  tmax   : Nat
  h      : Nat
  nslots : Nat
  rsvd   : Bool
  ptrs   : List Nat
  lstr   : Nat
  home   : List HomeTensor
  kinds  : List RowKind
  deriving DecidableEq, Repr

/-- Read a descriptor from its 256 bytes. -/
def ExDesc.ofRaw (r : Nat) : ExDesc :=
  let w := fun o => bitsOf r (8 * o + 63) (8 * o)
  let m := w 8
  let c := w 0xC0
  let e := w 0xC8
  let tensor := fun o : Nat => (⟨w o, bitsOf (w (o + 8)) 31 0, bitsOf (w (o + 8)) 35 32, bitsOf (w (o + 8)) 51 36⟩ : HomeTensor)
  let homes := [0x70, 0x80, 0x90, 0xA0, 0xB0]
  { exchId := w 0 % 2 ^ 32, planId := w 0 / 2 ^ 32, expert := bitOf m 0, score := bitsOf m 2 1, next := bitOf m 3,
    renorm := bitOf m 4, k := bitsOf m 8 5, spill := bitsOf m 13 9, retain := bitOf m 14, nexp := bitsOf m 47 32,
    ndom := bitsOf m 63 48, t := bitsOf (w 0x10) 20 0, tmax := bitsOf (w 0x10) 52 32, h := bitsOf (w 0x18) 15 0,
    nslots := bitsOf (w 0x18) 24 16,
    rsvd := decide (bitsOf m 31 15 ≠ 0) || decide (bitsOf (w 0x10) 31 21 ≠ 0) || decide (bitsOf (w 0x10) 63 53 ≠ 0) ||
      decide (bitsOf (w 0x18) 63 25 ≠ 0) || decide (bitsOf (w 0x28) 63 32 ≠ 0) || decide (bitsOf e 63 16 ≠ 0) ||
      decide (bitsOf r 2047 (8 * 0xD0) ≠ 0) || homes.any fun o => decide (bitsOf (w (o + 8)) 63 52 ≠ 0),
    ptrs := [0x20, 0x30, 0x38, 0x40, 0x48, 0x50, 0x58, 0x60, 0x68].map w, lstr := w 0x28 % 2 ^ 32,
    home := homes.map tensor,
    kinds := [⟨bitsOf c 3 0, bitsOf c 19 4⟩, ⟨bitsOf c 23 20, bitsOf c 39 24⟩, ⟨bitsOf c 43 40, bitsOf c 59 44⟩,
      ⟨bitsOf c 63 60, bitsOf e 15 0⟩] }

/-- A table pointer's local offset: 0 logits, 1 domain, 2 placement, 3 capacities, 4 slots, 5 positions, 6 routing
record, 7 counts, 8 gate gradients. -/
def ExDesc.ptr (d : ExDesc) (i : Nat) : Nat := d.ptrs.getD i 0 % 2 ^ 48

/-- A home tensor: 0 X, 1 RET, 2 OUT, 3 DY, 4 DX. -/
def ExDesc.tensor (d : ExDesc) (i : Nat) : HomeTensor := d.home.getD i ⟨0, 0, 0, 0⟩

/-- Row t of a home tensor. -/
def HomeTensor.row (x : HomeTensor) (t : Nat) : Nat := x.ptr % 2 ^ 48 + t * x.stride

/-- A format and slot: 0 XIN, 1 YE, 2 GIN, 3 DXE. -/
def ExDesc.kind (d : ExDesc) (i : Nat) : RowKind := d.kinds.getD i ⟨0, 0xFFFF⟩

/-- Bytes of a row of a format without its padding. -/
def ExDesc.rowBytes (d : ExDesc) (c : Nat) : Nat := d.h * (rowFmt c).bytes

/-- A local slot (R185): `ptrs` are XIN, YOUT, GIN, DXOUT, TAGS and ROWMAP, `desc` the eight DESC pointers. -/
structure LSlot where
  addr   : Nat
  expert : Nat
  valid  : Bool
  rsvd   : Bool
  rows   : Nat
  cap    : Nat
  ptrs   : List Nat
  desc   : List Nat
  deriving DecidableEq, Repr

/-- Read the entry at an offset. -/
def State.lslotAt (s : State) (a : Nat) : LSlot :=
  let w := fun o => s.peek (a + o) 8
  { addr := a, expert := bitsOf (w 0) 11 0, valid := bitOf (w 0) 12, rsvd := decide (bitsOf (w 0) 31 13 ≠ 0),
    rows := w 0 / 2 ^ 32, cap := w 8 % 2 ^ 32, ptrs := (List.range 6).map fun i => w (0x10 + 8 * i),
    desc := (List.range 8).map fun i => w (0x40 + 8 * i) }

/-- A tensor pointer of a slot. -/
def LSlot.ptr (v : LSlot) (i : Nat) : Nat := v.ptrs.getD i 0 % 2 ^ 48

/-- What the tables of an exchange hold: the domain's nodes, each expert's replicas as node and local slot, the
capacities and the local slots. -/
structure ExTables where
  dom   : List Nat
  place : List (List (Nat × Nat))
  caps  : List Nat
  slots : List LSlot
  deriving DecidableEq, Repr

/-- Read the placement entry of an expert (R183), with whether its reserved bits are 0. -/
def placeOf (r : Nat) : List (Nat × Nat) × Bool :=
  let n := bitsOf r 2 0
  let rep := fun i => bitsOf r (32 * i + 63) (32 * i + 32)
  ((List.range n).map fun i => (bitsOf (rep i) 15 0, bitsOf (rep i) 23 16),
    decide (bitsOf r 31 3 = 0) && (List.range 7).all fun i => decide (bitsOf (rep i) 31 24 = 0))

/-- Which of the domain, placement, capacity and slot tables lie in the partition's regions. -/
structure TabsIn where
  dom   : Bool
  place : Bool
  caps  : Bool
  slots : Bool
  deriving DecidableEq, Repr

/-- Read the tables; one that lies outside the partition's regions is not read. -/
def State.exTables (s : State) (d : ExDesc) (r : TabsIn) : ExTables :=
  let n := fun (b : Bool) (n : Nat) => if b then n else 0
  { dom := (List.range (n r.dom d.ndom)).map fun i => s.peek (d.ptr 1 + 2 * i) 2,
    place := (List.range (n r.place d.nexp)).map fun e => (placeOf (s.peek (d.ptr 2 + 32 * e) 32)).1,
    caps := (List.range (n r.caps d.nexp)).map fun e => s.peek (d.ptr 3 + 4 * e) 4,
    slots := (List.range (n r.slots d.nslots)).map fun v => s.lslotAt (d.ptr 4 + 128 * v) }

/-- The descriptor's own checks (R181, R187, R190): fields, ranges, formats and strides. -/
def ExDesc.fieldsOk (d : ExDesc) : Bool :=
  !d.rsvd && decide (d.score ≠ 3) && decide (1 ≤ d.k) && decide (d.k ≤ 8) && decide (d.spill ≤ 16) &&
  decide (1 ≤ d.nexp) && decide (d.nexp ≤ 4096) && decide (1 ≤ d.ndom) && decide (d.t ≤ 2 ^ 20) && decide (d.t ≤ d.tmax) &&
  decide (d.tmax ≤ 2 ^ 20) && decide (d.h ≠ 0) && decide (d.h % 16 = 0) && decide (d.nslots ≤ 256) &&
  (d.home.map (·.fmt) ++ d.kinds.map (·.fmt)).all (fun f => rowFmtOk f && decide (rowStride d.h f ≤ 130816)) &&
  (!d.expert || (!d.next && d.spill == 0 && !d.renorm))

/-- A pointer is local and aligned to 128 bytes (R190, R543). -/
def exPtrOk (own v : Nat) : Bool := decide (v % 128 = 0) && decide (v / 2 ^ 48 = 0 ∨ v / 2 ^ 48 = own)

/-- The checks of the placement and the local slots (R190), for a module of number `own`, as far as the tables they need
could be read. -/
def ExTables.ok (x : ExTables) (d : ExDesc) (own : Nat) (r : TabsIn) : Bool :=
  (x.place.zipIdx.all fun (rs, e) => rs.all fun (n, v) =>
    (!r.dom || x.dom.contains n) &&
      (n != own || !r.slots || (x.slots[v]?).any fun sl => sl.valid && sl.expert == e)) &&
  (x.slots.zipIdx.all fun (sl, v) =>
    !sl.rsvd && (sl.ptrs ++ sl.desc).all (exPtrOk own) &&
    (!sl.valid || (decide (sl.expert < d.nexp) && (!r.place || (x.place.getD sl.expert []).contains (own, v)))))

/-- The tables' places, in descriptor order. -/
def ExDesc.tables (d : ExDesc) : List (Nat × Nat) :=
  [(d.ptr 0, if d.t = 0 then 0 else (d.t - 1) * d.lstr + 4 * d.nexp), (d.ptr 1, 2 * d.ndom), (d.ptr 2, 32 * d.nexp),
    (d.ptr 3, 4 * d.nexp), (d.ptr 4, 128 * d.nslots), (d.ptr 5, 4 * d.t), (d.ptr 6, 32 * d.t), (d.ptr 7, 16 * d.nexp),
    (d.ptr 8, 32 * d.t)]

/-- The home tensors' places. -/
def ExDesc.homes (d : ExDesc) : List (Nat × Nat) :=
  d.home.zipIdx.map fun (x, i) =>
    let rows := if i = 1 then d.t * d.k else d.t
    (x.row 0, if rows = 0 then 0 else (rows - 1) * x.stride + d.rowBytes x.fmt)

/-- The places of a local slot's tensors, and of the entries it writes M into. -/
def LSlot.places (v : LSlot) (d : ExDesc) : List (Nat × Nat) :=
  (if v.valid then
    ((List.range 4).map fun i => (v.ptr i, v.cap * rowStride d.h (d.kind i).fmt)) ++
      [(v.ptr 4, 16 * v.cap), (v.ptr 5, 4 * d.ndom * d.tmax)] else []) ++
  (v.desc.filter (· != 0)).map fun p => (p % 2 ^ 48, 4)

/-- The slots an exchange's descriptor names. -/
def ExDesc.scaleSlots (d : ExDesc) : List Nat := d.home.map (·.slot) ++ d.kinds.map (·.slot)

/-- A descriptor breaks R190: SU_ERR.MALFORMED of L0 (R545). -/
def State.exBad (s : State) (c : CmdId) : State := (s.setBit (suErrOff 0) 0).endCmd c stMalformed detailPacket

/-- A tensor or table lies outside the partition's regions: SU_ERR.BOUNDS of L0 (R190, R545). -/
def State.exBounds (s : State) (c : CmdId) (a : Nat) : State := (s.setBit (suErrOff 0) 1).endBounds c a

/-- Which tables of a descriptor lie in the partition's regions. -/
def State.tabsIn (s : State) (p : Nat) (d : ExDesc) : TabsIn :=
  let in_ := fun i => ((d.tables[i]?).bind fun t => s.refused p t.1 t.2).isNone
  ⟨in_ 1, in_ 2, in_ 3, in_ 4⟩

/-- What the check of an exchange reads: its descriptor, its tables and the slots it names. -/
def State.exLook (s : State) (p a : Nat) : State :=
  if (s.refusedGal p a 256).isSome then s
  else
    let d := ExDesc.ofRaw (s.peek a 256)
    let r := s.tabsIn p d
    let s := [(r.dom, 1), (r.place, 2), (r.caps, 3), (r.slots, 4)].foldl (fun (s : State) (b, i) =>
      match b, d.tables[i]? with
      | true, some t => s.look t.1 t.2
      | _, _ => s) (s.look a 256)
    s.lookSlots p d.scaleSlots

/-- The descriptor and tables an exchange command names, or the way the command ends: malformed first, then bounds
(R190). Tables outside the partition's regions are not read. -/
def State.exArgs (s : State) (x : Cmd) : Except (State → State) (ExDesc × ExTables × Nat) :=
  let c := x.id
  let p := c.p
  let own := s.ownNode p
  let bad : Except (State → State) (ExDesc × ExTables × Nat) := .error fun s => s.exBad c
  if !exPtrOk own (x.par 0) || !unusedZero x 1 then .error fun s => s.badPacket c
  else
    let a := x.par 0 % 2 ^ 48
    match s.refusedGal p a 256 with
    | some b => .error fun s => s.exBounds c b
    | none =>
      let d := ExDesc.ofRaw (s.peek a 256)
      let inPlan := (s.job p).plan.any fun pl => pl.planId.toNat == d.planId
      if !d.fieldsOk || !inPlan || !(d.ptrs ++ d.home.map (·.ptr)).all (exPtrOk own) then bad
      else
        let r := s.tabsIn p d
        let t := s.exTables d r
        let placeOk := !r.place || (List.range d.nexp).all fun e => (placeOf (s.peek (d.ptr 2 + 32 * e) 32)).2
        if (r.dom && !t.dom.contains own) || !placeOk || !t.ok d own r then bad
        else
          match s.checkSlots p d.scaleSlots with
          | .poison b => .error fun s => s.slotBite c b
          | .malformed => bad
          | .ok =>
            match (d.tables ++ d.homes ++ t.slots.flatMap (·.places d)).findSome? fun (b, n) => s.refused p b n with
            | some b => .error fun s => s.exBounds c b
            | none => .ok (d, t, a)

/-! ## Scores and selection (R175 to R181) -/

/-- The quota of an expert of capacity c at source lantern index i of n (R176). -/
def quota (c i n : Nat) : Nat := c * (i + 1) / n - c * i / n

/-- The first token of a lantern (R175). -/
def lanFirst (t n : Nat) : Nat := n * t / 8

/-- The lantern that holds a token (R175). -/
def lanOf (total t : Nat) : Nat := ((List.range 8).find? fun n => decide (t < lanFirst total (n + 1))).getD 7

/-- A left fold of additions rounded to FP32 under RN (R177, R179). -/
def fold32 : List FVal → FVal
  | [] => .zero
  | v :: vs => vs.foldl (fun a b => rnVal .fp32 (fvAdd a b 0).1) v

/-- The scores of a token's logits (R177). -/
def scores (fn : Nat) (ls : List FVal) : List FVal :=
  match fn with
  | 1 =>
    match ls.filter (!·.isNan) with
    | [] => ls
    | v :: vs =>
      let m := vs.foldl (fun a b => if fvLt false a b then b else a) v
      let ex := ls.map fun l => if l.isNan then l else rnVal .fp32 (expDiff l m).1
      let sum := fold32 ((ls.zip ex).filterMap fun (l, x) => if l.isNan then none else some x)
      (ls.zip ex).map fun (l, x) => if l.isNan then l else rnVal .fp32 (fvDiv x sum).1
  | 2 => ls.map fun l => rnVal .fp32 (fvTrans .sigmoid l).1
  | _ => ls

/-- An accepted choice: its expert, its FP16 gate, whether it was a spill and whether its gate was renormalised. -/
structure Choice where
  e      : Nat
  gate   : Nat
  spill  : Bool
  renorm : Bool
  deriving DecidableEq, Repr

/-- What a lantern's selection comes to: each token's choices in rank order, the counts per expert of choices
accepted, found full and spilled in, and DROPPED and UNROUTED. -/
structure Selection where
  toks : List (Nat × List Choice)
  used : List Nat
  full : List Nat
  spin : List Nat
  drop : Nat
  unrt : Nat
  deriving DecidableEq, Repr

/-- Add to element i of a list of counts. -/
def bump (l : List Nat) (i n : Nat) : List Nat := l.set i (l.getD i 0 + n)

/-- The candidates of a token in rank order (R178). -/
def candidates (place : List (List (Nat × Nat))) (ps : List FVal) : List (Nat × FVal) :=
  sortBy (fun a b => fvLt false b.2 a.2)
    (ps.zipIdx.filterMap fun (v, e) => if v.isNan || (place.getD e []).isEmpty then none else some (e, v))

/-- The gates of a token's accepted choices (R180). -/
def gates (renorm : Bool) (orig : FVal) (acc : List (Nat × FVal × Bool)) : List Choice :=
  let surv := fold32 (acc.map (·.2.1))
  let zero := match surv with
    | .fin _ m => decide (m = 0)
    | _ => false
  if !renorm || zero then acc.map fun (e, p, sp) => ⟨e, rnCode .fp16 p, sp, false⟩
  else
    let f := rnVal .fp32 (fvDiv orig surv).1
    acc.map fun (e, p, sp) => ⟨e, rnCode .fp16 (fvMul p f).1, sp, true⟩

/-- Examine a token's candidates in rank order (R179): those accepted, with the counts. -/
def examine (k limit : Nat) (q : Nat → Nat) :
    List (Nat × FVal) → Nat → List (Nat × FVal × Bool) → Selection → List (Nat × FVal × Bool) × Selection
  | [], _, acc, o => (acc, o)
  | (e, p) :: cs, i, acc, o =>
    if acc.length < k ∧ i < limit then
      if o.used.getD e 0 < q e then
        examine k limit q cs (i + 1) (acc ++ [(e, p, decide (k ≤ i))])
          { o with used := bump o.used e 1, spin := if k ≤ i then bump o.spin e 1 else o.spin }
      else examine k limit q cs (i + 1) acc { o with full := bump o.full e 1 }
    else (acc, o)

/-- Tokens by highest score, then by slot; a token with no candidate comes last (R179). -/
def tokBefore (a b : Nat × List (Nat × FVal)) : Bool :=
  match a.2, b.2 with
  | [], _ => false
  | _ :: _, [] => true
  | x :: _, y :: _ => fvLt false y.2 x.2

/-- route_tc for a lantern (R179). -/
def tokenChoice (d : ExDesc) (q : Nat → Nat) (toks : List (Nat × List (Nat × FVal))) (o : Selection) : Selection :=
  (sortBy tokBefore toks).foldl (fun o (t, cand) =>
    let n0 := Nat.min d.k cand.length
    let orig := fold32 ((cand.take n0).map (·.2))
    let (acc, o) := examine d.k (if d.next then d.k + d.spill else d.k) q cand 0 [] o
    { o with toks := keySet o.toks t (gates d.renorm orig acc), drop := o.drop + (n0 - acc.length),
             unrt := o.unrt + (if acc.isEmpty then 1 else 0) }) o

/-- Expert choice for a lantern (R181): every expert in service takes its quota of eligible tokens. -/
def expertChoice (d : ExDesc) (place : List (List (Nat × Nat))) (q : Nat → Nat) (toks : List (Nat × List FVal))
    (o : Selection) : Selection :=
  let o : Selection := { o with toks := toks.map fun (t, _) => (t, []) }
  let o := (List.range d.nexp).foldl (fun (o : Selection) e =>
    if (place.getD e []).isEmpty then o
    else
      let elig := toks.filterMap fun (t, ps) =>
        let p := ps.getD e (.nan false)
        if p.isNan || decide (d.k ≤ ((keyGet o.toks t).getD []).length) then none else some (t, p)
      let take := (sortBy (fun (a b : Nat × FVal) => fvLt false b.2 a.2) elig).take (q e)
      let o := { o with used := bump o.used e take.length, full := bump o.full e (elig.length - q e) }
      take.foldl (fun (o : Selection) (t, p) =>
        { o with toks := keySet o.toks t ((keyGet o.toks t).getD [] ++ [⟨e, rnCode .fp16 p, false, false⟩]) }) o) o
  { o with unrt := (o.toks.filter (·.2.isEmpty)).length }

/-- Elements of a row: their codes with their poison marks. -/
def rowElems (f : Fmt) : Nat → List PByte → List (Nat × Bool)
  | 0, _ => []
  | n + 1, bs => (leNat (plain (bs.take f.bytes)), anyPoison (bs.take f.bytes)) :: rowElems f n (bs.drop f.bytes)

/-- The logits of a lantern's tokens, or the first poisoned sector among them (R177, R204). -/
def State.logits (s : State) (p : Nat) (d : ExDesc) (ts : List Nat) :
    Except Nat (List (Nat × List FVal)) × State :=
  ts.foldl (fun (a : Except Nat (List (Nat × List FVal)) × State) t =>
    match a.1 with
    | .error b => (.error b, a.2)
    | .ok l =>
      let at_ := d.ptr 0 + t * d.lstr
      let (bs, s) := a.2.load p at_ (4 * d.nexp)
      match firstPoison at_ bs with
      | some b => (.error b, s)
      | none => (.ok (l ++ [(t, (rowElems .fp32 d.nexp bs).map fun x => Fmt.fp32.decode x.1)]), s)) (.ok [], s)

/-- Selection on one lantern (R177 to R181): what it chose, the NaN scores it met, or the poison that stopped it. -/
def State.selectOn (s : State) (p : Nat) (d : ExDesc) (x : ExTables) (n : Nat) :
    Except Nat (Selection × Nat) × State :=
  let ts := (List.range (lanFirst d.t (n + 1) - lanFirst d.t n)).map (· + lanFirst d.t n)
  match s.logits p d ts with
  | (.error b, s) => (.error b, s)
  | (.ok l, s) =>
    let sc := l.map fun (t, ls) => (t, scores d.score ls)
    let src := 8 * ((x.dom.findIdx? (· == s.ownNode p)).getD 0) + n
    let q := fun e => quota (x.caps.getD e 0) src (8 * d.ndom)
    let z := List.replicate d.nexp 0
    let o : Selection := ⟨[], z, z, z, 0, 0⟩
    let nans := (sc.map fun y => (y.2.filter (·.isNan)).length).foldl (· + ·) 0
    let o := if d.expert then expertChoice d x.place q sc o
      else tokenChoice d q (sc.map fun (t, ps) => (t, candidates x.place ps)) o
    (.ok (o, nans), s)

/-- A routing word (R188). -/
def routeWord (c : Choice) : Nat := c.gate + c.e * 2 ^ 16 + 2 ^ 28 + (if c.spill then 2 ^ 29 else 0)

/-- A failure of an exchange command (R202). -/
def State.exFail (s : State) (c : CmdId) (st detail : Nat) : State :=
  s.noteFail c ⟨failRank 0x30 st, 0, st, BitVec.ofNat 64 detail, false⟩

/-- A sector unit that no other command holds is in FAULT until the command's completion is posted (R63, R206). -/
def State.suFault (s : State) (c : CmdId) (n : Nat) : State :=
  if (keyGet s.holders (112 + n)).getD c = c then
    (({ s with holders := keySet s.holders (112 + n) c }).setFld (suStatusOff n) 31 30 3).setFld (suStatusOff n) 29 28 c.p
  else s

/-- Poison bites in a sector unit (R204). -/
def State.suBite (s : State) (c : CmdId) (n a : Nat) : State :=
  (((s.suFault c n).setBit (suErrOff n) 2).bite c.part blkSu a).exFail c stPoison (s.globalOf c.p a).toNat

/-- Sector unit n adds to a 32-bit count in memory, saturating (R189); a poisoned count bites and stays (R257). -/
def State.addCount (s : State) (c : CmdId) (n a v : Nat) : State :=
  if v = 0 then s
  else
    let (bs, s) := s.readMem a 4
    match firstPoison a bs with
    | some b => s.suBite c n b
    | none => s.poke a 4 (Nat.min 0xFFFFFFFF (leNat (plain bs) + v))

/-- The eight words of each token of a lantern. -/
def routeBytes (words : List Nat) : List Byte := (List.range 8).flatMap fun r => natLe 4 (words.getD r 0)

/-- Select on one lantern and write what it writes (R188, R189, R204): the choices by token. -/
def State.selectLan (s : State) (c : CmdId) (d : ExDesc) (x : ExTables) (n : Nat) : List (Nat × List Choice) × State :=
  let p := c.p
  let put := fun (s : State) (t : Nat) (ws : List Nat) => s.storeP p (d.ptr 6 + 32 * t) (clean (routeBytes ws))
  match s.selectOn p d x n with
  | (.error b, s) =>
    let ts := (List.range (lanFirst d.t (n + 1) - lanFirst d.t n)).map (· + lanFirst d.t n)
    ([], (ts.foldl (fun s t => put s t [2 ^ 30]) s).suBite c n b)
  | (.ok (o, nans), s) =>
    let s := o.toks.foldl (fun s (t, cs) => put s t (cs.map routeWord)) s
    let s := (List.range d.nexp).foldl (fun s e =>
      let a := d.ptr 7 + 16 * e
      ((s.addCount c n a (o.used.getD e 0)).addCount c n (a + 4) (o.full.getD e 0)).addCount c n (a + 8)
        (o.spin.getD e 0)) s
    let s := (s.count (suDroppedOff n) o.drop).count (suSpilledOff n) (o.spin.foldl (· + ·) 0)
    (o.toks, (s.count (suNanScoresOff n) nans).count (suUnroutedOff n) o.unrt)

/-- Selection on all eight lanterns (R193, stage 1). -/
def State.selectAll (s : State) (c : CmdId) (d : ExDesc) (x : ExTables) : List (List (Nat × List Choice)) × State :=
  (List.range 8).foldl (fun (a : List (List (Nat × List Choice)) × State) n =>
    let (o, s) := a.2.selectLan c d x n
    (a.1 ++ [o], s)) ([], s)

/-! ## Tags and parcels (R182, R191, R192) -/

/-- A tag's fields (R182). -/
structure Tag where
  gate   : Nat
  renorm : Bool
  spill  : Bool
  grad   : Bool
  expert : Nat
  rank   : Nat
  pos    : Nat
  slot   : Nat
  node   : Nat
  deriving DecidableEq, Repr

/-- The 96 bits of a tag. -/
def Tag.raw (t : Tag) : Nat :=
  t.node % 2 ^ 16 + t.slot % 2 ^ 20 * 2 ^ 16 + t.pos % 2 ^ 24 * 2 ^ 36 + t.rank % 8 * 2 ^ 60 + t.expert % 2 ^ 12 * 2 ^ 63 +
    (if t.grad then 2 ^ 75 else 0) + (if t.spill then 2 ^ 76 else 0) + (if t.renorm then 2 ^ 77 else 0) +
    t.gate % 2 ^ 16 * 2 ^ 80

/-- Read a tag. -/
def Tag.ofRaw (r : Nat) : Tag :=
  { gate := bitsOf r 95 80, renorm := bitOf r 77, spill := bitOf r 76, grad := bitOf r 75, expert := bitsOf r 74 63,
    rank := bitsOf r 62 60, pos := bitsOf r 59 36, slot := bitsOf r 35 16, node := bitsOf r 15 0 }

/-- Rows that fit a buffer of a class (R192). -/
def classRows (cls stride : Nat) : Nat :=
  let size := poolClassSize cls
  ((List.range (size / stride + 1)).reverse.find? fun n =>
    decide (128 + (12 * n + 127) / 128 * 128 + n * stride ≤ size)).getD 0

/-- A row on its way: its tag and its bytes. -/
abbrev SendRow := Nat × List PByte

/-- Pad to a multiple of 128 bytes with zeros. -/
def pad128 (bs : List PByte) : List PByte := bs ++ clean (List.replicate ((128 - bs.length % 128) % 128) 0)

/-- A stream's rows in parcels, with each parcel's class (R192). -/
def parcels (stride : Nat) (rows : List SendRow) : List (Nat × List SendRow) :=
  let n3 := Nat.max 1 (classRows 3 stride)
  let full := (List.range (rows.length / n3)).map fun i => (3, (rows.drop (n3 * i)).take n3)
  let rest := rows.drop (rows.length / n3 * n3)
  if rows.isEmpty then [(0, [])]
  else if rest.isEmpty then full
  else full ++ [(((List.range 4).find? fun c => decide (rest.length ≤ classRows c stride)).getD 3, rest)]

/-- The 128 bytes of a parcel's header (R191). -/
def parcelHeader (d : ExDesc) (st : StreamId) (i n fmt : Nat) (sigma : Int) (last : Bool) (total : Nat) : List Byte :=
  natLe 4 d.exchId ++ natLe 4 d.planId ++
  natLe 8 (st.node.toNat + st.lantern.val * 2 ^ 16 + st.dir.val * 2 ^ 19 + (if last then 2 ^ 21 else 0) + i % 2 ^ 16 * 2 ^ 32) ++
  natLe 8 (n % 2 ^ 32 + fmt % 16 * 2 ^ 32 + toSext8 sigma * 2 ^ 36) ++ natLe 8 (if last then total else 0) ++
  List.replicate 96 0

/-- The bytes of a parcel. -/
def parcelBytes (d : ExDesc) (st : StreamId) (fmt : Nat) (sigma : Int) (i : Nat) (last : Bool) (total : Nat)
    (rows : List SendRow) : List PByte :=
  clean (parcelHeader d st i rows.length fmt sigma last total) ++ pad128 (clean (rows.flatMap fun r => natLe 12 r.1)) ++
    rows.flatMap fun r => pad128 r.2

/-- A stream to send: its receiver, its lantern, its format and σ, and its rows in order. -/
structure SendStream where
  node  : Nat
  lan   : Lan
  fmt   : Nat
  sigma : Int
  rows  : List SendRow

/-- The exchange sends of a stream (R192, R296). -/
def SendStream.sends (t : SendStream) (s : State) (c : CmdId) (d : ExDesc) (dir : Fin 4) : List XSend :=
  let st : StreamId := ⟨dir, BitVec.ofNat 16 (s.ownNode c.p), t.lan⟩
  let ps := parcels (rowStride d.h t.fmt) t.rows
  ps.zipIdx.map fun ((cls, rows), i) =>
    let bs := parcelBytes d st t.fmt t.sigma i (i + 1 == ps.length) t.rows.length rows
    { part := c.part, cmd := c, st := st, node := BitVec.ofNat 16 t.node, cls := Fin.ofNat 4 cls,
      exchId := BitVec.ofNat 32 d.exchId, data := plain bs, poison := bs.map (·.2), buf := none, stripe := i }

/-- The XALLOC that starts a send (R296). -/
def xallocReq (x : XSend) (id : Nat) : Req :=
  { cmdReq x.cmd 0 x.st.lantern (.xalloc id)
      (pkWith (pkTo 0x0C 1 x.part (x.node.toNat * 2 ^ 48)) (clean (natLe 8 x.cls.val))) with stripe := some x.stripe }

/-- Send a command's streams: each parcel is an exchange send, and the command waits for them and for the streams
that come to it (R193, R546). -/
def State.sendStreams (s : State) (c : CmdId) (d : ExDesc) (dir : Fin 4) (ts : List SendStream) : State :=
  let xs := ts.flatMap fun t => t.sends s c d dir
  let base := s.xsends.foldl (fun m x => Nat.max m (x.1 + 1)) 0
  let s : State := { s with xsends := s.xsends ++ xs.zipIdx.map fun (x, i) => (base + i, x) }
  (s.issued c (xs.length + 1)).fabIssue (xs.zipIdx.map fun (x, i) => xallocReq x (base + i))

/-! ## Opening and closing an exchange -/

/-- The streams a command waits for (R191): from every lantern of every module of the domain, or from every module. -/
def streamsOf (dir : Fin 4) (dom : List Nat) : List StreamId :=
  dom.eraseDups.flatMap fun n =>
    (if dir.val % 2 = 0 then List.finRange 8 else [0]).map fun l => ⟨dir, BitVec.ofNat 16 n, l⟩

/-- Open a direction of an exchange for a command, which names the slots its conversions write under. -/
def State.exOpen (s : State) (c : CmdId) (d : ExDesc) (x : ExTables) (desc : Nat) (dir : Fin 4) : State :=
  let slot := fun i => (d.tensor i).slot
  let slots := match dir with
    | 0 => [(d.kind 0).slot]
    | 1 => slot 2 :: (if d.retain then [slot 1] else [])
    | 2 => [(d.kind 2).slot]
    | 3 => [slot 4]
  let e : Exch :=
    { part := c.part, exchId := BitVec.ofNat 32 d.exchId, plan := BitVec.ofNat 32 d.planId, dir := dir, cmd := c,
      desc := desc, missing := streamsOf dir x.dom, arrived := [], rows := [], fill := List.replicate d.nslots 0 }
  let s := s.onCmd c fun y => { y with slots := slots.filter (· != 0xFFFF) }
  (List.range 8).foldl (fun (s : State) n => s.setFld (suStatusOff n) 15 0 (d.exchId % 2 ^ 16))
    { s with exchs := s.exchs ++ [e] }

/-- A parcel's header as one number (R191). -/
def State.parcelHdr (s : State) (b : Nat) : Nat := s.peek b 32

/-- DIR of a header. -/
def hdrDir (h : Nat) : Nat := bitsOf h 84 83

/-- Parcels in the direction of an exchange leave the queue, and their buffers are freed. -/
def State.freeParcels (s : State) (e : Exch) (mine : Parcel → Bool) : State :=
  let out := s.parcels.filter fun q => q.part == e.part && q.exchId == e.exchId &&
    hdrDir (s.parcelHdr q.buf) == e.dir.val && mine q
  let s : State := { s with parcels := s.parcels.filter fun q => !out.contains q }
  out.foldl (fun s q => s.poolFree e.part 0 q.buf) s

/-- Note the sources of rows that do not match (R202). -/
def State.mismatches (s : State) (e : Exch) (bad : List Node) : State :=
  bad.foldl (fun s n =>
    ((s.setBit (suErrOff 0) 4).raise evPlanMismatch (some e.part) n.toNat e.exchId.toNat).exFail e.cmd stPlanMismatch
      n.toNat) s

/-- The nodes outside the domain from which parcels of an exchange's direction have come. -/
def State.strangers (s : State) (e : Exch) : List Node :=
  let dom := (e.missing ++ e.arrived).map (·.node)
  ((s.parcels.filter fun q => q.part == e.part && q.exchId == e.exchId &&
    hdrDir (s.parcelHdr q.buf) == e.dir.val).map fun q => BitVec.ofNat 16 (bitsOf (s.parcelHdr q.buf) 79 64)).eraseDups.filter
      fun n => !dom.contains n

/-- Close a direction of an exchange: what still waits for it is freed, a parcel from outside the domain as a plan mismatch,
and what comes later is late (R202). -/
def State.exClose (s : State) (e : Exch) : State :=
  let s := (s.mismatches e (s.strangers e)).freeParcels e fun _ => true
  ({ s with exchs := s.exchs.filter fun x => x.cmd != e.cmd,
            exchDone := s.exchDone ++ [(e.part, e.exchId, e.plan, e.dir)] } : State).suShowAll

/-- Change the open exchange of a command. -/
def State.onExch (s : State) (c : CmdId) (f : Exch → Exch) : State :=
  { s with exchs := s.exchs.map fun e => if e.cmd = c then f e else e }

/-! ## The four commands -/

/-- The replica of an expert that serves a source node (R184). -/
def replicaOf (x : ExTables) (e node : Nat) : Option (Nat × Nat) :=
  let rs := x.place.getD e []
  rs[node % rs.length]?

/-- Position bits of a token's tag (R182). -/
def State.posOf (s : State) (d : ExDesc) (t : Nat) : Nat := s.peek (d.ptr 5 + 4 * t) 4 % 2 ^ 24

/-- Rows of a home tensor to send for routed words, from one lantern: each word is a token, a rank and a tag. They go
out by receiving node, ordered by receiving slot and then by source slot (R191). -/
def State.homeStreams (s : State) (c : CmdId) (d : ExDesc) (x : ExTables) (i : Nat) (n : Lan) (ws : List Tag) :
    List SendStream × State :=
  let h := d.tensor i
  let routed := ws.filterMap fun t => (replicaOf x t.expert t.node).map fun r => (r, t)
  let (rows, s) := routed.foldl (fun (a : List ((Nat × Nat) × Tag × List PByte) × State) (r, t) =>
    let (bs, s) := a.2.load c.p (h.row t.slot) (d.rowBytes h.fmt)
    (a.1 ++ [(r, t, bs)], s)) ([], s)
  let sigma := s.sigmaOf c.p h.slot
  (x.dom.eraseDups.map fun node =>
    let mine := rows.filter fun y => y.1.1 == node
    let sorted := sortBy (fun (a b : (Nat × Nat) × Tag × List PByte) =>
      decide (a.1.2 < b.1.2) || (a.1.2 == b.1.2 && decide (a.2.1.slot < b.2.1.slot))) mine
    ⟨node, n, h.fmt, sigma, sorted.map fun y => (y.2.1.raw, y.2.2)⟩, s)

/-- A command's home streams from all eight lanterns. -/
def State.homeAll (s : State) (c : CmdId) (d : ExDesc) (x : ExTables) (i : Nat) (ws : List Tag) :
    List SendStream × State :=
  (List.finRange 8).foldl (fun (a : List SendStream × State) n =>
    let (l, s) := a.2.homeStreams c d x i n (ws.filter fun t => lanOf d.t t.slot == n.val)
    (a.1 ++ l, s)) ([], s)

/-- The row maps of the VALID slots with no row (R196), and the slot table noted for the next plan's clearing of
TOKENS (R185). -/
def State.freshMaps (s : State) (c : CmdId) (d : ExDesc) (x : ExTables) : State :=
  let s := s.onJob c.p fun j =>
    let k := d.ptr 4 * 512 + d.nslots
    if j.slotTabs.contains k then j else { j with slotTabs := j.slotTabs ++ [k] }
  x.slots.foldl (fun s v =>
    if v.valid then s.storeP c.p (v.ptr 5) (clean (List.replicate (4 * d.ndom * d.tmax) 0xFF)) else s) s

/-- ROUTE_TOKENS's start (R193, stages 1 and 2). -/
def State.routeTokens (s : State) (c : CmdId) (d : ExDesc) (x : ExTables) (a : Nat) : State :=
  let s := (s.exOpen c d x a 0).freshMaps c d x
  let (sel, s) := s.selectAll c d x
  let own := s.ownNode c.p
  let s := s.look (d.ptr 5) (4 * d.t)
  let tags := (sel.flatMap id).flatMap fun (t, cs) => cs.zipIdx.map fun (ch, r) =>
    ({ gate := ch.gate, renorm := ch.renorm, spill := ch.spill, grad := false, expert := ch.e, rank := r,
       pos := s.posOf d t, slot := t, node := own } : Tag)
  let (ts, s) := s.homeAll c d x 0 tags
  s.sendStreams c d 0 ts

/-- The valid routing words of every home token as tags (R188, R195). The record keeps no RENORM: the descriptor's is
taken. -/
def State.routedTags (s : State) (p : Nat) (d : ExDesc) : List Tag :=
  (List.range d.t).flatMap fun t => (List.range 8).filterMap fun r =>
    let w := s.peek (d.ptr 6 + (8 * t + r) * 4) 4
    if bitOf w 28 then
      some { gate := bitsOf w 15 0, renorm := d.renorm, spill := bitOf w 29, grad := true, expert := bitsOf w 27 16,
             rank := r, pos := s.posOf d t, slot := t, node := s.ownNode p }
    else none

/-- A row's bytes with no value the spec states, poisoned (R204). -/
def poisonRow (a n : Nat) : List PByte := (List.range n).map fun i => (Config.lostByte (a + i), true)

/-- The gate gradient of a valid word (R195): the sum tree over the products of DY and RET; poison travels into it. -/
def State.gateGrad (s : State) (c : CmdId) (d : ExDesc) (w : Tag) : State :=
  let dy := d.tensor 3
  let rt := d.tensor 1
  if d.k ≤ w.rank then s
  else
    let (a, s) := s.load c.p (dy.row w.slot) (d.rowBytes dy.fmt)
    let (b, s) := s.load c.p (rt.row (w.slot * d.k + w.rank)) (d.rowBytes rt.fmt)
    let at_ := d.ptr 8 + (8 * w.slot + w.rank) * 4
    if anyPoison a || anyPoison b then s.storeP c.p at_ (poisonRow at_ 4)
    else
      let val := fun (x : HomeTensor) (e : Nat × Bool) => decodeScaled (rowFmt x.fmt) e.1 (s.sigmaOf c.p x.slot) (some 0)
      let leaves := ((rowElems (rowFmt dy.fmt) d.h a).zip (rowElems (rowFmt rt.fmt) d.h b)).map fun (x, y) =>
        (⟨rnCode .fp32 (fvMul (val dy x) (val rt y)).1, 0, 1⟩ : Red)
      s.storeP c.p at_ (clean (natLe 4 (reduceTree .sum .fp32 17 leaves).1.v))

/-- ROUTE_GRADIENTS's start (R195). -/
def State.routeGrads (s : State) (c : CmdId) (d : ExDesc) (x : ExTables) (a : Nat) : State :=
  let s := s.exOpen c d x a 2
  let tags := s.routedTags c.p d
  let s := (s.look (d.ptr 6) (32 * d.t)).look (d.ptr 5) (4 * d.t)
  let (ts, s) := s.homeAll c d x 3 tags
  let s := if d.retain then tags.foldl (fun s w => s.gateGrad c d w) s else s
  s.sendStreams c d 2 ts

/-- The rows of every VALID slot with their tags, by home (R194, R197), ordered by home slot and then by rank. -/
def State.expertStreams (s : State) (c : CmdId) (d : ExDesc) (x : ExTables) (k tensor : Nat) (grad : Bool) :
    List SendStream × State :=
  let kd := d.kind k
  let stride := rowStride d.h kd.fmt
  let (rows, s) := x.slots.foldl (fun (a : List (Tag × List PByte) × State) v =>
    if !v.valid then a
    else
      (List.range (Nat.min v.rows v.cap)).foldl (fun (a : List (Tag × List PByte) × State) i =>
        let t := Tag.ofRaw (a.2.peek (v.ptr 4 + 16 * i) 12)
        let (bs, s) := (a.2.look (v.ptr 4 + 16 * i) 12).load c.p (v.ptr tensor + i * stride) (d.rowBytes kd.fmt)
        (a.1 ++ [({ t with grad := t.grad || grad }, bs)], s)) a) ([], s)
  let sigma := s.sigmaOf c.p kd.slot
  (x.dom.eraseDups.map fun node =>
    let mine := rows.filter fun y => y.1.node == node
    let sorted := sortBy (fun (a b : Tag × List PByte) =>
      decide (8 * a.1.slot + a.1.rank < 8 * b.1.slot + b.1.rank)) mine
    ⟨node, 0, kd.fmt, sigma, sorted.map fun y => (y.1.raw, y.2)⟩, s)

/-- RETURN_RESULTS's and RETURN_GRADIENTS's start (R194, R197). -/
def State.returnRows (s : State) (c : CmdId) (d : ExDesc) (x : ExTables) (a : Nat) (dir : Fin 4) : State :=
  let s := s.exOpen c d x a dir
  let (ts, s) := if dir = 1 then s.expertStreams c d x 1 1 false else s.expertStreams c d x 3 3 true
  s.sendStreams c d dir ts

/-- A command gives its sector units back, but for those in FAULT; they show what they do next. -/
def State.suFree (s : State) (c : CmdId) : State :=
  ({ s with holders := s.holders.filter fun h =>
      !(h.2 == c && decide (112 ≤ h.1) && decide (h.1 < 120)) || s.engineFaulted h.1 } : State).suShowAll

/-- The start of an exchange command, on the sector units that it holds: its checks, and its own start. -/
def State.exCommand (s : State) (c : CmdId) (op : Nat)
    (go : State → ExDesc → ExTables → Nat → State) : State :=
  match s.starting c op with
  | none => s
  | some y =>
    if s.hasYielded c then s
    else
      let s := if exPtrOk (s.ownNode c.p) (y.par 0) then s.exLook c.p (y.par 0 % 2 ^ 48) else s
      (match s.exArgs y with
        | .error f => f s
        | .ok (d, x, a) => go s d x a).suFree c

/-- ROUTE_TOKENS (R193). -/
def execRouteTokens (c : CmdId) (s : State) : Host.Outcome State Fault Refusal :=
  .next (s.exCommand c 0x30 fun s d x a => s.routeTokens c d x a)

/-- RETURN_RESULTS (R194). -/
def execReturnResults (c : CmdId) (s : State) : Host.Outcome State Fault Refusal :=
  .next (s.exCommand c 0x31 fun s d x a => s.returnRows c d x a 1)

/-- ROUTE_GRADIENTS (R195). -/
def execRouteGradients (c : CmdId) (s : State) : Host.Outcome State Fault Refusal :=
  .next (s.exCommand c 0x32 fun s d x a => s.routeGrads c d x a)

/-- RETURN_GRADIENTS (R197). -/
def execReturnGradients (c : CmdId) (s : State) : Host.Outcome State Fault Refusal :=
  .next (s.exCommand c 0x33 fun s d x a => s.returnRows c d x a 3)

/-! ## Receiving (R193 to R204) -/

/-- A row that has arrived: the source node of its stream, its tag, and where and how it lay. -/
structure InRow where
  src : Node
  tag : Tag
  raw : Nat
  row : ExRow

/-- The parcels of a stream, each with its index, in index order; none unless the LAST parcel and every lower index
have arrived (R193). -/
def State.streamIn (s : State) (p : Part) (exchId : W32) (st : StreamId) : Option (List Parcel) :=
  let mine := s.parcels.filterMap fun q =>
    let h := s.parcelHdr q.buf
    if q.part == p && q.exchId == exchId && hdrDir h == st.dir.val && bitsOf h 79 64 == st.node.toNat &&
        bitsOf h 82 80 == st.lantern.val then
      some (bitsOf h 111 96, bitOf h 85, q)
    else none
  match mine.find? (·.2.1) with
  | none => none
  | some (n, _) =>
    let ps := (List.range (n + 1)).filterMap fun i => (mine.find? fun m => m.1 == i).map (·.2.2)
    if ps.length = n + 1 then some ps else none

/-- The rows of a parcel, or nothing when it does not match the exchange: another PLAN_ID, no row format, or more rows
than it has bytes (R202). -/
def State.parcelRows (s : State) (e : Exch) (d : ExDesc) (src : Node) (q : Parcel) : Option (List InRow) × State :=
  let h := s.parcelHdr q.buf
  let n := bitsOf h 159 128
  let f := bitsOf h 163 160
  let stride := rowStride d.h f
  let tags := (12 * n + 127) / 128 * 128
  if bitsOf h 63 32 ≠ e.plan.toNat ∨ !rowFmtOk f ∨ q.bytes < 128 + tags + n * stride then (none, s)
  else
    let (rows, s) := (List.range n).foldl (fun (a : List InRow × State) i =>
      let at_ := q.buf + 128 + tags + i * stride
      let raw := a.2.peek (q.buf + 128 + 12 * i) 12
      let (bs, s) := (a.2.look (q.buf + 128 + 12 * i) 12).readMem at_ (d.rowBytes f)
      (a.1 ++ [⟨src, Tag.ofRaw raw, raw, ⟨at_, f, sext8 (bitsOf h 171 164), bs⟩⟩], s)) ([], s)
    (some rows, s)

/-- The rows of a stream's parcels, and whether some parcel did not match. -/
def State.streamRows (s : State) (e : Exch) (d : ExDesc) (src : Node) (ps : List Parcel) :
    (List InRow × Bool) × State :=
  ps.foldl (fun (a : (List InRow × Bool) × State) q =>
    match a.2.parcelRows e d src q with
    | (some l, s) => ((a.1.1 ++ l, a.1.2), s)
    | (none, s) => ((a.1.1, true), s)) (([], false), s)

/-- The progress of a pack: the state, the rows packed in each slot, what the conversions counted, and the sources of
rows that do not match. -/
structure PackRun where
  s    : State
  fill : List Nat
  acc  : SlotAcc
  bad  : List Node

/-- A row discarded as a plan mismatch (R202). -/
def PackRun.mismatch (r : PackRun) (src : Node) : PackRun := if r.bad.contains src then r else { r with bad := r.bad ++ [src] }

/-- Convert a row into a format under a scale, each element's exact value first put through `g`: R28 under RN. A mark
stays with its element (R204). -/
def convertRow (h : Nat) (x : ExRow) (fmt : Nat) (sigma : Int) (g : FVal → FVal) : List PByte × SlotAcc :=
  let f := rowFmt fmt
  let cs := (rowElems (rowFmt x.fmt) h x.data).map fun (c, m) =>
    (convert (g (decodeScaled (rowFmt x.fmt) c x.sigma (some 0))) f 0 sigma 0 false 0, m)
  (cs.flatMap fun (cv, m) => (natLe f.bytes cv.code).map fun b => (b, m), cs.foldl (fun a x => a.conv x.1) SlotAcc.none)

/-- The domain index of a tag's node, where its SLOT is in range (R202). -/
def tagHome (d : ExDesc) (x : ExTables) (t : Tag) : Option Nat :=
  if t.slot < d.tmax then (x.dom.findIdx? (· == t.node)).map fun i => i * d.tmax + t.slot else none

/-- The VALID local slot of a tag's expert. -/
def slotOf (x : ExTables) (t : Tag) : Option (Nat × LSlot) :=
  (x.slots.findIdx? fun v => v.valid && v.expert == t.expert).bind fun v => (x.slots[v]?).map fun l => (v, l)

/-- Pack one forward row into its inbox (R193, R196). -/
def PackRun.forward (p : Nat) (d : ExDesc) (x : ExTables) (r : PackRun) (w : InRow) : PackRun :=
  match slotOf x w.tag, tagHome d x w.tag with
  | some (v, l), some m =>
    let i := r.fill.getD v 0
    if l.cap ≤ i then r.mismatch w.src
    else
      let k := d.kind 0
      let (bs, a) := convertRow d.h w.row k.fmt (r.s.sigmaOf p k.slot) id
      let s := r.s.storeP p (l.ptr 0 + i * rowStride d.h k.fmt) bs
      let s := s.storeP p (l.ptr 4 + 16 * i) (clean (natLe 16 w.raw))
      let s := s.storeP p (l.ptr 5 + 4 * m) (clean (natLe 4 i))
      { r with s := s, fill := r.fill.set v (i + 1), acc := r.acc.join a }
  | _, _ => r.mismatch w.src

/-- Pack one gradient row at the row its map names, times its gate (R195). -/
def PackRun.gradient (p : Nat) (d : ExDesc) (x : ExTables) (r : PackRun) (w : InRow) : PackRun :=
  match slotOf x w.tag, tagHome d x w.tag with
  | some (_, l), some m =>
    let i := r.s.peek (l.ptr 5 + 4 * m) 4
    if i = 0xFFFFFFFF ∨ l.cap ≤ i then r.mismatch w.src
    else
      let k := d.kind 2
      let g := Fmt.fp16.decode w.tag.gate
      let (bs, a) := convertRow d.h w.row k.fmt (r.s.sigmaOf p k.slot) fun v => (fvMul g v).1
      let s := r.s.look (l.ptr 5 + 4 * m) 4
      { r with s := s.storeP p (l.ptr 2 + i * rowStride d.h k.fmt) bs, acc := r.acc.join a }
  | _, _ => r.mismatch w.src

/-- Pack rows for the direction of an exchange. -/
def State.packRows (s : State) (e : Exch) (d : ExDesc) (x : ExTables) (rows : List InRow) : State :=
  let p := e.part.val
  let r := rows.foldl (if e.dir = 0 then PackRun.forward p d x else PackRun.gradient p d x) ⟨s, e.fill, SlotAcc.none, []⟩
  let s := r.s.slotApply p (d.kind (if e.dir = 0 then 0 else 2)).slot r.acc
  (s.mismatches e r.bad).onExch e.cmd fun y => { y with fill := r.fill }

/-- A returned row waits for the combine; with RETAIN a result is also kept in RET (R194). -/
def State.returnRow (s : State) (e : Exch) (d : ExDesc) (w : InRow) : State :=
  let t := w.tag
  let p := e.part.val
  if d.t ≤ t.slot ∨ !bitOf (s.peek (d.ptr 6 + (8 * t.slot + t.rank) * 4) 4) 28 then s.mismatches e [w.src]
  else
    let s := (s.look (d.ptr 6 + (8 * t.slot + t.rank) * 4) 4).onExch e.cmd fun y =>
      if (keyGet y.rows (8 * t.slot + t.rank)).isSome then y
      else { y with rows := keySet y.rows (8 * t.slot + t.rank) w.row }
    if e.dir = 1 ∧ d.retain ∧ t.rank < d.k then
      let rt := d.tensor 1
      let (bs, a) := convertRow d.h w.row rt.fmt (s.sigmaOf p rt.slot) id
      (s.storeP p (rt.row (t.slot * d.k + t.rank)) bs).slotApply p rt.slot a
    else s

/-- A complete stream's rows are taken out of its buffers, which are freed (R193). -/
def State.takeStream (s : State) (e : Exch) (d : ExDesc) (st : StreamId) (ps : List Parcel) : List InRow × State :=
  let ((rows, odd), s) := s.streamRows e d st.node ps
  let s := s.freeParcels e fun q => ps.contains q
  (rows, if odd then s.mismatches e [st.node] else s)

/-- Rows in canonical order: by source node and then by source slot (R199). -/
def inBefore (a b : InRow) : Bool :=
  decide (a.tag.node < b.tag.node) || (a.tag.node == b.tag.node && decide (a.tag.slot < b.tag.slot))

/-- The forward exchange ends: ROWS, TOKENS and the M of the group descriptor entries (R185, R193, stage 4). A poisoned
TOKENS bites and stays (R257). -/
def State.forwardEnd (s : State) (e : Exch) (x : ExTables) : State :=
  let s := x.slots.zipIdx.foldl (fun s (v, i) =>
    let n := if v.valid then e.fill.getD i 0 else 0
    let s := s.poke (v.addr + 4) 4 n
    let (bs, s) := s.readMem (v.addr + 12) 4
    let s := match firstPoison (v.addr + 12) bs with
      | some b => s.suBite e.cmd 0 b
      | none => s.poke (v.addr + 12) 4 (leNat (plain bs) + n)
    (v.desc.filter (· != 0)).foldl (fun s q => s.poke (q % 2 ^ 48) 4 n) s) s
  (s.exClose e).pieceDone e.cmd

/-- In deterministic mode the forward pack waits for every stream and merges them (R199). -/
def State.mergePack (s : State) (e : Exch) (d : ExDesc) (x : ExTables) : State :=
  let (rows, s) := e.arrived.foldl (fun (a : List InRow × State) st =>
    match a.2.streamIn e.part e.exchId st with
    | some ps => let (l, s) := a.2.takeStream e d st ps; (a.1 ++ l, s)
    | none => a) ([], s)
  s.packRows e d x (sortBy inBefore rows)

/-- A complete stream is packed (R193 to R197); what it was the last of ends, but for a return, which waits for its
combine. -/
def State.packStream (s : State) (e : Exch) (d : ExDesc) (x : ExTables) (st : StreamId) (ps : List Parcel) : State :=
  let s := s.onExch e.cmd fun y => { y with missing := y.missing.filter (· != st), arrived := y.arrived ++ [st] }
  let last := e.missing.length == 1
  let e' : Exch := { e with missing := e.missing.filter (· != st), arrived := e.arrived ++ [st] }
  let s :=
    if e.dir = 0 ∧ s.determ e.part.val then (if last then s.mergePack e' d x else s)
    else
      let (rows, s) := s.takeStream e d st ps
      if e.dir.val % 2 = 0 then s.packRows e d x rows else rows.foldl (fun s w => s.returnRow e d w) s
  if !last then s
  else
    match s.exchs.find? fun y => y.cmd == e.cmd, e.dir with
    | some y, 0 => s.forwardEnd y x
    | some y, 2 => (s.exClose y).pieceDone y.cmd
    | _, _ => s

/-- A stream that the command does not wait for: its rows are discarded as a plan mismatch (R202). -/
def State.strayStream (s : State) (e : Exch) (st : StreamId) (ps : List Parcel) : State :=
  (s.freeParcels e fun q => ps.contains q).mismatches e [st.node]

/-- The open exchange of a command. -/
def State.exchOf (s : State) (c : CmdId) : Option Exch := s.exchs.find? fun e => e.cmd == c

/-- The descriptor and the tables of an open exchange, which was checked at its start. -/
def State.exNow (s : State) (e : Exch) : ExDesc × ExTables :=
  let d := ExDesc.ofRaw (s.peek e.desc 256)
  (d, s.exTables d ⟨true, true, true, true⟩)

/-- EXCHANGE_PACK (R193): a stream whose LAST parcel and every lower index have arrived is packed. -/
def execExchangePack (c : CmdId) (st : StreamId) (s : State) : Host.Outcome State Fault Refusal :=
  .next (match s.exchOf c with
    | none => s
    | some e =>
      if st.dir ≠ e.dir ∨ e.arrived.contains st then s
      else
        match s.streamIn e.part e.exchId st with
        | none => s
        | some ps =>
          if e.missing.contains st then
            let (d, x) := s.exNow e
            s.packStream e d x st ps
          else s.strayStream e st ps)

/-! ## The combines (R194, R197, R204) -/

/-- What a token's combine meets: a sum, a row that is to be written poisoned, or poison in the arithmetic. -/
inductive Combine where
  | sum (acc : List FVal)
  | bad
  | bite (addr : Nat)

/-- Add one arrived row to the sum: gated and fused, or plainly (R194, R197). -/
def combineRow (h : Nat) (gated : Bool) (gate : Nat) (x : ExRow) (acc : List FVal) : List FVal :=
  ((rowElems (rowFmt x.fmt) h x.data).zip acc).map fun (c, a) =>
    let y := decodeScaled (rowFmt x.fmt) c.1 x.sigma (some 0)
    rnVal .fp32 (if gated then (fvFma (Fmt.fp16.decode gate) y a 0).1 else (fvAdd a y 0).1)

/-- Combine a token's arrivals in ascending rank. -/
def combineTok (d : ExDesc) (e : Exch) (gated : Bool) (words : List Nat) (t : Nat) : Combine :=
  if bitOf (words.getD 0 0) 30 then .bad
  else
    (List.range 8).foldl (fun a r =>
      match a with
      | .sum acc =>
        if !bitOf (words.getD r 0) 28 then a
        else
          match keyGet e.rows (8 * t + r) with
          | none => .bad
          | some x =>
            match firstPoison x.at_ x.data with
            | some b => .bite b
            | none => .sum (combineRow d.h gated (bitsOf (words.getD r 0) 15 0) x acc)
      | a => a) (.sum (List.replicate d.h FVal.zero))

/-- Write a token's combined row. -/
def State.combineOne (s : State) (e : Exch) (d : ExDesc) (o : HomeTensor) (gated : Bool) (t : Nat) : State :=
  let p := e.part.val
  let words := (List.range 8).map fun r => s.peek (d.ptr 6 + (8 * t + r) * 4) 4
  let s := s.look (d.ptr 6 + 32 * t) 32
  let at_ := o.row t
  match combineTok d e gated words t with
  | .sum acc =>
    let f := rowFmt o.fmt
    let cs := acc.map fun v => convert v f 0 (s.sigmaOf p o.slot) 0 false 0
    (s.storeP p at_ (clean (cs.flatMap fun c => natLe f.bytes c.code))).slotApply p o.slot
      (cs.foldl SlotAcc.conv SlotAcc.none)
  | .bad => s.storeP p at_ (poisonRow at_ (d.rowBytes o.fmt))
  | .bite b => (s.suBite e.cmd (lanOf d.t t) b).storeP p at_ (poisonRow at_ (d.rowBytes o.fmt))

/-- When every returning stream has arrived, every token is combined and the command's incoming half ends. -/
def State.combineAll (s : State) (c : CmdId) (dir : Fin 4) (tensor : Nat) (gated : Bool) : State :=
  match s.exchOf c with
  | none => s
  | some e =>
    if e.dir ≠ dir ∨ !e.missing.isEmpty then s
    else
      let d := ExDesc.ofRaw (s.peek e.desc 256)
      let s := (List.range d.t).foldl (fun s t => s.combineOne e d (d.tensor tensor) gated t) s
      (s.exClose e).pieceDone c

/-- COMBINE_RESULTS (R194). -/
def execCombineResults (c : CmdId) (s : State) : Host.Outcome State Fault Refusal := .next (s.combineAll c 1 2 true)

/-- SUM_GRADIENTS (R197). -/
def execSumGradients (c : CmdId) (s : State) : Host.Outcome State Fault Refusal := .next (s.combineAll c 3 4 false)

/-- EXCHANGE_TIMEOUT (R203): the lowest missing source is named, and the command ends with ST_EXCH_TIMEOUT. -/
def execExchangeTimeout (c : CmdId) (s : State) : Host.Outcome State Fault Refusal :=
  .next (match s.exchOf c with
    | none => s
    | some e =>
      if e.missing.isEmpty ∨ s.fld (suExchTmoOff 0 e.part.val) 15 0 = 0 then s
      else
        let low := e.missing.foldl (fun m st => Nat.min m st.node.toNat) 0xFFFF
        let s := (s.setBit (suErrOff 0) 3).raise evExchTimeout (some e.part) low e.exchId.toNat
        (s.exClose e).endCmd c stExchTimeout low)

end Sys2Proof.Machine
end

