-- ==== Sys2Proof/Machine/GradChan.lean ====
section
/-! DEFINITION. Gradient channels and the reduce-scatter (R297 to R300, R164, R544). -/

namespace Sys2Proof.Machine

/-- Elements of a chunk (R299). -/
abbrev chunkElems : Nat := 16384

/-- An entry's 64 bytes as one number, and its word at a byte offset (R297). -/
def gcWord (r o : Nat) : Nat := bitsOf r (8 * o + 63) (8 * o)

/-- A descriptor entry's fields, as the controller reads them for a shard of table entry `table` (R297). -/
def gcEntryOf (c : CmdId) (ix : Nat) (sr : Bool) (step : W32) (shard : Nat) (out : Nat × Nat) (r : Nat) : GcEntry :=
  let w := gcWord r
  { cmd := c, ix := ix, table := bitsOf (w 0) 15 0, shard := BitVec.ofNat 32 shard, step := step, sr := sr,
    pos := bitsOf (w 0) 31 16, len := bitsOf (w 0) 47 32, elements := w 8, acc := w 0x10 % 2 ^ 48,
    chain := w 0x18 % 2 ^ 48, stage := w 0x20 % 2 ^ 48, stream := bitsOf (w 0x28) 27 0,
    count := if w 0x30 = 0 then none else some (w 0x30 % 2 ^ 48), ssq := w 0x38 % 2 ^ 48, out := out, next := 0,
    poisoned := false, squares := [] }

/-- The places an entry names: its accumulator, chain, staging area, count and, at an owner, its record. -/
def GcEntry.places (e : GcEntry) : List (Nat × Nat) :=
  [(e.acc, 4 * e.elements), (e.chain, 2 * e.len), (e.stage, (2 * e.elements + 127) / 128 * 128)] ++
    (match e.count with
      | some a => [(a, 4)]
      | none => []) ++ (if e.pos + 1 = e.len then [(e.ssq, 32)] else [])

/-- Node j of an entry's chain. -/
def State.chainNode (s : State) (e : GcEntry) (j : Nat) : Nat := s.peek (e.chain + 2 * j) 2

/-- The channel is the shard's owner's. -/
def GcEntry.owner (e : GcEntry) : Bool := e.pos + 1 == e.len

/-- An entry of a descriptor, or nothing where it is malformed (R297); at an owner also where the plan in force names no
version for the shard (R164, R436). -/
def State.gcEntry (s : State) (c : CmdId) (ix : Nat) (sr : Bool) (r : Nat) : Option GcEntry :=
  let p := c.p
  let own := s.ownNode p
  let w := gcWord r
  let i := bitsOf (w 0) 15 0
  let sh := s.shard p i
  let q := (shQhead sh + shQlen sh) % (shDelay sh + 1)
  let e := gcEntryOf c ix sr (s.stepOf (some c.part)) (shId sh) (q, shGrad sh % 2 ^ 48 + q * gradBytes (w 8)) r
  let ptrs := [w 0x10, w 0x18, w 0x20, w 0x30] ++ (if e.owner then [w 0x38] else [])
  if bitsOf (w 0) 63 48 ≠ 0 ∨ bitsOf (w 0x28) 63 28 ≠ 0 ∨ e.len = 0 ∨ 4096 < e.len ∨ e.len ≤ e.pos ∨ e.elements = 0 ∨
      2 ^ 34 < e.elements ∨ 2 ^ 28 < e.stream + e.len ∨ !ptrs.all (exPtrOk own) ∨
      !(e.places.all fun (a, n) => (s.refused p a n).isNone) ∨ !s.shardNamed p i ∨ !s.shardOk p i ∨
      (e.owner ∧ (s.planVersion p (shId sh)).isNone) then none
  else if s.chainNode e e.pos = own ∧ s.chainNode e (e.len - 1) = shOwner sh ∧ (!e.owner ∨ shOwned sh) then some e
  else none

/-- Entries in descriptor order, each to the channel with the fewest elements so far, ties to the lower (R299). -/
def assignChannels (es : List GcEntry) : List (List GcEntry) :=
  (es.foldl (fun (a : List Nat × List (List GcEntry)) e =>
    let ch := (List.range 4).foldl (fun b i => if a.1.getD i 0 < a.1.getD b 0 then i else b) 0
    (bump a.1 ch e.elements, a.2.set ch (a.2.getD ch [] ++ [e]))) ([0, 0, 0, 0], [[], [], [], []])).2

/-- A malformed entry (R297, R434), the lowest. -/
def firstBad (es : List (Option GcEntry)) : Option Nat := es.findIdx? (·.isNone)

/-- REDUCE_SCATTER (R297, R299): the checks, and the entries to the channels. -/
def execReduceScatter (c : CmdId) (s : State) : Host.Outcome State Fault Refusal :=
  .next (match s.starting c 0x25 with
    | none => s
    | some x =>
      let a := x.par 0 % 2 ^ 48
      if !exPtrOk (s.ownNode c.p) (x.par 0) || !unusedZero x 1 then s.badPacket c
      else
        match s.refusedGal c.p a 64 with
        | some b => s.endBounds c b
        | none =>
          let h := s.peek a 64
          let s := s.look a 64
          let n := bitsOf h 31 0
          if n = 0 ∨ 65536 < n ∨ bitsOf h 33 32 % 2 = 1 ∨ bitsOf h 511 34 ≠ 0 then s.badPacket c
          else
            match s.refusedGal c.p (a + 64) (64 * n) with
            | some b => s.endBounds c b
            | none =>
              let sr := decide (bitsOf h 33 32 = 2)
              let es := (List.range n).map fun i => s.gcEntry c i sr (s.peek (a + 64 + 64 * i) 64)
              let s := (es.filterMap id).foldl (fun (s : State) e => s.look e.chain (2 * e.len)) (s.look (a + 64) (64 * n))
              match firstBad es with
              | some i => s.endCmd c stMalformed i
              | none =>
                let per := assignChannels (es.filterMap id)
                let s := (List.range 4).foldl (fun s ch => s.setGc ch (s.gc ch ++ per.getD ch [])) s
                s.gcShowAll.issued c n)

/-- What a channel computes of a chunk: the BF16 codes with their marks, and the sector of the first poisoned element
it consumed. -/
structure ChunkOut where
  els  : List (Nat × Bool)
  bite : Option Nat

/-- A channel's arithmetic on one chunk (R298), from element k0 on: `ins` are the received codes. -/
def chunkSum (e : GcEntry) (seed : W64) (k0 : Nat) (ins acc : List (Nat × Bool)) : ChunkOut :=
  let tid := tensorId .gradient (e.stream + e.pos)
  let xs := (ins.zip acc).zipIdx.map fun ((i, a), j) =>
    let v := (fvAdd (Fmt.bf16.decode i.1) (Fmt.fp32.decode a.1) 0).1
    let r := if e.sr then srBits seed e.step tid (k0 + j) else 0
    ((convert v .bf16 (if e.sr then 2 else 0) 0 0 false r).code, i.2 || a.2)
  let bite := (ins.zip acc).zipIdx.findSome? fun ((i, a), j) =>
    if i.2 then some ((e.stage + 2 * (k0 + j)) / 32 * 32)
    else if a.2 then some ((e.acc + 4 * (k0 + j)) / 32 * 32) else none
  ⟨xs, bite⟩

/-- The bytes of BF16 codes. -/
def bf16Bytes (els : List (Nat × Bool)) : List PByte := els.flatMap fun (c, m) => (natLe 2 c).map fun b => (b, m)

/-- Poison bites in a gradient channel (R257, R300): once for an entry. -/
def State.gcBite (s : State) (e : GcEntry) (a : Option Nat) : State :=
  match a with
  | some a =>
    if e.poisoned then s
    else
      (s.bite e.cmd.part blkGc a).noteFail e.cmd
        ⟨failRank 0x25 stPoison, e.ix, stPoison, s.globalOf e.cmd.p a, false⟩
  | none => s

/-- A channel's own token count, with its sector where that is poisoned (R298, R300). -/
def State.ownTokens (s : State) (e : GcEntry) : (Nat × Option Nat) × State :=
  match e.count with
  | none => ((0, none), s)
  | some a =>
    let (bs, s) := s.load e.cmd.p a 4
    ((leNat (plain bs), firstPoison a bs), s)

/-- The requests of a forwarded chunk: its STOREs in one class-0 stripe, and GCOMMIT (R299, R544). -/
def chunkReqs (e : GcEntry) (ch node : Nat) (els : List (Nat × Bool)) (last tpoison : Bool) (tokens : Nat) : List Req :=
  let at_ := e.stage + 32768 * e.next
  let bs := bf16Bytes els
  let req := fun (op : BitVec 6) (o : Nat) (b : List PByte) =>
    ({ cmdReq e.cmd e.ix (Fin.ofNat 8 (homeLan e.acc)) (.chunk ch)
        (pkWith (pkTo op 0 e.cmd.part (node * 2 ^ 48 + o)) b) with stripe := some e.next } : Req)
  let commit := natLe 8 (e.shard.toNat + e.step.toNat * 2 ^ 32) ++ natLe 8 (e.next + els.length * 2 ^ 32) ++
    natLe 8 ((if last then tokens else 0) + (if last then 2 ^ 32 else 0) + (if last && tpoison then 2 ^ 33 else 0)) ++ natLe 8 0
  ((List.range ((bs.length + 127) / 128)).map fun i => req 0x03 (at_ + 128 * i) ((bs.drop (128 * i)).take 128)) ++
    [req 0x0F at_ (clean commit)]

/-- An owner's writes of the incoming slot's queue fields (R164); a poisoned count leaves QTOKENS unchanged (R300). -/
def State.gcOwned (s : State) (e : GcEntry) (tokens : Nat) (tpoison : Bool) : State :=
  let p := e.cmd.p
  let off := 64 + 16 * e.out.1
  let s := match s.planVersion p e.shard.toNat with
    | some v => s.shardPut p e.table off 2 v
    | none => s
  if tpoison then s else s.shardPut p e.table (off + 4) 4 tokens

/-- An owner's record of the sum of squares (R298): poisoned when poison has reached the shard (R300). -/
def State.gcRecord (s : State) (e : GcEntry) (bad : Bool) : State :=
  let leaves := e.squares.map fun (v, n) => (⟨v, 0, n⟩ : Red)
  let r := (reduceTree .ssq .fp32 21 leaves).1
  let s := s.storeP e.cmd.p e.ssq (r.bytes.map fun b => (b, bad))
  { s with recTypes := keySet s.recTypes e.ssq 0x3B }

/-- A channel's next chunk, its predecessor's chunk `g` committed where it has one (R298 to R300). A channel on which poison
has reached an entry is in FAULT once the command has no more entries there (R63; assumption 127). -/
def State.gcChunk (s : State) (ch : Nat) (e : GcEntry) (rest : List GcEntry) (g : Option GArrival) : State :=
  let p := e.cmd.p
  let k0 := chunkElems * e.next
  let n := Nat.min chunkElems (e.elements - k0)
  let (acc, s) := s.load p (e.acc + 4 * k0) (4 * n)
  let (ins, s) := if e.pos = 0 then (List.replicate n (0, false), s)
    else
      let (b, s) := s.load p (e.stage + 2 * k0) (2 * n)
      (rowElems .bf16 n b, s)
  let seed := ((s.job p).plan.map (·.seed)).getD 0
  let o := chunkSum e seed k0 ins (rowElems .fp32 n acc)
  let s := s.gcBite e o.bite
  let e := { e with poisoned := e.poisoned || o.bite.isSome }
  let s : State := { s with gcIn := s.gcIn.filter fun x => some x ≠ g }
  let last := decide (e.elements ≤ k0 + n)
  let ((own, bad), s) := if last then s.ownTokens e else ((0, none), s)
  let tpoison := last && (bad.isSome || g.any (·.tpoison))
  let s := s.gcBite e (if tpoison then some (bad.getD (e.stage + 2 * k0)) else none)
  let e := { e with poisoned := e.poisoned || tpoison }
  let tokens := Nat.min 0xFFFFFFFF (own + (g.map (·.tokens)).getD 0)
  let squares := o.els.map fun (c, _) => (redLeaf .ssq .fp32 (c * 65536)).1
  let sq := (reduceTree .ssq .fp32 15 squares).1
  let e := { e with next := e.next + 1, squares := if e.owner then e.squares ++ [(sq.v, sq.n)] else [] }
  let s := s.setGc ch (if last then rest else e :: rest)
  let s :=
    if e.owner then
      let s := s.storeP p (e.out.2 + 2 * k0) (bf16Bytes o.els)
      if last then (s.gcOwned e tokens tpoison).gcRecord e e.poisoned else s
    else
      let rs := chunkReqs { e with next := e.next - 1 } ch (s.chainNode e (e.pos + 1)) o.els last tpoison tokens
      (s.onCmd e.cmd fun x => { x with pending := x.pending + rs.length }).fabIssue rs
  let fault := last && e.poisoned && !rest.any fun x => x.cmd == e.cmd
  let s : State := if fault then { s with holders := keySet s.holders (152 + ch) e.cmd } else s
  (if last then s.pieceDone e.cmd else s).gcShow ch

/-- A channel whose front entry has not begun is granted (R356): the chosen command's entries come first. -/
def State.gcGrant (s : State) (ch : Nat) : State :=
  match s.gc ch with
  | [] => s
  | e :: es =>
    if e.next ≠ 0 then s
    else
      let c := es.foldl (fun (c : CmdId) x => if s.grantBefore (152 + ch) x.cmd.p c.p then x.cmd else c) e.cmd
      let s := s.setGc ch ((e :: es).filter (·.cmd == c) ++ (e :: es).filter (·.cmd != c))
      { s with grants := keySet s.grants (152 + ch) c.p }

/-- GRADIENT_CHUNK (R299): the channel takes its next chunk, once its predecessor's is committed. -/
def execGradientChunk (ch : Fin 4) (s : State) : Host.Outcome State Fault Refusal :=
  let s := if s.gcFaulted ch.val then s else s.gcGrant ch.val
  .next (match s.gc ch.val, s.gcFaulted ch.val with
    | [], _ | _, true => s
    | e :: rest, false =>
      if e.pos = 0 then s.gcChunk ch.val e rest none
      else
        match s.gcArrival e with
        | none => s
        | some g => s.gcChunk ch.val e rest (some g))

/-- GC_CHUNK_TIMEOUT (R300): the predecessor is named, and the channel does no more for the command. -/
def execGcChunkTimeout (ch : Fin 4) (s : State) : Host.Outcome State Fault Refusal :=
  .next (match s.gc ch.val, s.gcFaulted ch.val with
    | [], _ | _, true => s
    | e :: _, false =>
      if e.pos = 0 ∨ (s.gcArrival e).isSome ∨ s.fld fabGcCtrlOff 15 0 = 0 then s
      else
        let pred := s.chainNode e (e.pos - 1)
        let s := (s.setBit fabErrOff 5).raise evReduceTimeout (some e.cmd.part) pred
        let s := s.noteFail e.cmd ⟨failRank 0x25 stReduceTimeout, e.ix, stReduceTimeout, BitVec.ofNat 64 pred, false⟩
        s.gcFail ch.val e.cmd)

end Sys2Proof.Machine
end

