-- ==== Sys2Proof/Machine/Recovery.lean ====
section
/-! DEFINITION. Recovery by the Keeper (R382 to R394, R398, R405): suspicion and confirmation, holds, takeovers, what a
spare pulls, restoration after a notice, and the release into replay. -/

namespace Sys2Proof.Machine

/-! ## Who is who -/

/-- The node that stands for no loss (R407, HOLD). -/
abbrev noLoss : Node := 0xFFFF#16

/-- The partitions that the Keeper acts for. -/
def State.kept (s : State) : List Part := (List.finRange 4).filter fun p => s.keeperOn p.val

/-- The node of a valid KPR_MIR word, KPR_WATCH word alike. -/
def State.wordNode (s : State) (off : Nat) : Option Nat := if s.bit off 16 then some (s.fld off 15 0) else none

/-- This module mirrors a node in a partition (R411). -/
def State.mirrors (s : State) (p node : Nat) : Bool := (List.range 2).any fun m => s.wordNode (kprMirOff p m) == some node

/-- A node is watched (R413). -/
def State.watches (s : State) (node : Nat) : Bool := (List.range 8).any fun w => s.wordNode (kprWatchOff w) == some node

/-- FAB_NODE.NODE. -/
def State.fabNode (s : State) : Nat := s.fld fabNodeOff 15 0

/-- Two nodes are group-mates. -/
def sameGroup (a b : Nat) : Bool := a / 32 == b / 32

/-- The mirror partner of a node of the module's group (R414). -/
def State.partnerOf (s : State) (node : Nat) : Nat := s.fld (kprTakeOff (node % 32)) 15 0

/-- KPR_LAST (R415). -/
def State.keeperLast (s : State) (node kind : Nat) : State :=
  s.setReg kprLastOff (BitVec.ofNat 64 (node * 2 ^ 16 + kind))

/-- The job table: its offset and number of nodes (R387); no nodes where it is not in the partition's gallery scratchpad. -/
def State.jobTable (s : State) (p : Nat) : Nat × Nat :=
  let a := (s.reg (kprJobPtrOff p)).toNat % 2 ^ 48
  let n := s.fld (kprJobCountOff p) 15 0
  if (s.refusedGal p a (2 * n)).isSome then (a, 0) else (a, n)

/-- The job table's nodes (R387). -/
def State.jobNodes (s : State) (p : Nat) : List Nat :=
  let t := s.jobTable p
  (List.range t.2).map fun i => s.peek (t.1 + 2 * i) 2

/-- A node is known to be lost. -/
def State.isGone (s : State) (n : Nat) : Bool := s.keeper.gone.contains (BitVec.ofNat 16 n)

/-- A node is known to be lost from here on. -/
def State.setGone (s : State) (n : Node) : State :=
  if s.keeper.gone.contains n then s else { s with keeper := { s.keeper with gone := s.keeper.gone ++ [n] } }

/-- The members of the job that are not lost, this module among them. -/
def State.members (s : State) (p : Nat) : List Nat := ((s.ownNode p :: s.jobNodes p).filter fun n => !s.isGone n).eraseDups

/-- Send a message to every other node of the job table, in its order (R387), and to a spare. -/
def State.fanOut (s : State) (p : Part) (also : List Nat) (kind subject step : Nat) (body : List Byte) : State :=
  let ns := ((s.jobNodes p.val ++ also).filter fun n => !s.here n).eraseDups
  let t := s.jobTable p.val
  ns.foldl (fun s n => s.kctlSend p n kind subject step body) (s.look t.1 (2 * t.2))

/-- The kinds that a fan-out sends (R387): HOLD, RING_RESET, REPLAY and ABORT. -/
def fanKind (kind : Nat) : Bool := [0x05, 0x08, 0x0A, 0x10].contains kind

/-- Change the takeovers of a partition. -/
def State.onTakeovers (s : State) (p : Nat) (f : List Takeover → List Takeover) : State :=
  s.onKpart p fun k => { k with takeovers := f k.takeovers }

/-- Replace the takeover of a loss and coordinator. -/
def State.putTakeover (s : State) (p : Nat) (t : Takeover) : State :=
  s.onTakeovers p fun l => l.map fun x => if x.lost = t.lost ∧ x.coord = t.coord then t else x

/-- The takeover of a loss that this module coordinates. -/
def State.leads (s : State) (p : Nat) (lost : Node) : Option Takeover :=
  (s.kpart p).takeovers.find? fun t => t.mine && t.lost == lost

/-! ## Holds (R386) -/

/-- A Keeper hold of a partition's job: the job is HELD, and phase 2 begins. -/
def State.keeperHold (s : State) (p : Part) : State :=
  let j := s.jobState p.val
  let s := if j = jRun ∨ j = jReplan then s.holdJob p none else s
  s.setPhase p.val 2

/-- Take part in a recovery: its record, and the hold. -/
def State.joinHold (s : State) (p : Part) (t : Takeover) : State :=
  let known := (s.kpart p.val).takeovers.any fun x => x.lost == t.lost && x.coord == t.coord
  let s := if known then s else s.onTakeovers p.val fun l => l ++ [t]
  (if t.lost = noLoss then s else s.setGone t.lost).keeperHold p

/-- A recovery's record at its start. -/
def Takeover.fresh (lost coord : Node) (mine : Bool) (cause : Nat) (sector : Option W64) (taker : Node) (spare : Bool) :
    Takeover :=
  { lost := lost, coord := coord, mine := mine, owed := true, cause := cause, sector := sector, taker := taker,
    spare := spare, sent := false, acks := [], low := none, gates := [], route := none, swapDone := false,
    spareDone := false, seq := 0, dropped := none }

/-- Begin a recovery in a partition: HOLD to the job and to the spare, and the hold here (R386, R387). -/
def State.recover (s : State) (p : Part) (lost : Node) (cause : Nat) (sector : Option W64) (spare : Option Nat) : State :=
  let own := BitVec.ofNat 16 (s.ownNode p.val)
  let t := Takeover.fresh lost own true cause sector ((spare.map (BitVec.ofNat 16)).getD own) spare.isSome
  let s := s.joinHold p t
  s.fanOut p (spare.toList) 0x05 lost.toNat 0 []

/-! ## The takeover's later phases (R388 to R393) -/

/-- The body of TAKE: the taker, and whether the job is deterministic, which a spare opens it with. -/
def takeBody (taker : Nat) (det : Bool) : List Byte := natLe 2 taker ++ natLe 2 (if det then 1 else 0)

/-- The LOCAL entry that a group-mate installs for a lost position (R388, R414). -/
def State.takeEntry (s : State) (lost : Nat) (spare : Bool) : W64 :=
  s.reg (if spare then kprTakeSpareEntryOff (lost % 32) else kprTakePartnerEntryOff (lost % 32))

/-- A group-mate prepares the takeover route (R388): in DRAIN mode it drains classes 0 to 2 (R338); in EPOCH mode it writes
the entry into the other bank and flips its epoch (R340). -/
def State.routeStart (s : State) (p : Part) (t : Takeover) (spare : Bool) : State :=
  let s := s.putTakeover p.val { t with route := some spare }
  if s.bit fabLlCtrlOff 3 then
    let b := 1 - s.fld fabLlCtrlOff 2 2
    ((s.setReg (fabLlLocalOff b (t.lost.toNat % 32)) (s.takeEntry t.lost.toNat spare)).setFld fabLlCtrlOff 2 2 b).pump
  else s.setFld fabLlCtrlOff 14 12 7

/-- The taker answers for the lost node's number (R388): a spare under it, a partner beside its own (R393). -/
def State.takeAlias (s : State) (p : Part) (lost : Node) (spare : Bool) : State :=
  let s := (s.setReg fabAliasOff (BitVec.ofNat 64 (lost.toNat + 2 ^ 16))).setFld (kprStatusOff p.val) 31 16 lost.toNat
  { s with keeper := { s.keeper with served := if spare then none else some lost } }

/-- A spare that is dropped pulls nothing more and has no part in the takeover. -/
def State.dropPull (s : State) (p : Part) (lost : Node) : State :=
  match (s.kpart p.val).pull with
  | some u =>
    if u.lost = lost ∧ lost ≠ noLoss then
      (s.onKpart p.val fun k => { k with pull := none, takeovers := k.takeovers.filter fun t => t.lost != lost }).setPhase p.val 0
    else s
  | none => s

/-- A module that is not the taker stops answering for the lost node's number, and its pull for it ends. -/
def State.dropAlias (s : State) (p : Part) (lost : Node) : State :=
  let s := s.dropPull p lost
  if s.bit fabAliasOff 16 ∧ s.fld fabAliasOff 15 0 = lost.toNat then
    let s := (s.setReg fabAliasOff 0).setFld (kprStatusOff p.val) 31 16 0xFFFF
    let s : State := { s with keeper := { s.keeper with served := none } }
    let s := s.onKpart p.val fun k => { k with takeovers := k.takeovers.filter fun t => t.lost != lost }
    (s.closeJob p none).setPhase p.val 0
  else s

/-- The reads of a range at equal offsets, line by line (R391). -/
def pullReads (node : Node) (p : Part) : Nat → Nat → Nat → List Req
  | 0, _, _ => []
  | k + 1, a, n =>
    if n = 0 then []
    else
      let m := Nat.min n (128 - a % 128)
      { plainReq { Packet.zero with dst := node, op := 0x00, tc := 3, part := p, offset := BitVec.ofNat 48 a,
                                    len := BitVec.ofNat 8 m } with cont := .pull a } :: pullReads node p k (a + m) (n - m)

/-- Change a partition's pull. -/
def State.onPull (s : State) (p : Nat) (f : Pull → Pull) : State := s.onKpart p fun k => { k with pull := k.pull.map f }

/-- Issue the pull's next reads. -/
def State.pullIssue (s : State) (p : Part) (rs : List Req) : State :=
  (s.onPull p.val fun u => { u with left := u.left + rs.length }).fabIssue rs

/-- Reads of several ranges. -/
def rangeReads (node : Node) (p : Part) (rs : List (Nat × Nat)) : List Req :=
  rs.flatMap fun r => pullReads node p (r.2 / 128 + 2) r.1 r.2

/-- A spare starts to join (R391), as soon as the loss is confirmed (R385): the MIRROR_CONFIG copy's tables first. -/
def State.pullStart (s : State) (p : Part) (lost src : Node) : State :=
  let s := s.onKpart p.val fun k =>
    { k with pull := some { lost := lost, src := src, step := none, stage := 0, left := 0, bad := false, todo := [],
                            pos := 0, asked := false, seq := 0 } }
  (s.setPhase p.val 3).pullIssue p (rangeReads src p [((s.reg (cmdShardBaseOff p.val)).toNat % 2 ^ 48, 128 * s.shardCount p.val),
    ((s.reg (cmdSlotBaseOff p.val)).toNat % 2 ^ 48, 128 * s.slotCount p.val)])

/-- This module is the spare that KPR_TAKE names for a node's position (R414), as the configuration of the lost module,
which the spare's matches (R391), has it. -/
def State.isSpareOf (s : State) (lost : Nat) : Bool :=
  let o := kprTakeOff (lost % 32)
  s.bit o 32 && decide (s.fld o 31 16 = s.fabNode)

/-- The loss of the own mirror partner in a partition (R384): EV_MIRROR_LOST, and the mirror stream ends. -/
def State.partnerLost (s : State) (p : Part) (node : Nat) : State :=
  if s.mirrorNode p.val = some node ∧ !(s.kpart p.val).mirrorLost then (s.mirDrop p).raise evMirrorLost (some p) node else s

/-- HOLD at a module (R386): a member's job is held; the spare of the lost node, whose job is closed, starts to join (R385,
R391). -/
def State.holdIn (s : State) (p : Part) (lost coord : Node) : State :=
  if s.jobState p.val ≠ jClosed then (s.partnerLost p lost.toNat).joinHold p (Takeover.fresh lost coord false 0 none coord false)
  else if lost ≠ noLoss ∧ s.isSpareOf lost.toNat ∧ (s.kpart p.val).pull.isNone then s.pullStart p lost coord
  else s

/-- The earlier of two steps. -/
def stepMin (a : Option W32) (b : W32) : Option W32 :=
  match a with
  | some x => if (x - b).toNat < 2 ^ 31 then some b else some x
  | none => some b

/-- Granules of a range. -/
def granules (a n : Nat) : List Nat := if n = 0 then [] else (List.range ((a + n - 1) / 32768 + 1 - a / 32768)).map (· + a / 32768)

/-- The table entries of a shard identifier. -/
def State.entriesOf (s : State) (p shard : Nat) : List Nat :=
  (List.range (s.shardCount p)).filter fun i => s.shardNamed p i && shId (s.shard p i) == shard

/-- Every user's ring granules that hold a newer version of a shard than its committed one lose their tag (R390). -/
def State.ringReset (s : State) (p shard ver : Nat) : State :=
  (s.entriesOf p shard).foldl (fun s i =>
    let r := s.shard p i
    (List.range 4).foldl (fun s v => (granules (ringSlot r v) (shWcBytes r)).foldl (fun s g =>
      let t := (s.tagAt (g * 32768)).tag.toNat
      if t ≤ 0xFFFB ∧ verNewer ver t then s.setTag g TagState.none else s) s) s) s

/-- A send half at its opening (R289, R389). -/
def SendHalf.reopened (h : SendHalf) (win : Nat) : SendHalf :=
  { h with life := .open_, next := 0, oldest := 0, out := 0, rpend := 0, recent := [], win := win, hold := none }

/-- Receive halves of a lost node are closed, and every LOST send half to it reopens at sequence 0 (R389). -/
def State.halvesReset (s : State) (lost : Node) : State :=
  let again := (s.fabric.send.filter fun (_, h) =>
    h.node == lost && (decide (h.life = .lost) || decide (h.life = .reopening))).map (·.1)
  { s with fabric := { s.fabric with
      recv := s.fabric.recv.filter fun x => decide (x.1 / 2 ^ 20 ≠ lost.toNat),
      mcRecv := s.fabric.mcRecv.filter fun m => m.src != lost,
      lostTo := s.fabric.lostTo.filter fun x => x.1 != lost,
      flying := s.fabric.flying.filter fun r => !again.contains r.pk.ctx.toNat,
      send := s.fabric.send.map fun (c, h) => (c, if again.contains c then h.reopened s.winInit else h) } }

/-- A partition waits for the host's new plan (R393, R442). -/
def State.toReplan (s : State) (p : Part) : State :=
  (if s.jobState p.val = jHeld then s.setJobState p jReplan else s).setPhase p.val 0

/-- A recovery ends at a member without a replay (R393, R394). -/
def State.replanIn (s : State) (p : Part) (lost coord : Node) : State :=
  let s := s.onTakeovers p.val fun l => l.filter fun t => !(t.lost == lost && t.coord == coord)
  if (s.kpart p.val).takeovers.isEmpty then
    (s.onKpart p.val fun k => { k with release := none, replan := false }).toReplan p
  else s.onKpart p.val fun k => { k with replan := true }

/-- EV_KEEPER_TAKEOVER and phase 5 (R392): the lost node, r, and the ring sequence of the last command in the journal that
was pulled. -/
def State.tellHost (s : State) (p : Part) (t : Takeover) : State :=
  (s.setPhase p.val 5).raise evKeeperTakeover (some p) t.lost.toNat ((t.low.getD 0).toNat + t.seq.toNat * 2 ^ 32)

/-- A spare tells its host once it has joined and has seen phase 4 (R392; assumption 128, DESIGN CHOICE: the first RING_RESET
shows it phase 4). -/
def State.spareGo (s : State) (p : Part) (lost : Node) : State :=
  match (s.kpart p.val).takeovers.find? fun t => !t.mine && t.spare && t.lost == lost with
  | some t => if t.spareDone && t.swapDone && decide (s.phase p.val = 3) then s.tellHost p t else s
  | none => s

/-- A spare's own record of its takeover changes, and its host may be told. -/
def State.onSpare (s : State) (p : Part) (lost : Node) (f : Takeover → Takeover) : State :=
  (s.onTakeovers p.val fun l => l.map fun t => if !t.mine && t.spare && t.lost == lost then f t else t).spareGo p lost

/-- RING_RESET at a module (R389, R390): the halves and the tags; after a partner takeover the hold becomes HELD_REPLAN
(R393). The lost node's number is answered again. -/
def State.ringResetIn (s : State) (p : Part) (lost coord taker : Node) (pairs : List (Nat × Nat)) : State :=
  let s := s.halvesReset lost
  let s := pairs.foldl (fun s x => s.ringReset p.val x.1 x.2) s
  let s : State := { s with keeper := { s.keeper with gone := s.keeper.gone.filter fun n => n != lost } }
  if s.here coord.toNat then s
  else if taker = coord then s.replanIn p lost coord
  else s.onSpare p lost fun t => { t with swapDone := true }

/-- RING_RESET to the job and here (R390): the lost node's shards with their committed versions, up to 14 in a message. -/
def State.ringResetSend (s : State) (p : Part) (t : Takeover) : State :=
  let pairs := ((s.kpart p.val).mirrored.filter fun m => m.owner == t.lost).map fun m => (m.shard, m.ver.toNat)
  let ms := if pairs.isEmpty then [[]] else chunksOf 14 (pairs.length + 1) pairs
  let s := ms.foldl (fun s l =>
    s.fanOut p (if t.spare then [t.taker.toNat] else []) 0x08 t.lost.toNat ((t.low.getD 0).toNat)
      (natLe 8 t.taker.toNat ++ l.flatMap fun x => natLe 4 x.1 ++ natLe 4 x.2)) s
  s.ringResetIn p t.lost t.coord t.taker pairs

/-- When the spare has joined and phase 4 is complete, the host is told (R392); a partner takeover asks for a new plan
(R393). -/
def State.phaseEnd (s : State) (p : Part) (t : Takeover) : State :=
  if !t.swapDone then s
  else if !t.spare then
    (s.raise evKeeperReplan (some p) t.lost.toNat (t.low.getD 0).toNat).replanIn p t.lost t.coord
  else if t.spareDone then
    s.tellHost p t
  else s

/-! ## Release and replay (R394, R398) -/

/-- The release that waits for other recoveries, joined by another: the earlier step, with that step's GATE record where a
REPLAY brought one (R394, R398). -/
def KeeperPart.joinRelease (k : KeeperPart) (r : W32) (cause : Nat) (gate : Option (List Byte)) : KeeperPart :=
  match k.release with
  | none => { k with release := some (r, cause), replayGate := gate }
  | some (r', c') =>
    let low := (stepMin (some r') r).getD r
    let g := (if low = r then gate else none).or (if low = r' then k.replayGate else none)
    { k with release := some (low, if low = r' then c' else cause), replayGate := g }

/-- The journal has had a record of a step from r on, whether it holds it or not. -/
def KeeperPart.reached (k : KeeperPart) (r : W32) : Bool := (k.jSteps.map (·.1) ++ k.jLost).any (fromStep r)

/-- A release takes place: with the others of its recoveries done, the job runs and the step is replayed; where no step from
r on has had a journal record, nothing is (R398). -/
def State.released (s : State) (p : Part) : State :=
  let k := s.kpart p.val
  let s := s.onKpart p.val fun k => { k with release := none, replan := false, replayGate := none }
  match k.release with
  | none => s
  | some (r, cause) =>
    if k.replan then s.toReplan p
    else
      let s := s.setPhase p.val 0
      let s := if (s.job p.val).holdByHost then s else s.setJobState p jRun
      if k.reached r then s.replayBegin p r cause k.replayGate else s

/-- REPLAY at a module: the recovery ends, and when no other is under way the step is replayed (R394). -/
def State.replayIn (s : State) (p : Part) (lost coord : Node) (r : W32) (cause : Nat) (gate : Option (List Byte)) : State :=
  let s := s.onTakeovers p.val fun l => l.filter fun t => !(t.lost == lost && t.coord == coord)
  if s.jobState p.val ≠ jHeld then s
  else
    let s := s.onKpart p.val fun k => k.joinRelease r cause gate
    if (s.kpart p.val).takeovers.isEmpty then s.released p else s

/-- The coordinator releases the job into the replay of step r (R398, R399). -/
def State.releaseJob (s : State) (p : Part) (t : Takeover) : State :=
  let r := t.low.getD 0
  let gate := (t.gates.find? fun g => g.1 == r).map (·.2)
  let body := natLe 8 t.cause ++ gate.getD []
  let s := s.fanOut p (if t.spare then [t.taker.toNat] else []) 0x0A t.lost.toNat r.toNat body
  s.replayIn p t.lost t.coord r t.cause gate

/-- The latest GATE record of each of the newest steps, with its place in the ring (R386). -/
def State.gateRecs (s : State) (p : Nat) : List PosRec :=
  let k := s.kpart p
  ((k.jSteps.reverse.take 3).map (·.1)).filterMap fun st =>
    k.jRecs.reverse.findSome? fun x =>
      let rec_ := s.jrRead p x.1 x.2
      if rec_.ty = jrGate ∧ rec_.step = st then some (x, rec_) else none

/-- The GATE records that a HELD_ACK carries: step and contents of each. -/
def State.gatesHeld (s : State) (p : Nat) : List (W32 × List Byte) := (s.gateRecs p).map fun x => (x.2.step, x.2.body.take 24)

/-! ## What is pulled and restored (R391, R405) -/

/-- The journal records from a position on: each follows the one before while it is a record of step r or later whose
SEQ is not older. -/
def State.jrWalk (s : State) (p : Nat) (r : W32) (start : Nat) : Nat → Nat → Nat → List (Nat × Nat × JRec)
  | 0, _, _ => []
  | k + 1, pos, seq =>
    let h := s.peek (s.jrBase p + pos % jrBytes) 8
    let n := bitsOf h 29 8 * 16
    let rec_ := s.jrRead p pos n
    if n = 0 ∨ 6 < rec_.ty ∨ bitsOf h 31 30 ≠ 0 ∨ 2 ^ 31 ≤ (rec_.step - r).toNat ∨ jrBytes < pos % jrBytes + n ∨
        start + jrBytes < pos + n ∨ (rec_.ty ≠ jrCmd ∧ rec_.seq < seq) then []
    else (pos, n, rec_) :: State.jrWalk s p r start k (pos + n) (if rec_.ty = jrCmd then seq else rec_.seq)

/-- Where the latest SLOTS record of step r begins in a journal ring that was copied here (R391). -/
def State.jrFind (s : State) (p : Nat) (r : W32) : Option Nat :=
  let n := 16 + (8 * s.slotCount p + 15) / 16 * 16
  let good := fun i =>
    let h := s.peek (s.jrBase p + 16 * i) 16
    decide (bitsOf h 7 0 = jrSlots) && decide (bitsOf h 29 8 * 16 = n) && decide (bitsOf h 31 30 = 0) &&
      decide (bitsOf h 63 32 = r.toNat)
  ((List.range (jrBytes / 16)).filter good).foldl (fun b i =>
    match b with
    | some q => if s.peek (s.jrBase p + q + 8) 8 < s.peek (s.jrBase p + 16 * i + 8) 8 then some (16 * i) else b
    | none => some (16 * i)) none

/-- Adopt the copied journal from step r on (R391). -/
def State.jrAdopt (s : State) (p : Nat) (r : W32) : State :=
  match s.jrFind p r with
  | none => s
  | some q =>
    let rs := s.jrWalk p r q (jrBytes / 16) q 0
    let s := s.jrLook p (rs.map fun x => (x.1, x.2.1))
    let stop := (rs.getLast?.map fun x => x.1 + x.2.1).getD q
    let steps := rs.foldl (fun (l : List (W32 × Nat)) x =>
      if x.2.2.ty = jrSlots then (l.filter fun e => e.1 != x.2.2.step) ++ [(x.2.2.step, x.1)]
      else if l.any fun e => e.1 == x.2.2.step then l else l ++ [(x.2.2.step, x.1)]) []
    let count := rs.foldl (fun n x => if x.2.2.ty = jrCmd then n else Nat.max n (x.2.2.seq + 1)) 0
    let last := rs.foldl (fun n x => if x.2.2.ty = jrCmd then x.2.2.seq else n) 0
    (s.onKpart p fun k =>
      { k with jHead := stop, jCount := count, jSteps := steps, jRecs := rs.map fun x => (x.1, x.2.1),
               seqHi := last / 2 ^ 32 }).onPull p fun u => { u with seq := BitVec.ofNat 32 last }

/-- The versions that the PLAN records from step r on name, by shard table entry. -/
def State.plannedVersions (s : State) (p : Nat) (r : W32) : List (Nat × BitVec 16) :=
  ((s.jrFrom p r).flatMap fun x =>
    let rec_ := s.jrRead p x.1 x.2
    if rec_.ty = jrPlan then
      match s.planBlock (s.jrBase p + x.1 % jrBytes + 80) (leNat ((rec_.body.drop 48).take 8)) with
      | .ok (_, vs) => vs.flatMap fun (sh, v) => (s.entriesOf p sh).map fun i => (i, v)
      | .error _ => []
    else []).eraseDups

/-- The reads of a version's ring slot from a node, with tags (R163, R391). -/
def State.versionReads (s : State) (p : Part) (node i : Nat) (v : BitVec 16) : List Req :=
  let r := s.shard p.val i
  (slotLines (ringSlot r v.toNat) (shWcBytes r)).map fun a =>
    { plainReq { Packet.zero with dst := BitVec.ofNat 16 node, op := 0x01, tc := 3, part := p, len := 128,
                                  offset := BitVec.ofNat 48 a } with cont := .pullLine v a }

/-- Ask a partner for an owner's committed record of a shard (R391, R405): the owner is SUBJECT. -/
def State.restoreAsk (s : State) (p : Part) (node owner shard : Nat) : State :=
  (s.onPull p.val fun u => { u with left := u.left + 1 }).kctlSend p node 0x0D owner 0 (natLe 4 shard)

/-- What was pulled is complete: a spare reports it, with the last sequence of the journal; a restoration lets the job
be released. -/
def State.pullEnd (s : State) (p : Part) (u : Pull) : State :=
  let s := s.onKpart p.val fun k => { k with pull := none }
  if u.lost = noLoss then
    match s.leads p.val noLoss with
    | some t => s.releaseJob p t
    | none => s
  else
    let s := s.onTakeovers p.val fun l => l.map fun t => if t.lost = u.lost then { t with seq := u.seq } else t
    s.kctlSend p u.src.toNat 0x09 u.lost.toNat (u.step.getD 0).toNat (natLe 8 u.seq.toNat)

/-- Go on with the versions: a version that has come whole leaves the list; one that has not is asked for at the next
group position that is neither lost nor this module. A spare that finds it nowhere does not join; a restoration goes
on without it. -/
def State.pullVersions (p : Part) : Nat → State → State
  | 0, s => s
  | k + 1, s =>
    match (s.kpart p.val).pull with
    | none => s
    | some u =>
      let u := if !u.asked then u
        else if u.bad then { u with pos := u.pos + 1, asked := false, bad := false }
        else { u with todo := u.todo.drop 1, pos := 0, asked := false }
      match u.todo with
      | [] => s.pullEnd p u
      | (i, v) :: rest =>
        let base := (if u.lost = noLoss then s.fabNode else u.lost.toNat) / 32 * 32
        let ok := fun n => decide (u.pos ≤ n) && !s.here (base + n) && !s.isGone (base + n) && decide (base + n ≠ u.lost.toNat)
        match (List.range 32).find? ok with
        | some n =>
          (s.onKpart p.val fun k => { k with pull := some { u with pos := n, asked := true, bad := false } }).pullIssue p
            (s.versionReads p (base + n) i v)
        | none =>
          if u.lost = noLoss then
            State.pullVersions p k (s.onKpart p.val fun k => { k with pull := some { u with todo := rest, pos := 0 } })
          else s.onKpart p.val fun k => { k with pull := none }

/-- One stage of a pull, once everything that the stage before asked for has come (R391): after the tables, the list headers
and the committed records; then the lists; then the journal, once TAKE has given r; then the versions, and those that are
missing elsewhere. -/
def State.pullStep (s : State) (p : Part) (u : Pull) : State :=
  match u.stage with
  | 0 =>
    let own := s.ownedShards p.val
    let s := s.onPull p.val fun u => { u with stage := 1 }
    let s := own.foldl (fun s i => s.restoreAsk p u.src.toNat u.lost.toNat (shId (s.shard p.val i))) s
    s.pullIssue p (rangeReads u.src p (own.map fun i => (shList (s.shard p.val i) % 2 ^ 48, 0x140)))
  | 1 => (s.onPull p.val fun u => { u with stage := 2 }).pullIssue p (rangeReads u.src p (s.shardLists p.val).eraseDups)
  | 2 =>
    if u.step.isNone then s
    else (s.onPull p.val fun u => { u with stage := 3 }).pullIssue p (rangeReads u.src p [(s.jrBase p.val, jrBytes)])
  | 3 =>
    let r := u.step.getD 0
    let s := s.jrAdopt p.val r
    let vs := s.plannedVersions p.val r
    State.pullVersions p (vs.length + 2) (s.onPull p.val fun x => { x with stage := 4, todo := vs })
  | _ => State.pullVersions p (u.todo.length + 2) s

/-- A pull goes on as far as it can. A spare whose pull fails before the versions does not join. -/
def State.pullOn (s : State) (p : Part) : State :=
  (List.range 5).foldl (fun s _ =>
    match (s.kpart p.val).pull with
    | none => s
    | some u =>
      if u.left ≠ 0 then s
      else if u.bad ∧ u.stage < 4 then s.onKpart p.val fun k => { k with pull := none }
      else s.pullStep p u) s

/-- Every pull goes on. -/
def State.pullsOn (s : State) : State := (List.finRange 4).foldl State.pullOn s

/-- An item of a shard's record holds an offset (R378, R405). -/
def State.shardHolds (s : State) (p i a : Nat) : Bool :=
  (s.mirItems p i).any fun (b, n) => decide (b ≤ a + 31) && decide (a < b + n)

/-- The ring granules that hold an offset: shard entries with the version tagged there. -/
def State.ringHolds (s : State) (p a : Nat) : List (Nat × BitVec 16) :=
  let t := (s.tagAt a).tag
  if 0xFFFB < t.toNat then []
  else ((List.range (s.shardCount p)).filter fun i => s.shardNamed p i && (List.range 4).any fun v =>
    let b := ringSlot (s.shard p i) v
    decide (b ≤ a) && decide (a < b + shWcBytes (s.shard p i))).map fun i => (i, t)

/-- TAKE at a module (R388): the taker takes the number, a spare's job opens held and its pull goes on with r; a group-mate
prepares the route. -/
def State.takeIn (s : State) (p : Part) (lost coord taker : Node) (det : Bool) (step : W32) : State :=
  let isTaker := s.here taker.toNat
  let isSpare := isTaker && taker != coord
  let s := if isTaker then s.takeAlias p lost isSpare else s.dropAlias p lost
  let s := if isSpare then
      let t := { Takeover.fresh lost coord false 0 none taker true with owed := false, low := some step }
      let s := (s.openJob p det).count kprTakeoversOff
      let s := (s.onTakeovers p.val fun l => (l.filter fun x => x.lost != lost) ++ [t]).setJobState p jHeld
      let s := if (s.kpart p.val).pull.any fun u => u.lost == lost then s.setPhase p.val 3 else s.pullStart p lost coord
      (s.onPull p.val fun u => { u with step := some step }).pullOn p
    else if s.jobState p.val = jHeld then s.setPhase p.val 4
    else s
  if !sameGroup lost.toNat s.fabNode then s
  else
    match (s.kpart p.val).takeovers.find? fun t => t.lost == lost with
    | some t => s.routeStart p t (taker != coord)
    | none =>
      let t := { Takeover.fresh lost coord false 0 none taker (taker != coord) with owed := false }
      (s.onTakeovers p.val fun l => l ++ [t]).routeStart p t (taker != coord)

/-- The group-mates of a lost node (R388): the nodes of its group that the light lists reach. -/
def State.takeMates (s : State) (lost : Node) : List Nat :=
  ((List.range 32).map fun i => lost.toNat / 32 * 32 + i).filter fun n =>
    decide (n ≠ lost.toNat) && !s.isGone n && !(s.llPorts s.injBank n).isEmpty

/-- TAKE to the taker, to the lost node's group-mates and to a spare that has been dropped, and to itself. -/
def State.takeSend (s : State) (p : Part) (t : Takeover) : State :=
  let body := takeBody t.taker.toNat (s.determ p.val)
  let r := t.low.getD 0
  let ns := ((t.taker.toNat :: s.takeMates t.lost ++ (t.dropped.map (·.toNat)).toList).filter fun n => !s.here n).eraseDups
  let s := ns.foldl (fun s n => s.kctlSend p n 0x07 t.lost.toNat r.toNat body) s
  s.takeIn p t.lost t.coord t.taker (s.determ p.val) r

/-- What holds the poisoned sector is restored before the replay (R405): mirrored items from the partner, and ring
granules from the group. -/
def State.restoreStart (s : State) (p : Part) (t : Takeover) : State :=
  match t.sector with
  | some g =>
    let a := g.toNat % 2 ^ 48
    if !s.here (g.toNat / 2 ^ 48) then s.releaseJob p t
    else
      let rings := s.ringHolds p.val a
      let shards := (s.ownedShards p.val).filter fun i => s.shardHolds p.val i a
      let s := if rings.isEmpty then s else s.setTag (a / 32768) TagState.none
      let s := s.onKpart p.val fun k =>
        { k with pull := some { lost := noLoss, src := 0, step := t.low, stage := 4, left := 0, bad := false,
                                todo := rings, pos := 0, asked := false, seq := 0 } }
      let s := match s.mirTo p with
        | some n => shards.foldl (fun (s : State) i => s.restoreAsk p n (s.ownNode p.val) (shId (s.shard p.val i))) s
        | none => s
      s.pullOn p
  | none => s.releaseJob p t

/-- The lowest of a module's steps that a commitment leaves over (R398); without one, the step after it. -/
def lowestAfter (steps : List W32) (committed : W32) : W32 :=
  ((steps.filter fun st => st != committed && fromStep committed st).foldl (fun a st => some ((stepMin a st).getD st)) none).getD
    (committed + 1)

/-- The steps that a partition has journaled. -/
def State.journaled (s : State) (p : Nat) : List W32 := (s.kpart p).jSteps.map (·.1)

/-- Once every member that is not lost has answered, the coordinator goes on (R388, R394, R405). r counts in what the lost
node's mirror has committed (R398). -/
def State.acksDone (s : State) (p : Part) (t : Takeover) : State :=
  if t.sent ∨ !(s.members p.val).all fun n => t.acks.contains (BitVec.ofNat 16 n) then s
  else
    let low := match keyGet (s.kpart p.val).ownerSteps t.lost.toNat with
      | some st => if t.lost = noLoss then t.low else stepMin t.low (lowestAfter (s.journaled p.val) st)
      | none => t.low
    let t := { t with sent := true, low := low }
    let s := s.putTakeover p.val t
    if t.lost = noLoss then s.restoreStart p t else (s.setPhase p.val 4).takeSend p t

/-- A HELD_ACK at the coordinator: the member's COMMITTED, its newest journaled step and its GATE records (R386, R398). -/
def State.ackIn (s : State) (p : Part) (lost from_ : Node) (committed newest : W32) (gates : List (W32 × List Byte)) : State :=
  match s.leads p.val lost with
  | none => s
  | some t =>
    let t := { t with acks := if t.acks.contains from_ then t.acks else t.acks ++ [from_],
                      low := stepMin t.low (lowestAfter (newest :: s.journaled p.val) committed), gates := t.gates ++ gates }
    (s.putTakeover p.val t).acksDone p t

/-- A member that a recovery waits for has been lost: what no longer waits goes on (R394). -/
def State.acksAgain (s : State) : State :=
  s.kept.foldl (fun s p =>
    ((s.kpart p.val).takeovers.filter fun t => t.mine && !t.acks.isEmpty).foldl (fun s t =>
      match s.leads p.val t.lost with
      | some t => s.acksDone p t
      | none => s) s) s

/-! ## Suspicion and confirmation (R383, R384) -/

/-- ABORT to the job: every member's partition enters FAULT (R384). -/
def State.abortJob (s : State) (p : Part) : State := (s.fanOut p [] 0x10 0xFFFF 0 []).keeperFatal p

/-- The spare of a lost node, if KPR_TAKE names one whose heartbeats are current and whose state is READY. -/
def State.spareFor (s : State) (lost : Nat) : Option Nat :=
  let o := kprTakeOff (lost % 32)
  let n := s.fld o 31 16
  if s.bit o 32 && s.keeper.watched.any fun w => decide (w.node.toNat = n) && w.current && decide (w.state = mReady) then
    some n
  else none

/-- A confirmed loss in one partition: a mirrored owner is taken over, this module coordinating; the own partner's loss
ends the mirror stream; the own partner lost with its partner is fatal to the job. -/
def State.confirmIn (s : State) (node : Nat) (p : Part) : State :=
  let own := s.mirrorNode p.val == some node && !(s.kpart p.val).mirrorLost
  let s := s.partnerLost p node
  if s.mirrors p.val node then
    (s.count kprTakeoversOff).recover p (BitVec.ofNat 16 node) 0 none (s.spareFor node)
  else if own && s.isGone (s.partnerOf node) then s.abortJob p
  else s

/-- A probe of this module's own is under way. -/
def ProbeRun.ownOf (x : ProbeRun) (node : Nat) : Bool := decide (x.node.toNat = node) && x.relayFor.isNone

/-- This module's own probe of a node ends. -/
def State.endProbe (s : State) (node : Nat) : State :=
  { s with keeper := { s.keeper with probes := s.keeper.probes.filter fun x => !x.ownOf node } }

/-- A loss is confirmed (R384); recoveries under way wait for the node no more (R394). -/
def State.confirm (s : State) (node : Nat) : State :=
  if s.isGone node then s
  else
    let s := (s.keeperLast node 3).endProbe node
    ((s.kept.foldl (State.confirmIn · node) s).setGone (BitVec.ofNat 16 node)).acksAgain

/-- A node has not answered a fan-out message by 10T (R387): its partner, when that is this module, confirms the loss; any
other coordinator waits for it no more (R394). -/
def State.fanLost (s : State) (node : Nat) : State :=
  if s.kept.any fun p => s.mirrors p.val node then s.confirm node
  else (s.setGone (BitVec.ofNat 16 node)).acksAgain

/-- The two nearest group-mates, in ascending position (R384): those that the LOCAL entries reach. -/
def State.relays (s : State) (suspect : Nat) : List Nat :=
  let k := s.fabNode % 32
  let dist := fun i : Nat => if i < k then k - i else i - k
  let node := fun i => s.fabNode / 32 * 32 + i
  let mates := (List.range 32).filter fun i => i != k && node i != suspect && !(s.llPorts s.injBank (node i)).isEmpty
  let near := (sortBy (fun a b => decide (dist a < dist b)) mates).take 2
  (sortBy (fun a b => decide (a < b)) near).map node

/-- Probe a suspect: directly, and through two group-mates (R384). -/
def State.probeStart (s : State) (p : Part) (node : Nat) : State :=
  if s.keeper.probes.any (·.ownOf node) then s
  else
    let s : State := { s with keeper := { s.keeper with
      probes := s.keeper.probes ++ [⟨BitVec.ofNat 16 node, none, []⟩] } }
    let s := if s.phase p.val = 0 then s.setPhase p.val 1 else s
    let s := s.kctlSend p node 0x03 node 0 []
    (s.relays node).foldl (fun s n => s.kctlSend p n 0x04 node 0 []) s

/-- The module suspects a node (R383): it probes an owner it mirrors or its own partner; of a node that it does not
mirror, the node's partner is told. -/
def State.suspect (s : State) (node : Nat) : State :=
  match s.kept with
  | [] => s
  | p :: _ =>
    if s.here node then s
    else
      let mirrored := s.kept.find? fun q => s.mirrors q.val node
      let partner := s.kept.find? fun q => s.mirrorNode q.val == some node
      let s := if s.isGone node then s
        else match mirrored.or partner with
          | some q => (s.keeperLast node 2).probeStart q node
          | none => s.keeperLast node 2
      if mirrored.isSome ∨ !sameGroup node s.fabNode then s else s.kctlSend p (s.partnerOf node) 0x02 node 0 []

/-- The answer of a probed node, or what a group-mate reports (R384): the loss is confirmed or the suspicion withdrawn.
The phase that the suspicion began ends. -/
def State.probed (s : State) (node state : Nat) : State :=
  if !s.keeper.probes.any (·.ownOf node) then s
  else
    let s := s.kept.foldl (fun s p => if s.phase p.val = 1 then s.setPhase p.val 0 else s) s
    if state = mFault ∨ state = mProtect then s.confirm node
    else ((s.endProbe node).keeperLast node 4).raise evKeeperFalseSuspect none node

/-- What a relay reports when the suspect has not answered (R407 leaves the reply's contents open). -/
abbrev noAnswer : Nat := 0xFF

/-- The relays of a probe are answered. -/
def State.relayAnswer (s : State) (node state : Nat) : State :=
  let rs := s.keeper.probes.filter fun x => decide (x.node.toNat = node) && x.relayFor.isSome
  let s : State := { s with keeper := { s.keeper with probes := s.keeper.probes.filter fun x => !rs.contains x } }
  rs.foldl (fun s x => match x.relayFor with
    | some pk => s.answer (recvKey pk) pk ⟨0, clean (natLe 8 state), 0⟩
    | none => s) s

end Sys2Proof.Machine
end

