-- ==== Sys2Proof/Machine/Keeper.lean ====
section
/-! DEFINITION. The meanings of the Keeper rows: heartbeats, suspicion, holds, takeovers, mirror traffic, replays,
notices and retirement, as messages that arrive (R407), as replies, as timeouts and as events in the module. -/

namespace Sys2Proof.Machine

/-! ## Messages that arrive -/

/-- A KCTL request with this payload's kind is known (R407). -/
def kcKnown (pk : Packet) : Bool := decide (1 ≤ kcKind pk) && decide (kcKind pk ≤ 0x12)

/-- A KCTL payload has its header, with the reserved bits of PARTITION 0. -/
def kcFormed (pk : Packet) : Bool := decide (8 ≤ pk.payload.length) && decide ((pk.payload.getD 1 0).toNat < 4)

/-- The reply of a KCTL request: its 8-byte result. -/
def kcResult (r : Nat) : Answer := ⟨0, clean (natLe 8 r), 0⟩

/-- KCTL packets are ejected; a PROBE in PROTECT and in S1 too (R467, R479). -/
def State.kctlEjects (s : State) (pk : Packet) : Bool :=
  s.ejects || (decide (kcKind pk = 3) && decide (mStandby ≤ s.modState) && decide (s.fld pwrStateOff 3 0 ≤ 8))

/-- A KCTL request of a kind arrives (R281, R407); a kind that is not known is MALFORMED. -/
def State.kctlIn (s : State) (pk : Packet) (kind : Nat) (f : State → Packet → Answer × State) : State :=
  if !s.kctlEjects pk || !s.here pk.dst.toNat || pk.op != 0x14 || (kcKnown pk && kcKind pk != kind) then s
  else (s.dequeue pk).receive pk fun s pk => if kcKnown pk && kcFormed pk then f s pk else (.ofCode 2, s)

/-- What a Keeper-enabled partition does with a message, with result 0; another partition does nothing (R408). -/
def forKept (g : State → Part → State) : State → Packet → Answer × State := fun s pk =>
  (kcResult 0, if s.keeperOn (kcPart pk).val then g s (kcPart pk) else s)

/-- What watched node a heartbeat shows (R407: module state, TRAY_ID, partition states, COMMITTED). -/
def watchedOf (pk : Packet) : Watched :=
  { node := pk.src, state := leNat ((kcBody pk).take 1), tray := leNat (((kcBody pk).drop 2).take 2),
    committed := kcStep pk, current := true }

/-- A heartbeat at the watcher (R376, R382): the mirror partner's tray is compared with the own one. -/
def State.heartbeatIn (s : State) (pk : Packet) : State :=
  if !s.watches pk.src.toNat then s
  else
    let w := watchedOf pk
    let s : State := { s with keeper := { s.keeper with
      watched := (s.keeper.watched.filter fun x => x.node != pk.src) ++ [w] } }
    s.kept.foldl (fun s p =>
      if s.mirrorNode p.val = some pk.src.toNat ∧ w.tray = s.pins.trayId ∧ !(s.kpart p.val).sameTray then
        (s.onKpart p.val fun k => { k with sameTray := true }).raise evMirrorSameTray (some p) pk.src.toNat w.tray
      else s) s

/-- HEARTBEAT (R382, R407). -/
def execHeartbeat (pk : Packet) (s : State) : Host.Outcome State Fault Refusal :=
  .next (s.kctlIn pk 0x01 fun s pk => (kcResult 0, s.heartbeatIn pk))

/-- SUSPECT (R383). -/
def execSuspect (pk : Packet) (s : State) : Host.Outcome State Fault Refusal :=
  .next (s.kctlIn pk 0x02 (forKept fun s _ => s.suspect (kcSubject pk)))

/-- PROBE (R384): answered with the module state. -/
def execProbe (pk : Packet) (s : State) : Host.Outcome State Fault Refusal :=
  .next (s.kctlIn pk 0x03 fun s _ => (kcResult s.modState, s))

/-- A group-mate is asked to probe a suspect; it answers when the suspect does, or at its timeout (R384). -/
def State.relayIn (s : State) (pk : Packet) : Answer × State :=
  let node := kcSubject pk
  if s.here node then (kcResult s.modState, s)
  else if s.keeper.probes.any fun x => x.relayFor == some pk then (.ofCode laterCode, s)
  else
    let s : State := { s with keeper := { s.keeper with
      probes := s.keeper.probes ++ [⟨BitVec.ofNat 16 node, some pk, []⟩] } }
    (.ofCode laterCode, s.kctlSend (kcPart pk) node 0x03 node 0 [])

/-- PROBE_RELAY (R384). -/
def execProbeRelay (pk : Packet) (s : State) : Host.Outcome State Fault Refusal := .next (s.kctlIn pk 0x04 State.relayIn)

/-- HOLD (R386). -/
def execHold (pk : Packet) (s : State) : Host.Outcome State Fault Refusal :=
  .next (s.kctlIn pk 0x05 (forKept fun s p => s.holdIn p (BitVec.ofNat 16 (kcSubject pk)) pk.src))

/-- The GATE records that a HELD_ACK carries: step and record of each, 28 bytes (R386). -/
def gatesOf (bs : List Byte) : List (W32 × List Byte) :=
  (List.range (bs.length / 28)).map fun i =>
    (BitVec.ofNat 32 (leNat ((bs.drop (28 * i)).take 4)), (bs.drop (28 * i + 4)).take 24)

/-- HELD_ACK at the coordinator (R386). -/
def execHeldAck (pk : Packet) (s : State) : Host.Outcome State Fault Refusal :=
  .next (s.kctlIn pk 0x06 (forKept fun s p =>
    s.ackIn p (BitVec.ofNat 16 (kcSubject pk)) pk.src (kcStep pk) (BitVec.ofNat 32 (leNat ((kcBody pk).take 4)))
      (gatesOf ((kcBody pk).drop 4))))

/-- TAKE (R388). -/
def execTake (pk : Packet) (s : State) : Host.Outcome State Fault Refusal :=
  .next (s.kctlIn pk 0x07 (forKept fun s p =>
    s.takeIn p (BitVec.ofNat 16 (kcSubject pk)) pk.src (BitVec.ofNat 16 (leNat ((kcBody pk).take 2)))
      (bitOf (leNat (((kcBody pk).drop 2).take 2)) 0) (kcStep pk)))

/-- The pairs of shard identifier and version that a RING_RESET carries after the taker. -/
def pairsOf (bs : List Byte) : List (Nat × Nat) :=
  (List.range (bs.length / 8)).map fun i => (leNat ((bs.drop (8 * i)).take 4), leNat ((bs.drop (8 * i + 4)).take 4))

/-- RING_RESET (R389, R390). -/
def execRingReset (pk : Packet) (s : State) : Host.Outcome State Fault Refusal :=
  .next (s.kctlIn pk 0x08 (forKept fun s p =>
    s.ringResetIn p (BitVec.ofNat 16 (kcSubject pk)) pk.src (BitVec.ofNat 16 (leNat ((kcBody pk).take 8)))
      (pairsOf ((kcBody pk).drop 8))))

/-- The spare has joined (R391, R392). -/
def State.spareReadyIn (s : State) (p : Part) (lost : Node) (seq : W32) : State :=
  match s.leads p.val lost with
  | some t =>
    if !t.spare || t.spareDone then s
    else
      let t := { t with spareDone := true, seq := seq }
      (s.putTakeover p.val t).phaseEnd p t
  | none => s

/-- SPARE_READY (R391). -/
def execSpareReady (pk : Packet) (s : State) : Host.Outcome State Fault Refusal :=
  .next (s.kctlIn pk 0x09 (forKept fun s p =>
    s.spareReadyIn p (BitVec.ofNat 16 (kcSubject pk)) (BitVec.ofNat 32 (leNat ((kcBody pk).take 8)))))

/-- REPLAY (R394, R398): from a spare, which the host has resumed, the coordinator releases the job; from the
coordinator, the member replays. -/
def State.replayMsg (s : State) (pk : Packet) (p : Part) : State :=
  let lost := BitVec.ofNat 16 (kcSubject pk)
  let body := kcBody pk
  match s.leads p.val lost with
  | some t => if t.spare && t.spareDone && t.swapDone && (pk.src == t.taker || pk.src == t.lost) then s.releaseJob p t else s
  | none => s.replayIn p lost pk.src (kcStep pk) (leNat (body.take 8)) (if body.length = 32 then some (body.drop 8) else none)

/-- REPLAY (R398). -/
def execReplay (pk : Packet) (s : State) : Host.Outcome State Fault Refusal :=
  .next (s.kctlIn pk 0x0A (forKept fun s p => s.replayMsg pk p))

/-- The staging area of the owner that a partition mirrors: base and bytes (R411). -/
def State.stageFor (s : State) (p : Nat) (owner : Nat) : Option (Nat × Nat) :=
  ((List.range 2).find? fun m => s.wordNode (kprMirOff p m) == some owner).map fun m =>
    ((s.reg (kprMirOff p m + 8)).toNat % 2 ^ 48, (s.reg (kprMirOff p m + 16)).toNat)

/-- The bytes in a staging area are the record that MIR_COMMIT names (R378, R379): its shard, STEP and CRC, with items that
lie in it and that the partition owns. -/
def State.recordOk (s : State) (p shard step crc : Nat) (bs : List Byte) : Bool :=
  mirCrcOk bs && decide (leNat ((bs.drop 24).take 4) = crc) && decide (leNat (bs.take 8) = shard + step * 2 ^ 32) &&
    (mirParse bs).all fun (a, len, at_) => decide (at_ + len ≤ bs.length) && (s.refused p a len).isNone

/-- What a partner holds of an owner's shard once another record is committed (R378): the items named before and those of
this record. -/
def MirRec.join (old : List MirRec) (new : MirRec) : List MirRec :=
  let mine := fun (m : MirRec) => m.owner == new.owner && m.shard == new.shard
  let before := ((old.find? mine).map (·.items)).getD []
  (old.filter fun m => !mine m) ++ [{ new with items := new.items.foldl (fun l x => keySet l x.1 x.2) before }]

/-- A record has arrived whole in a half of its staging area (R379): its CRC is checked, and each item is copied to its
offset with its poison marks. -/
def State.mirCommitIn (s : State) (pk : Packet) : Answer × State :=
  let p := kcPart pk
  let body := kcBody pk
  let shard := leNat (body.take 4)
  let crc := leNat ((body.drop 4).take 4)
  let n := leNat ((body.drop 8).take 8)
  match s.stageFor p.val pk.src.toNat with
  | none => (kcResult 1, s)
  | some (base, room) =>
    let halves := [0, 1].filter fun h => decide (64 ≤ n) && decide (stageHalf 0 room h + n ≤ room)
    let s := halves.foldl (fun s h => s.look (stageHalf base room h) n) s
    let bytes := halves.map fun h => (s.readMem (stageHalf base room h) n).1
    match bytes.find? fun bs => s.recordOk p.val shard (kcStep pk).toNat crc (plain bs) with
    | none => (kcResult 1, s)
    | some bs =>
      let items := mirParse (plain bs)
      let s := items.foldl (fun (s : State) x => s.store x.1 ((bs.drop x.2.2).take x.2.1)) s
      let ver := BitVec.ofNat 16 (leNat (((plain bs).drop 8).take 2))
      let rec_ : MirRec := ⟨pk.src, shard, kcStep pk, ver, items.map fun x => (x.1, x.2.1)⟩
      (kcResult 0, s.onKpart p.val fun k => { k with mirrored := MirRec.join k.mirrored rec_ })

/-- MIR_COMMIT (R379). -/
def execMirCommit (pk : Packet) (s : State) : Host.Outcome State Fault Refusal := .next (s.kctlIn pk 0x0B State.mirCommitIn)

/-- MIR_STEP (R380): the partner learns which step its owner has committed. -/
def execMirStep (pk : Packet) (s : State) : Host.Outcome State Fault Refusal :=
  .next (s.kctlIn pk 0x0C fun s pk =>
    (kcResult 0, s.onKpart (kcPart pk).val fun k => { k with ownerSteps := keySet k.ownerSteps pk.src.toNat (kcStep pk) }))

/-- The one that asks for an owner's record may have it: the owner, or the spare that takes its number (R391, R405). -/
def State.mayRestore (s : State) (p : Nat) (owner from_ : Node) : Bool :=
  owner == from_ || (match s.leads p owner with
    | some t => t.spare && t.taker == from_
    | none => false)

/-- A shard's committed record goes back (R391, R405): its items are stored at their offsets at the module that asks, and the
answer follows the last store: the record's STEP, or 2 where there is no record (assumption 102). -/
def State.mirRestoreIn (s : State) (pk : Packet) : Answer × State :=
  let p := kcPart pk
  let owner := BitVec.ofNat 16 (kcSubject pk)
  let shard := leNat ((kcBody pk).take 4)
  match if s.mayRestore p.val owner pk.src then (s.kpart p.val).mirrored.find? fun m => m.owner == owner && m.shard == shard else none with
  | none => (kcResult 2, s)
  | some m =>
    if s.keeper.restores.any fun x => x.2.1 == pk then (.ofCode laterCode, s)
    else
      let id := s.keeper.restores.foldl (fun n x => Nat.max n (x.1 + 1)) 0
      let (data, s) := s.mirRead m.items
      let rs := data.flatMap fun (a, bs) =>
        (storeLines pk.src.toNat 3 p (bs.length / 128 + 2) a bs).map fun q => { plainReq q with cont := .restore id }
      if rs.isEmpty then (kcResult (m.step.toNat * 2 ^ 32), s)
      else
        let s : State := { s with keeper := { s.keeper with
          restores := s.keeper.restores ++ [(id, pk, rs.length, m.step.toNat * 2 ^ 32)] } }
        (.ofCode laterCode, s.fabIssue rs)

/-- MIR_RESTORE (R405, R407). -/
def execMirRestore (pk : Packet) (s : State) : Host.Outcome State Fault Refusal := .next (s.kctlIn pk 0x0D State.mirRestoreIn)

/-- SLOW_TIME (R366); with a node as SUBJECT it is the notice of R368 (assumption 125), which holds no time. -/
def execSlowTime (pk : Packet) (s : State) : Host.Outcome State Fault Refusal :=
  .next (s.kctlIn pk 0x0E fun s pk =>
    let p := kcPart pk
    (kcResult 0, if s.bit (kprSlowCtrlOff p.val) 0 && decide (kcSubject pk = 0) then
      (s.slowKeep p.val (kcStep pk) pk.src (leNat ((kcBody pk).take 8))).slowTry p (kcStep pk) false
    else s))

/-- RETIRE (R406): the partner confirms at once. -/
def execRetire (pk : Packet) (s : State) : Host.Outcome State Fault Refusal :=
  .next (s.kctlIn pk 0x0F (forKept fun s _ =>
    if s.kept.any fun p => s.mirrors p.val pk.src.toNat then s.confirm pk.src.toNat else s))

/-- ABORT (R384): the partition enters FAULT. -/
def execAbort (pk : Packet) (s : State) : Host.Outcome State Fault Refusal :=
  .next (s.kctlIn pk 0x10 (forKept State.keeperFatal))

/-- REG_READ (R407): from a watched node, the 64-bit register at an offset. -/
def execRegRead (pk : Packet) (s : State) : Host.Outcome State Fault Refusal :=
  .next (s.kctlIn pk 0x11 fun s pk =>
    let off := leNat ((kcBody pk).take 8)
    if !s.watches pk.src.toNat then (.ofCode 1, s)
    else if pk.payload.length < 16 ∨ 2 ^ 26 ≤ off then (.ofCode 2, s)
    else
      let (v, s) := s.read64 (fun _ => true) off
      (kcResult v.toNat, s))

/-! ## Replies -/

/-- What the result of a Keeper request means to the module that sent it. -/
def State.kctlResult (s : State) (q : Packet) (res : Nat) : State :=
  let p := kcPart q
  match kcKind q with
  | 0x03 => (s.relayAnswer q.dst.toNat (res % 256)).probed q.dst.toNat (res % 256)
  | 0x04 => if res % 256 = noAnswer then s else s.probed (kcSubject q) (res % 256)
  | 0x09 => s.onSpare p (BitVec.ofNat 16 (kcSubject q)) fun t => { t with spareDone := true }
  | 0x0B => s.mirAck p (BitVec.ofNat 32 (leNat ((kcBody q).take 4))) (kcStep q) (bitOf res 0)
  | 0x0C =>
    let s := s.mirCommitted p (kcStep q)
    if s.bit (kprSlowStatusOff p.val) 0 && s.bit (kprCtrlOff p.val) 1 then s.onKpart p.val fun k => { k with retireAck := true }
    else s
  | 0x0D =>
    let good := !bitOf res 0
    let s := if good && !bitOf res 1 then s.onKpart p.val fun k =>
        { k with recDone := keySet k.recDone (leNat ((kcBody q).take 4)) (BitVec.ofNat 32 (res / 2 ^ 32)) }
      else s
    s.pullPiece p good
  | _ => s

/-- KCTL_REPLY (R407): the request ends, and its result takes effect when it was done. -/
def execKctlReply (pk : Packet) (s : State) : Host.Outcome State Fault Refusal :=
  .next (if !s.answersKctl pk then s
    else match s.arrived pk [0x10] with
      | none => s
      | some s => match s.answering pk with
        | none => s
        | some r =>
          let s := s.accept pk r
          if pk.code = 0 then (s.kctlResult r.pk (pkWord pk 0)).pullsOn else s.pullsOn)

/-- LOAD_REPLY (R286); what the Keeper pulls goes on. -/
def execLoadReply (pk : Packet) (s : State) : Host.Outcome State Fault Refusal :=
  .next (match s.arrived pk [0x02] with
    | some s => (s.replyIn pk).pullsOn
    | none => s)

/-- TARGET_LOST_TIMEOUT (R288): at 10T, after the last resend. A node that a fan-out message did not reach is a member lost
(R387, R394). -/
def execTargetLostTimeout (rq : ReqId) (s : State) : Host.Outcome State Fault Refusal :=
  .next (match s.flyingReq rq with
    | some r =>
      if r.resends < 3 then s
      else match r.cont with
        | .mflush run => s.membersLost run r
        | .kctl =>
          let s := (s.targetLost r).pullsOn
          if fanKind (kcKind r.pk) then s.fanLost r.pk.dst.toNat else s
        | _ => (s.targetLost r).pullsOn
    | none => s)

/-! ## Events in the module -/

/-- A heartbeat's body: module state, TRAY_ID and the four partitions' job states (R407). -/
def State.heartbeatBody (s : State) : List Byte :=
  natLe 2 s.modState ++ natLe 2 s.pins.trayId ++ ([0, 1, 2, 3].map s.jobState).flatMap (natLe 1)

/-- HEARTBEAT_SEND (R382): to each valid node of KPR_WATCH, for the lowest partition that the Keeper acts for. -/
def execHeartbeatSend (s : State) : Host.Outcome State Fault Refusal :=
  .next (match s.kept with
    | [] => s
    | p :: _ =>
      if !s.ejects then s
      else
        let body := s.heartbeatBody
        (List.range 8).foldl (fun s w => match s.wordNode (kprWatchOff w) with
          | some n => s.kctlSend p n 0x01 (s.ownNode p.val) (s.committed p.val).toNat body
          | none => s) s)

/-- HEARTBEAT_MISS (R382): a watched node has been silent for MISS periods. -/
def execHeartbeatMiss (node : Node) (s : State) : Host.Outcome State Fault Refusal :=
  .next (if s.watches node.toNat && !s.kept.isEmpty then
      let s : State := { s with keeper := { s.keeper with
        watched := s.keeper.watched.map fun w => if w.node = node then { w with current := false } else w } }
      s.suspect node.toNat
    else s)

/-- PROBE_TIMEOUT (R384): no answer within KPR_HB.PROBE: those who asked this module are told, and its own suspicion
is confirmed. -/
def execProbeTimeout (node : Node) (s : State) : Host.Outcome State Fault Refusal :=
  let own := s.keeper.probes.any (·.ownOf node.toNat)
  let s := s.relayAnswer node.toNat noAnswer
  .next (if own then s.confirm node.toNat else s)

/-- Take notices out of those that wait at the Keeper controller. -/
def State.takeNotices (s : State) (p : Nat) (mine : Notice → Bool) : State :=
  s.onKpart p fun k => { k with notices := k.notices.filter fun n => !mine n }

/-- TARGET_LOST_NOTICE (R288, R383), for a declaration that has sent one: of a group-mate it is a suspicion; of any other node
it is recorded alone. -/
def execTargetLostNotice (p : Part) (node : Node) (s : State) : Host.Outcome State Fault Refusal :=
  .next (if !(s.kpart p.val).notices.contains (.lost node) then s
    else
      let s := s.takeNotices p.val (· == .lost node)
      if !s.keeperOn p.val then s
      else if sameGroup node.toNat s.fabNode then s.suspect node.toNat
      else s.keeperLast node.toNat 1)

/-- A notice that waits is the one that a row names (R258, R168, R254, R291). -/
def noticeNames (n : KeeperNotice) (x : Notice) : Bool :=
  match n, x with
  | .poison g, .poison _ _ g' => g == g'
  | .updateFault i g, .update i' g' => i == i' && g == g'
  | .datapath, .datapath => true
  | _, _ => false

/-- The step in which a notice's fault happened, and its sector, for one that names a sector (R405). -/
def State.noticeKey (s : State) (p : Part) : Notice → Option (W32 × W64)
  | .poison st _ g => some (st, g)
  | .update _ g => some (s.stepOf (some p), g)
  | .datapath => none
  | .lost _ => none

/-- A notice of a fault in a partition that runs (R405): hold, restore, replay. A second bite at the same sector in the
replay of the same step is fatal. -/
def State.faultNotice (s : State) (p : Part) (key : Option (W32 × W64)) : State :=
  match key with
  | none => s.recover p noLoss 2 none none
  | some k =>
    if (s.kpart p.val).answered.contains k then s.keeperFatal p
    else (s.onKpart p.val fun x => { x with answered := x.answered ++ [k] }).recover p noLoss 1 (some k.2) none

/-- KEEPER_FAULT_NOTICE (R405): the controller answers a notice that waits, and with it those of the same sector and step. -/
def execKeeperFaultNotice (p : Part) (notice : KeeperNotice) (s : State) : Host.Outcome State Fault Refusal :=
  .next (match (s.kpart p.val).notices.find? (noticeNames notice) with
    | none => s
    | some n =>
      let key := s.noticeKey p n
      let t := s.takeNotices p.val fun x => x == n || (noticeNames notice x && s.noticeKey p x == key)
      if !s.keeperOn p.val then t
      else if s.jobState p.val ≠ jRun then s
      else t.faultNotice p key)

/-- The answer that one member gives for a hold (R386). -/
def State.ackBody (s : State) (p : Nat) : List Byte :=
  natLe 4 (s.jrNewest p).toNat ++ (s.gatesHeld p).flatMap fun g => natLe 4 g.1.toNat ++ g.2

/-- A hold is complete in a partition: nothing of its work ring runs any more. -/
def State.held (s : State) (p : Part) : Bool :=
  (decide (s.jobState p.val = jHeld) || decide (s.jobState p.val = jReplan)) &&
    s.cmds.all fun x => decide (x.id.func ≠ funcOf p) || decide (x.id.ring ≠ 0) || decide (x.phase = .ended)

/-- HOLD_COMPLETE (R386): HELD_ACK to every coordinator that waits for it. -/
def execHoldComplete (p : Part) (s : State) : Host.Outcome State Fault Refusal :=
  .next (if !s.keeperOn p.val || !s.held p then s
    else
      let owed := (s.kpart p.val).takeovers.filter (·.owed)
      let s := s.onTakeovers p.val fun l => l.map fun t => { t with owed := false }
      let s := s.jrLook p.val ((s.gateRecs p.val).map (·.1))
      owed.foldl (fun s t =>
        if t.mine then s.ackIn p t.lost (BitVec.ofNat 16 (s.ownNode p.val)) (s.committed p.val) (s.jrNewest p.val) (s.gatesHeld p.val)
        else s.kctlSend p t.coord.toNat 0x06 t.lost.toNat (s.committed p.val).toNat (s.ackBody p.val)) s)

/-- The takeover's entry is in both banks (R388): the coordinator goes on with RING_RESET; a group-mate outside the job keeps
nothing of the takeover. -/
def State.routeDone (s : State) (p : Part) (t : Takeover) : State :=
  let t := { t with route := none }
  let s := s.putTakeover p.val t
  if t.mine then
    let s := s.ringResetSend p t
    let t := { t with swapDone := true }
    (s.putTakeover p.val t).phaseEnd p t
  else if s.jobState p.val = jHeld then s
  else s.onTakeovers p.val fun l => l.filter fun x => !(x.lost == t.lost && x.coord == t.coord)

/-- TAKEOVER_LIGHT_LIST_SWAP (R388): in DRAIN mode, once classes 0 to 2 have drained, the entry is written, the banks are
swapped at this slot boundary (R338; assumption 70) and the other bank takes it too; in EPOCH mode the other bank takes it
(R340). -/
def execTakeoverLightListSwap (p : Part) (s : State) : Host.Outcome State Fault Refusal :=
  .next (match (s.kpart p.val).takeovers.find? (·.route.isSome) with
    | none => s
    | some t =>
      let k := t.lost.toNat % 32
      let e := s.takeEntry t.lost.toNat (t.route == some true)
      if s.bit fabLlCtrlOff 3 then
        (s.setReg (fabLlLocalOff (1 - s.fld fabLlCtrlOff 2 2) k) e).routeDone p t
      else if s.drained % 8 ≠ 7 then s
      else
        let b := s.fld fabLlCtrlOff 0 0
        let s := ((s.setReg (fabLlLocalOff (1 - b) k) e).swapLists.swapNow).setReg (fabLlLocalOff b k) e
        ((s.setFld fabLlCtrlOff 14 12 0).mcStart.pump).routeDone p t)

/-- SPARE_JOIN_TIMEOUT (R391): the spare is dropped, and the coordinator takes over itself (R393). -/
def execSpareJoinTimeout (p : Part) (s : State) : Host.Outcome State Fault Refusal :=
  .next (match (s.kpart p.val).takeovers.find? fun t => t.mine && t.spare && !t.spareDone with
    | none => s
    | some t =>
      let own := { t with spare := false, taker := t.coord, swapDone := false, dropped := some t.taker }
      let s := s.putTakeover p.val own
      if t.sent then s.takeSend p own else s)

/-- RESUME_TIMEOUT (R392): the host has not resumed the takeover: fatal to the job. -/
def execResumeTimeout (p : Part) (s : State) : Host.Outcome State Fault Refusal :=
  .next (if s.phase p.val ≠ 5 then s
    else if (s.kpart p.val).takeovers.any (·.mine) then s.abortJob p else s.keeperFatal p)

/-- The module enters FAULT, and every job with it (R441). -/
def State.enterFault (s : State) : State := (s.enterMod mFault).faultJobs

/-- RETIRE_MODULE (R406): the flagged module's MIR_STEP has been acknowledged: RETIRE to the partner, every port
disabled, and FAULT. -/
def execRetireModule (p : Part) (s : State) : Host.Outcome State Fault Refusal :=
  .next (if !s.keeperOn p.val || !s.bit (kprCtrlOff p.val) 1 || !(s.kpart p.val).retireAck || s.modState = mFault then s
    else
      let s := match s.mirrorNode p.val with
        | some n => s.kctlSend p n 0x0F (s.ownNode p.val) 0 []
        | none => s
      let s := (List.range 64).foldl (fun (s : State) i =>
        s.portWrite i (BitVec.ofNat 32 (setBits (s.reg (fabPortCtrlOff i)).toNat 0 0 0))) s
      (s.raise evRetired (some p)).enterFault)

/-! ## The control commands (R392, R404) -/

/-- KEEPER_RESUME (R392): the spare reports to the coordinator, which releases the job. -/
def execKeeperResume (c : CmdId) (s : State) : Host.Outcome State Fault Refusal :=
  .next (match s.starting c 0x07 with
    | none => s
    | some x =>
      if !unusedZero x 0 then s.badPacket c
      else if s.jobState c.p ≠ jHeld ∨ s.phase c.p ≠ 5 then s.endCmd c stState
      else match (s.kpart c.p).takeovers.find? fun t => t.spare with
        | none => s.endCmd c stState
        | some t =>
          if t.mine then (s.releaseJob c.part t).done c
          else ((s.setPhase c.p 6).kctlSend c.part t.coord.toNat 0x0A t.lost.toNat ((t.low.getD 0).toNat) (natLe 8 0)).done c)

/-- REPLAY_STEP (R404): the slot table is saved, and the step is replayed. A step that the journal does not hold makes
the packet malformed. -/
def execReplayStep (c : CmdId) (s : State) : Host.Outcome State Fault Refusal :=
  .next (match s.starting c 0x08 with
    | none => s
    | some x =>
      if 2 ^ 32 ≤ x.par 0 ∨ !unusedZero x 1 ∨ (s.jrFrom c.p (BitVec.ofNat 32 (x.par 0))).isEmpty then s.badPacket c
      else if s.jobState c.p ≠ jHeld ∨ s.phase c.p ≠ 0 ∨ s.bit (kprStatusOff c.p) 6 then s.endCmd c stState
      else
        let n := 128 * s.slotCount c.p
        let d := (s.reg (kprDiagSaveOff c.p)).toNat % 2 ^ 48
        match s.refused c.p d n with
        | some b => s.endBounds c b
        | none => ((s.slotTableCopy c.p true).replayBegin c.part (BitVec.ofNat 32 (x.par 0)) 4 none).done c)

end Sys2Proof.Machine
end

