-- ==== Sys2Proof/Machine/Sha.lean ====
section
/-! DEFINITION. The digest and the signature check of the boot block: SHA-512 (FIPS 180-4) and RSASSA-PKCS1-v1_5 with
SHA-512 (RFC 8017), which R499, R501, R505 and R512 name. -/

namespace Sys2Proof.Machine

/-- The greatest x with x ^ k ≤ v that `n` more bits can be added to, found from its top bit down. -/
def rootFrom (k v : Nat) : Nat → Nat → Nat
  | 0, x => x
  | n + 1, x => rootFrom k v n (if (x + 2 ^ n) ^ k ≤ v then x + 2 ^ n else x)

/-- The first 64 bits of the fractional part of the k-th root of n. -/
def rootFrac (k n : Nat) : W64 := BitVec.ofNat 64 (rootFrom k (n * 2 ^ (64 * k)) 72 0)

/-- The first eighty primes, of which FIPS 180-4 takes its constants. -/
def shaPrimes : List Nat :=
  (List.range 410).filter fun n => decide (2 ≤ n) && (List.range n).all fun d => decide (d < 2 ∨ n % d ≠ 0)

/-- The eighty round constants: the fractions of the primes' cube roots. -/
def shaK : List W64 := shaPrimes.map (rootFrac 3)

/-- The initial hash value: the fractions of the first eight primes' square roots. -/
def shaInit : List W64 := (shaPrimes.take 8).map (rootFrac 2)

/-- The value of bytes, most significant first. -/
def beNat (bs : List Byte) : Nat := bs.foldl (fun n b => 256 * n + b.toNat) 0

/-- The `n` bytes of a value, most significant first. -/
def natBe : Nat → Nat → List Byte
  | 0, _ => []
  | n + 1, v => BitVec.ofNat 8 (v / 256 ^ n) :: natBe n v

/-- A message with its padding: 0x80, zeros, and the bit length in 16 bytes. -/
def shaPad (m : List Byte) : List Byte :=
  m ++ [0x80#8] ++ List.replicate ((239 - m.length % 128) % 128) 0 ++ natBe 16 (8 * m.length)

/-- The exclusive or of a word's rotations to the right. -/
def rotations (x : W64) (ns : List Nat) : W64 := ns.foldl (fun y n => y ^^^ x.rotateRight n) 0

/-- The message schedule, newest word first: `n` more words, each the sum of the words 7 and 16 back and of what the words
2 and 15 back give. -/
def shaSchedule : Nat → List W64 → List W64
  | 0, w => w
  | n + 1, w =>
    let back := fun i => w.getD (i - 1) 0
    let mixed := fun (x : W64) (ns : List Nat) (k : Nat) => rotations x ns ^^^ x >>> k
    shaSchedule n (([back 16, mixed (back 15) [1, 8] 7, back 7, mixed (back 2) [19, 61] 6].foldl (· + ·) 0) :: w)

/-- One round on the eight working words a to h, with a round constant and a word of the schedule. -/
def shaRound (ws : List W64) (kw : W64 × W64) : List W64 :=
  match ws with
  | [a, b, c, d, e, f, g, h] =>
    let chosen := g ^^^ (e &&& (f ^^^ g))
    let most := (a &&& (b ||| c)) ||| (b &&& c)
    let t := [h, rotations e [14, 18, 41], chosen, kw.1, kw.2].foldl (· + ·) 0
    [t + rotations a [28, 34, 39] + most, a, b, c, d + t, e, f, g]
  | _ => ws

/-- Eight bytes of each of `n` words. -/
def beWords : Nat → List Byte → List W64
  | 0, _ => []
  | n + 1, bs => BitVec.ofNat 64 (beNat (bs.take 8)) :: beWords n (bs.drop 8)

/-- One 128-byte block. -/
def shaBlock (h : List W64) (block : List Byte) : List W64 :=
  let w := (shaSchedule 64 (beWords 16 block).reverse).reverse
  List.zipWith (· + ·) h ((shaK.zip w).foldl shaRound h)

/-- The blocks of a padded message, one after another. -/
def shaBlocks : Nat → List W64 → List Byte → List W64
  | 0, h, _ => h
  | n + 1, h, bs => shaBlocks n (shaBlock h (bs.take 128)) (bs.drop 128)

/-- SHA-512. -/
def sha512 (m : List Byte) : List Byte :=
  let p := shaPad m
  (shaBlocks (p.length / 128) shaInit p).flatMap fun w => natBe 8 w.toNat

/-- x squared k times modulo n. -/
def squares : Nat → Nat → Nat → Nat
  | 0, _, x => x
  | k + 1, n, x => squares k n (x * x % n)

/-- x to the exponent 65,537 modulo n. -/
def pow65537 (n x : Nat) : Nat := squares 16 n (x % n) * x % n

/-- The DigestInfo prefix of SHA-512 (RFC 8017, 9.2). -/
def sha512Info : List Byte :=
  [0x30, 0x51, 0x30, 0x0d, 0x06, 0x09, 0x60, 0x86, 0x48, 0x01, 0x65, 0x03, 0x04, 0x02, 0x03, 0x05, 0x00, 0x04, 0x40]

/-- The encoded message of a 512-byte signature over bytes (EMSA-PKCS1-v1_5). -/
def emsa512 (m : List Byte) : List Byte :=
  [0x00#8, 0x01#8] ++ List.replicate 426 0xFF#8 ++ [0x00#8] ++ sha512Info ++ sha512 m

/-- A 512-byte signature over bytes verifies with a public modulus. -/
def rsaVerify (n : Nat) (m sig : List Byte) : Bool :=
  decide (sig.length = 512) && decide (beNat sig < n) && decide (natBe 512 (pow65537 n (beNat sig)) = emsa512 m)

end Sys2Proof.Machine
end

