-- ==== Sys2Proof/Machine/Boot.lean ====
section
/-! DEFINITION. Reset, boot, firmware and rollback (R440, R441, R492 to R508, R512 to R526), and the rows that start
them: supply, PERST_N, MOD_CTRL.RESET, an internal fault, firmware update and rollback raise. -/

namespace Sys2Proof.Machine

/-- EV_BOOT_COMPLETE (R513). -/
abbrev evBootComplete : Nat := 0x0700
/-- EV_FW_FALLBACK. -/
abbrev evFwFallback : Nat := 0x0701
/-- EV_ATTEST_UNAVAILABLE. -/
abbrev evAttestUnavailable : Nat := 0x0702
/-- EV_FW_UPDATE. -/
abbrev evFwUpdate : Nat := 0x0703
/-- EV_MIN_SVN. -/
abbrev evMinSvn : Nat := 0x0704

/-! ## Reset (R441, R523, R525) -/

/-- The start of a firmware slot in the firmware flash (R492). -/
def slotStart (slot : Nat) : Nat := slot * 0x2000000

/-- A firmware slot erased: every byte reads 0xFF. -/
def eraseSlot (flash : List Host.Cell) (slot : Nat) : List Host.Cell := tblClear flash (slotStart slot) (slotStart slot + 0x2000000)

/-- The boot block as a reset leaves it: the flashes, with the slot of an update that the reset cuts short erased (R507),
the ROM, and the key store unless the supply was lost (R509). -/
def Boot.kept (b : Boot) (powerOn : Bool) : Boot :=
  { Boot.reset with
    idFlash := b.idFlash, records := b.records, rom := b.rom,
    fwFlash := match b.updSlot with
      | some k => eraseSlot b.fwFlash k
      | none => b.fwFlash,
    keyStore := if powerOn then none else b.keyStore, finger := if powerOn then b.finger else [], powerOn := powerOn }

/-- THERM_TRIP_N is let go at RESET, and with the supply (R478, R533). -/
def State.tripOff (s : State) : State := if s.bit modSidebandOff 17 then s.emit (.thermTrip false) else s

/-- The module enters RESET (R8, R441): every register at its reset value, everything in progress gone; the memories keep
their contents until BOOT zeroes them, or have lost them with the supply (R523), and no granule has a version (R156). -/
def State.enterReset (s : State) (powerOn : Bool) : State :=
  let s := s.tripOff
  { State.reset with
    pending := s.pending, hostMem := s.hostMem, out := s.out, pins := s.pins, boot := s.boot.kept powerOn,
    mem := if powerOn then Memory.reset else { s.mem with tags := [] } }

/-- The module enters OFF and holds nothing (R523): its flashes alone keep what they hold. -/
def State.enterOff (s : State) : State :=
  let s := s.enterReset true
  { s with pins := { s.pins with powered := false } }.setFld modStateOff 3 0 mOff

/-! ## The daymark (R499) -/

/-- LENGTH of the daymark. -/
def State.dmLength (s : State) : Nat := s.idNat 8 4

/-- The daymark's signed bytes. -/
def State.dmSigned (s : State) : List Byte := s.idRead 0 (s.dmLength - 512)

/-- The daymark is valid (R499). -/
def State.dmOk (s : State) : Bool :=
  let len := s.dmLength
  let es := s.dmSections
  decide (s.idNat 0 4 = 0x4D594144) && decide (s.idNat 4 2 = 1) && decide (512 ≤ len) && decide (len ≤ 131072) &&
    es.all (fun e => decide (e.2.1 + e.2.2 ≤ len - 512)) &&
    [1, 2, 3, 4, 5, 6, 7].all (fun t => decide ((es.filter fun e => e.1 == t).length = 1)) &&
    (match s.boot.rom.daymarkKeys[s.idNat 6 1]? with
      | some n => decide (s.idNat 6 1 < 4) && rsaVerify n s.dmSigned (s.idRead (len - 512) 512)
      | none => false)

/-! ## Firmware images (R501, R502) -/

/-- The boot control record in force (R505): the valid one with the higher sequence number, or zeros. -/
def State.bootRec (s : State) : BootRec :=
  s.boot.records.foldl (fun b r => if b.seq ≤ r.seq then r else b) ⟨1, 0, 0, 0, 0⟩

/-- Write the next boot control record into the other place (R505). -/
def State.putRec (s : State) (minSvn revoked prefer : Nat) : State :=
  let old := s.bootRec
  let new : BootRec := ⟨1 - old.place, old.seq + 1, minSvn, revoked, prefer⟩
  { s with boot := { s.boot with records := (s.boot.records.filter fun r => r.place != new.place) ++ [new] } }

/-- Bytes of a firmware slot. -/
def State.fwRead (s : State) (slot a n : Nat) : List Byte := tblRead flashDefault s.boot.fwFlash (slotStart slot + a) n

/-- A section entry: target, offset in the image, length, offset in the target's memory, its reserved bytes, digest. -/
structure FwSection where
  target : Nat
  file   : Nat
  len    : Nat
  load   : Nat
  rsvd   : Bool
  digest : List Byte
  deriving DecidableEq, Repr

/-- A value in a header. -/
def hdrNat (h : List Byte) (a n : Nat) : Nat := leNat ((h.drop a).take n)

/-- The section entries of a header. -/
def fwSections (h : List Byte) : List FwSection :=
  (List.range (Nat.min 32 (hdrNat h 7 1))).map fun i =>
    let e := h.drop (0x100 + 96 * i)
    { target := hdrNat e 0 1, file := hdrNat e 8 4, len := hdrNat e 0x0C 4, load := hdrNat e 0x10 4,
      rsvd := decide (hdrNat e 1 7 = 0) && decide (hdrNat e 0x14 12 = 0), digest := (e.drop 0x20).take 64 }

/-- Bytes of a target's program memory (R501); 0 for a target that does not exist. -/
def targetBytes (t : Nat) : Nat :=
  match t with
  | 1 => 0x80000
  | 2 | 7 => 0x100000
  | 3 | 4 => 0x40000
  | 5 => 0x10000
  | 6 => 0x8000
  | _ => 0

/-- Two sections of one target overlap. -/
def fwOverlap (a b : FwSection) : Bool :=
  a.target == b.target && decide (a.load < b.load + b.len) && decide (b.load < a.load + a.len)

/-- The sections do not overlap one another. -/
def fwApart : List FwSection → Bool
  | [] => true
  | a :: t => t.all (fun b => !fwOverlap a b) && fwApart t

/-- The first check of R502, for an image in `room` bytes. -/
def fwFormat (h : List Byte) (room : Nat) : Bool :=
  let bytes := hdrNat h 8 4
  let es := fwSections h
  decide (hdrNat h 0 4 = 0x57465647) && decide (hdrNat h 4 2 = 1) && decide (1 ≤ hdrNat h 7 1) && decide (hdrNat h 7 1 ≤ 32) &&
    decide (4096 ≤ bytes) && decide (bytes ≤ 0x1000000) && decide (bytes ≤ room) && decide (hdrNat h 0x12 238 = 0) &&
    es.all (fun e => e.rsvd && decide (1 ≤ e.target) && decide (e.target ≤ 7) && decide (e.file % 4096 = 0) &&
      decide (e.file + e.len ≤ bytes) && decide (e.load + e.len ≤ targetBytes e.target)) && fwApart es

/-- The header's key. -/
def fwKey (h : List Byte) : Nat := hdrNat h 6 1
/-- VERSION. -/
def fwVersion (h : List Byte) : Nat := hdrNat h 0x0C 4
/-- SVN. -/
def fwSvn (h : List Byte) : Nat := hdrNat h 0x10 2

/-- The result code of an image (R502), read with `rd`. A flash read never fails here (assumption 67). -/
def State.fwCheck (s : State) (rd : Nat → Nat → List Byte) (room : Nat) : Nat :=
  let h := rd 0 4096
  let es := fwSections h
  let signed := match s.boot.rom.fwKeys[fwKey h]? with
    | some n => decide (fwKey h < 4) && rsaVerify n (h.take 0xE00) ((h.drop 0xE00).take 512)
    | none => false
  if !fwFormat h room then 1
  else if !signed then 2
  else if bitOf s.bootRec.revoked (fwKey h) then 3
  else if fwSvn h < s.bootRec.minSvn then 4
  else if es.any fun e => decide (sha512 (rd e.file e.len) ≠ e.digest) then 5
  else if [1, 2, 3, 4, 5, 6, 7].any fun t => !es.any fun e => e.target == t then 6
  else 0

/-- The result code of a slot. -/
def State.slotCheck (s : State) (slot : Nat) : Nat := s.fwCheck (s.fwRead slot) 0x2000000

/-! ## Boot (R493) -/

/-- The module enters FAULT from BOOT with a cause (R494). -/
def State.bootFault (s : State) (cause : Nat) : State := (s.setFld bootStatusOff 27 24 cause).enterMod mFault

/-- The attestation key is recovered on a power-on reset, and the fingerprint region is cleared (R509, R510). -/
def State.keyRecover (s : State) : State :=
  if !s.boot.powerOn then s
  else
    let sect := match s.dmSection 6 with
      | some (o, n) => s.idRead o n
      | none => []
    let r := Config.attestUnwrap s.boot.finger sect
    let s : State := { s with boot := { s.boot with finger := [], keyStore := if r.1 = 0 then some r.2 else none } }
    if r.1 = 0 then s else s.raise evAttestUnavailable none (if r.1 = 1 then 1 else 2)

/-- A trip point that the daymark gives (R478, R499; assumption 66): its default or its maximum. -/
def State.dmTrip (s : State) (hbm most : Bool) : Nat :=
  Config.tripOf (match s.dmSection 4 with
    | some (o, n) => s.idRead o n
    | none => []) hbm most % 256

/-- Fields of reset value D take the daymark's values (R8, R487, R500). -/
def State.dmLoad (s : State) : State :=
  (s.setFld pwrThermOff 31 24 (s.dmTrip false false)).setFld pwrThermOff 15 8 (s.dmTrip true false)

/-- BOOT begins (R493, steps 1 to 3): the straps are loaded (R535), the attestation key and the daymark. -/
def State.bootStart (s : State) : State :=
  let s := s.enterMod mBoot
  let s := s.setReg modSidebandOff (BitVec.ofNat 64
    ((0x60 + s.pins.slotId % 16) * 2 ^ 24 + s.pins.slotId % 16 * 2 ^ 8 + s.pins.trayId % 64))
  let s := s.keyRecover
  let s := s.setReg bootStatusOff (BitVec.ofNat 64
    (2 ^ 28 + 0xFF * 2 ^ 16 + (if s.boot.powerOn then 2 ^ 8 else 0) + (if s.boot.keyStore.isSome then 2 ^ 7 else 0)))
  if s.dmOk then s.dmLoad.setFld bootStatusOff 31 28 2 else s.bootFault 1

/-- The targets whose memories lie on the host die (R495, R501). -/
def hostTargets : List Nat := [1, 2, 3, 7]

/-- Load the programs of a slot that has passed (R503), those of the host die alone when the coolant is lost (R495). -/
def State.loadPrograms (s : State) (slot : Nat) (only : Bool) : State :=
  let h := s.fwRead slot 0 4096
  let ps := ((fwSections h).filter fun e => !only || hostTargets.contains e.target).map fun e =>
    (⟨e.target, e.load, s.fwRead slot e.file e.len⟩ : Program)
  { s with boot := { s.boot with programs := ps, runHeader := h, mgmt := true } }

/-- BOOT_ROLLBACK reflects the record in force (R516). -/
def State.showRollback (s : State) : State :=
  let r := s.bootRec
  s.setReg bootRollbackOff (BitVec.ofNat 64
    (r.minSvn + r.revoked * 2 ^ 16 + r.prefer * 2 ^ 20 + s.fld bootStatusOff 5 5 * 2 ^ 21))

/-- The measurements of R512. -/
def State.measure (s : State) : State :=
  let h := s.boot.runHeader
  { s with boot := { s.boot with meas :=
    [(1, s.boot.rom.digest), (2, sha512 s.dmSigned), (3, sha512 h), (4, natLe 4 (fwVersion h)), (5, natLe 2 (fwSvn h)),
     (6, natLe 4 (s.reg bootRollbackOff).toNat)] } }

/-- A slot boots: its programs, and the registers that show it (R514 to R516). -/
def State.bootSlot (s : State) (slot : Nat) : State :=
  let s := s.loadPrograms slot (!s.pins.coolantOk)
  let h := s.boot.runHeader
  let s := s.setFld bootStatusOff 5 5 slot
  let s := s.setReg bootFwRunOff (BitVec.ofNat 64 (fwVersion h + fwSvn h * 2 ^ 32 + fwKey h * 2 ^ 48))
  (s.showRollback).measure

/-- BOOT ends: PROTECT without coolant (R495), FAULT where HBM training failed (R494), else every line of memory zeroed
with correct check bits and STANDBY (R493). -/
def State.bootDone (s : State) (slot : Nat) (trained : Bool) : State :=
  let s := s.bootSlot slot
  let ev := fun (s : State) => s.raise evBootComplete none slot (fwVersion s.boot.runHeader)
  if !s.pins.coolantOk then
    ev (((s.setFld bootStatusOff 31 28 4).setFld bootStatusOff 27 24 4).enterMod mProtect)
  else if !trained then s.bootFault 3
  else ev (({ s with mem := Memory.reset }.setFld bootStatusOff 31 28 4).enterMod mStandby)

/-- Check the preferred slot, then the other (R504), and boot the first that passes. -/
def State.bootFinish (s : State) (trained : Bool) : State :=
  let s := s.setFld bootStatusOff 31 28 3
  let a := s.bootRec.prefer % 2
  let show_ := fun (s : State) slot r => if slot = 0 then s.setFld bootStatusOff 23 20 r else s.setFld bootStatusOff 19 16 r
  let r := s.slotCheck a
  let s := show_ s a r
  if r = 0 then s.bootDone a trained
  else
    let q := s.slotCheck (1 - a)
    let s := show_ s (1 - a) q
    if q = 0 then ((s.setBit bootStatusOff 6).raise evFwFallback none a r).bootDone (1 - a) trained
    else s.showRollback.bootFault 2

/-- BOOT_COMPLETE (R493): HBM training, zeroing and the image read have ended. -/
def execBootComplete (trained : Bool) (s : State) : Host.Outcome State Fault Refusal :=
  .next (if s.modState = mBoot then s.bootFinish trained else s)

/-! ## Supply, PERST_N and resets -/

/-- SUPPLY_ON (R521): the module enters RESET from OFF, the coolant flowing (assumption 8). -/
def execSupplyOn (s : State) : Host.Outcome State Fault Refusal :=
  .next (if s.pins.powered then s
    else { s with pins := { s.pins with powered := true, coolantOk := true } }.enterReset true)

/-- SUPPLY_LOSS (R523). -/
def execSupplyLoss (s : State) : Host.Outcome State Fault Refusal := .next (if s.pins.powered then s.enterOff else s)

/-- OVERVOLTAGE_SHUTDOWN (R523): the input stage opens. -/
def execOvervoltageShutdown (s : State) : Host.Outcome State Fault Refusal := .next (if s.pins.powered then s.enterOff else s)

/-- PERST_ASSERT (R441, R526): from every state but OFF to RESET. -/
def execPerstAssert (s : State) : Host.Outcome State Fault Refusal :=
  let s := { s with pins := { s.pins with perst := true } }
  .next (if s.modState = mOff ∨ s.modState = mReset then s else s.enterReset false)

/-- BOOT starts once PERST_N is deasserted and 100 ms have passed in RESET (R525). -/
def State.tryBoot (s : State) : State :=
  if s.modState = mReset ∧ !s.pins.perst ∧ s.boot.minDone then s.bootStart else s

/-- PERST_DEASSERT (R493, R525), with what the fingerprint region holds, which BOOT reads after a power-on reset. -/
def execPerstDeassert (fingerprint : List Byte) (s : State) : Host.Outcome State Fault Refusal :=
  let s := { s with pins := { s.pins with perst := false } }
  .next (if s.modState = mOff ∨ (s.modState = mReset ∧ s.boot.powerOn) then
      { s with boot := { s.boot with finger := fingerprint } }.tryBoot
    else s.tryBoot)

/-- RESET_MINIMUM_ELAPSED (R525). -/
def execResetMinimumElapsed (s : State) : Host.Outcome State Fault Refusal :=
  .next (if s.modState = mReset then { s with boot := { s.boot with minDone := true } }.tryBoot else s)

/-- MODULE_RESET_WRITE (R457): the PF writes 1 to MOD_CTRL.RESET. -/
def execModuleResetWrite (by_ : Func) (v : W32) (s : State) : Host.Outcome State Fault Refusal :=
  .next (if s.mayMod by_ && bitOf v.toNat 0 then s.enterReset false else s)

/-- INTERNAL_FAULT (R441): FAULT from every state but OFF and RESET; PROTECT and FAULT are left only through RESET. -/
def execInternalFault (s : State) : Host.Outcome State Fault Refusal :=
  .next (if s.modState < mBoot ∨ s.modState = mProtect ∨ s.modState = mFault then s else s.enterFault)

/-! ## Firmware update and rollback (R507, R508) -/

/-- An update ends with a result (R507, R513). -/
def State.updEnd (s : State) (res slot : Nat) : State :=
  let s := ((s.setFld bootUpdCtrlOff 11 8 res).setFld bootUpdCtrlOff 1 0 0).setBit bootUpdCtrlOff 2
  { s with boot := { s.boot with updSlot := none, updImage := [] } }.raise evFwUpdate none res slot

/-- A write of 1 to BOOT_UPD_CTRL.START (R507). -/
def State.updStart (s : State) : State :=
  let slot := 1 - s.fld bootStatusOff 5 5
  let a := s.fld bootUpdAddrOff 47 0
  let n := s.fld bootUpdLenOff 24 0
  if s.bit bootUpdCtrlOff 1 then s
  else if s.modState ≠ mStandby then s.updEnd 8 slot
  else if a % 4096 ≠ 0 ∨
      (firstRefusedFrom (fun a => (List.range 4).any fun p => s.owns p a) (n / 0x4000000 + 2) a (a + n)).isSome then
    s.updEnd 10 slot
  else
    let rd := fun o k => plain (s.readMem (a + o) k).1
    let res := s.fwCheck rd n
    let s := s.look a n
    if res ≠ 0 then s.updEnd res slot
    else
      let image := rd 0 (hdrNat (rd 0 4096) 8 4)
      ({ s with boot := { s.boot with updSlot := some slot, updImage := image } }.setFld bootUpdCtrlOff 2 2 0).setBit
        bootUpdCtrlOff 1

/-- FW_UPDATE_START (R507): the PF writes 1 to START. -/
def execFwUpdateStart (by_ : Func) (s : State) : Host.Outcome State Fault Refusal :=
  .next (if s.mayMod by_ then s.updStart else s)

/-- The slot's contents once an image has been written into it. -/
def State.writeSlot (s : State) (slot : Nat) (image : List Byte) : State :=
  { s with boot := { s.boot with
      fwFlash := tblPut flashDefault (eraseSlot s.boot.fwFlash slot) (slotStart slot) image } }

/-- FW_UPDATE_END (R507): the slot is written and read back, and PREFER set to it; or the flash has failed, and the slot
has no valid header. -/
def execFwUpdateEnd (flashOk : Bool) (s : State) : Host.Outcome State Fault Refusal :=
  .next (match s.boot.updSlot with
    | none => s
    | some slot =>
      if flashOk then
        let s := s.writeSlot slot s.boot.updImage
        let r := s.bootRec
        ((s.putRec r.minSvn r.revoked slot).showRollback).updEnd 0 slot
      else (s.writeSlot slot []).updEnd 9 slot)

/-- A write of 1 to BOOT_UPD_CTRL.RAISE (R508). -/
def State.raiseRollback (s : State) : State :=
  if s.modState ≠ mStandby ∨ s.bit bootUpdCtrlOff 1 then (s.setFld bootUpdCtrlOff 11 8 8).setBit bootUpdCtrlOff 2
  else
    let r := s.bootRec
    let h := s.boot.runHeader
    let low := Nat.max r.minSvn (fwSvn h)
    let add := setBits (s.fld bootUpdCtrlOff 19 16) (fwKey h) (fwKey h) 0
    let s := (s.putRec low (r.revoked ||| add) r.prefer).showRollback
    ((s.setFld bootUpdCtrlOff 11 8 0).setBit bootUpdCtrlOff 2).raise evMinSvn none r.minSvn low

/-- A write of BOOT_UPD_CTRL by its fields (R518): REVOKE, DONE, then RAISE and START. -/
def State.updCtrlWrite (s : State) (v : Nat) : State :=
  let s := s.setFld bootUpdCtrlOff 19 16 (bitsOf v 19 16)
  let s := if bitOf v 2 then s.setFld bootUpdCtrlOff 2 2 0 else s
  let s := if bitOf v 3 then s.raiseRollback else s
  if bitOf v 0 then s.updStart else s

/-- RAISE (R508): the PF writes BOOT_UPD_CTRL with RAISE set. -/
def execRaise (by_ : Func) (v : W32) (s : State) : Host.Outcome State Fault Refusal :=
  .next (if s.mayMod by_ then s.updCtrlWrite (setBits (setBits v.toNat 3 3 1) 0 0 0) else s)

/-- DAYMARK_DATA_READ (R519): the host reads BOOT_DM_DATA. -/
def execDaymarkDataRead (by_ : Func) (s : State) : Host.Outcome State Fault Refusal :=
  .next (s.hostRead64 by_ bootDmDataOff)

end Sys2Proof.Machine
end

