-- ==== Sys2Proof/Machine/Commands.lean ====
section
/-! DEFINITION. The command controller: fetching ring entries (R424 to R426), the checks of a consumed packet (R430,
R443, R444), starting commands with the engines they need (R429, R356), completing them (R431, R432), and the module
commands ENTER_READY and ENTER_STANDBY (R441). -/

namespace Sys2Proof.Machine

/-! ## The checks of a consumed packet (R430) -/

/-- The opcodes of a ring (R435): the PF's, a work ring's, a control ring's. -/
def ringOps (f : Func) (r : RingIx) : List Nat :=
  if f = 0 then [0x00, 0x01, 0x09, 0x0A, 0x0B]
  else if r = 0 then
    [0x00, 0x10, 0x11, 0x12, 0x13, 0x14, 0x20, 0x21, 0x22, 0x23, 0x24, 0x25, 0x26, 0x27, 0x28, 0x30, 0x31, 0x32, 0x33]
  else [0x00, 0x01, 0x02, 0x03, 0x04, 0x05, 0x06, 0x07, 0x08]

/-- Commands that return a result to a mailbox (R435). -/
def resultOps : List Nat := [0x01, 0x02]

/-- The first check: opcode and ring, FLAGS, the reserved field, and the completion pointer's alignment (R427, R428). -/
def packetOk (x : Cmd) : Bool :=
  (ringOps x.id.func x.id.ring).contains x.opcode && decide (x.flagBits < 16) && decide (bitsOf (x.word 0) 31 20 = 0) &&
    decide (x.word 1 % 16 = 0) && !(x.cmplLocal && decide (x.id.func = 0))

/-- Every job is CLOSED. -/
def State.allClosed (s : State) : Bool := [0, 1, 2, 3].all fun p => decide (s.jobState p = jClosed)

/-- The power state is P0 to P3. -/
def State.inP (s : State) : Bool := decide (s.fld pwrStateOff 3 0 ≤ 3)

/-- The work commands that need no plan in force (R443). -/
def planFree : List Nat := [0x11, 0x12, 0x13, 0x14, 0x24, 0x28]

/-- A command is legal in the present states (R443). -/
def State.legal (s : State) (x : Cmd) : Bool :=
  let op := x.opcode
  let m := s.modState
  let up := decide (m = mReady) || decide (m = mRun) || decide (m = mHeld)
  let stuck := decide (m = mProtect) || decide (m = mFault)
  let p := x.id.p
  let j := s.jobState p
  match op with
  | 0x00 | 0x01 => true
  | 0x02 => stuck || (up && decide (j ≠ jClosed))
  | 0x03 => up && decide (j = jClosed) && s.inP
  | 0x04 => if stuck then decide (j = jFault) else up && decide (j ≠ jClosed)
  | 0x05 => up && decide (j = jRun)
  | 0x06 => up && decide (j = jHeld) && (s.job p).holdByHost
  | 0x07 => up && decide (j = jHeld) && decide (s.phase p = 5)
  | 0x08 => up && decide (j = jHeld) && decide (s.phase p = 0)
  | 0x09 => decide (m = mStandby) && s.inP
  | 0x0A => decide (m = mReady) && s.allClosed
  | 0x0B =>
    if x.par 0 = 8 ∨ x.par 0 = 9 then (decide (m = mStandby) || decide (m = mReady)) && s.allClosed else decide (m = mStandby) || up
  | 0x10 => up && (decide (j = jRun) || decide (j = jReplan))
  | _ => up && decide (j = jRun) && (s.planOn p || planFree.contains op)

/-- The mailbox that a command names is EMPTY, if it names one. -/
def State.mailboxFree (s : State) (x : Cmd) : Bool :=
  !resultOps.contains x.opcode || decide (s.mboxState x.id.func.val x.mbox = 0)

/-- The status with which the first three checks refuse a consumed packet, if they do, and its DETAIL. -/
def State.refusal (s : State) (x : Cmd) : Option (Nat × Nat) :=
  if !packetOk x then some (stMalformed, detailPacket)
  else if !s.legal x then some (stState, 0)
  else if !s.mailboxFree x then some (stMailboxBusy, 0)
  else none

/-! ## Fetching (R424 to R426) -/

/-- A work command's parameter words are valid, as far as they say it themselves (R430, R435; what they point to is checked
when the command runs). -/
def State.parsOk (s : State) (x : Cmd) : Bool :=
  let at_ := fun (align used : Nat) => (match s.localPtr x.id.p (x.par 0) with
    | some a => decide (a % align = 0)
    | none => false) && unusedZero x used
  match x.opcode with
  | 0x00 | 0x28 => unusedZero x 0
  | 0x11 => at_ 8 4 && decide (x.par 2 < 3) && decide (x.par 3 < 2 ^ 32)
  | 0x12 => (classField (bitsOf (x.par 2) 2 1)).isSome && decide (x.par 0 % 8 = 0) && globalOk (x.par 0) &&
    decide (x.par 2 < 8) && unusedZero x 3
  | 0x13 => copyParsOk x && (!bitOf (x.par 3) 2 || s.mayCast (bitsOf (x.par 3) 17 4))
  | 0x14 => at_ 64 2 && decide (x.par 1 < 2 ^ 32) && decide (x.par 1 ≠ 0)
  | 0x20 => at_ 128 4 && decide (x.par 1 ≠ 0) && decide (x.par 1 ≤ 4096) && decide (x.par 3 < 2 ^ 32) && !x.meMask.isEmpty
  | 0x21 => at_ 128 2 && decide (x.par 1 < 2 ^ 16) && decide (x.par 1 ≠ 0)
  | 0x22 => at_ 64 2 && (s.localPtr x.id.p (x.par 1)).isSome
  | 0x23 => decide (x.par 0 < 2 ^ 48) && decide (bitsOf (x.par 0) 31 16 < 0xFFFC) && decide (bitsOf (x.par 0) 47 32 ≠ 0xFFFF) &&
    unusedZero x 1
  | 0x24 | 0x27 => decide (x.par 0 < 2 ^ 16) && unusedZero x 1
  | 0x25 | 0x30 | 0x31 | 0x32 | 0x33 => exPtrOk (s.ownNode x.id.p) (x.par 0) && unusedZero x 1
  | 0x26 => at_ 4 1
  | _ => true

/-- The eight words at a ring's HEAD: in host memory, or in the partition's gallery scratchpad where LOCAL is set; none
where that entry is not in it. -/
def State.ringEntry (s : State) (f : Func) (r : RingIx) : Option (List W64) :=
  let base := (s.reg (cmdRingBaseOff f.val r.val)).toNat
  let at_ := base / 64 * 64 + 64 * (s.ringHead f.val r.val % s.ringLen f.val r.val)
  match partOf f with
  | some p =>
    if base % 2 = 1 then
      if (s.refusedGal p.val (at_ % 2 ^ 48) 64).isSome then none
      else some (wordsOf (plain (s.readMem (at_ % 2 ^ 48) 64).1))
    else some (wordsOf (s.hostRead at_ 64))
  | none => some (wordsOf (s.hostRead at_ 64))

/-- A STEP_PLAN of the ring has been consumed and is not complete: what follows it is not consumed before it. -/
def State.planWaits (s : State) (f : Func) (replay : Bool) : Bool :=
  s.cmds.any fun x => decide (x.id.func = f) && decide (x.id.ring = 0) && decide (x.opcode = 0x10) && x.replay == replay &&
    decide (x.phase ≠ .ended)

/-- The ring is read now: enabled, not stopped, with an entry, past BOOT; a work ring neither while its job is HELD nor
while journaled commands are re-issued (R386, R399, R442). -/
def State.fetches (s : State) (f : Func) (r : RingIx) : Bool :=
  decide (mStandby ≤ s.modState) && ringExists f r && s.ringOn f.val r.val && !s.ringStopped f.val r.val &&
    decide (s.ringHead f.val r.val ≠ s.ringTail f.val r.val) &&
    (match partOf f, r with
      | some p, 0 => decide (s.jobState p.val ≠ jHeld) && !s.bit (kprStatusOff p.val) 6 && !s.planWaits f false
      | _, _ => true)

/-- What reading a ring's entry in the scratchpad leaves (R251, R253). -/
def State.ringLook (s : State) (f : Func) (r : RingIx) : State :=
  let base := (s.reg (cmdRingBaseOff f.val r.val)).toNat
  if base % 2 = 1 ∧ f ≠ 0 then
    s.look ((base / 64 * 64 + 64 * (s.ringHead f.val r.val % s.ringLen f.val r.val)) % 2 ^ 48) 64
  else s

/-- An entry's SEQ is not the one expected (R426). -/
def State.seqError (s : State) (f : Func) (r : RingIx) (want found : Nat) : State :=
  ((s.setBit (cmdRingStatusOff f.val r.val) 2).setBit (cmdRingStatusOff f.val r.val) 0).ringError f want found

/-- HEAD and NEXT advance past a consumed entry (R425, R426). -/
def State.advanceRing (s : State) (f : Func) (r : RingIx) : State :=
  let next := s.fld (cmdRingSeqOff f.val r.val) 31 0 + 1
  let s := (s.setFld (cmdRingHeadOff f.val r.val) 31 0 (s.ringHead f.val r.val + 1)).setFld (cmdRingSeqOff f.val r.val) 31 0 next
  match partOf f, r with
  | some p, 0 => if next = 2 ^ 32 then s.onKpart p.val fun k => { k with seqHi := k.seqHi + 1 } else s
  | _, _ => s

/-- An accepted work command whose parameter words are valid joins the journal (R395, R430); a STEP_PLAN has its own record
(R396). -/
def State.journalWork (s : State) (x : Cmd) : State :=
  if x.id.func = 0 ∨ x.id.ring ≠ 0 ∨ x.opcode = 0x10 ∨ !s.parsOk x then s else s.journalCmd x.id.part x.words x.id.seq.toNat

/-- Consume a ring's entry (R426, R430): refused, it ends at once; accepted, it waits to start. -/
def State.consume (s : State) (f : Func) (r : RingIx) (words : List W64) : State :=
  let id : CmdId := ⟨f, r, BitVec.ofNat 32 ((words.getD 0 0).toNat / 2 ^ 32)⟩
  let x := Cmd.fresh id words false false (s.energyOf id.p words)
  let no := s.refusal x
  let s := if no.isNone then s.journalWork x else s
  let s := s.advanceRing f r
  match no with
  | some (st, d) =>
    { s with cmds := s.cmds ++ [{ x with phase := .ended, status := st, detail := BitVec.ofNat 64 d, energy := 0 }] }
  | none => { s with cmds := s.cmds ++ [x] }

/-- A journaled record is re-issued (R399): a CMD record's packet, or a PLAN record's with the place of its block. -/
def State.reissue (s : State) (p : Part) (pos : Nat) : State :=
  match keyGet (s.kpart p.val).jRecs pos with
  | none => s
  | some n =>
    let rec_ := s.jrRead p.val pos n
    let words := wordsOf (rec_.body.take 64)
    let id := workId p words
    if (s.cmd id).isSome then s
    else
      let x := Cmd.fresh id words true false (s.energyOf p.val words)
      let x := if rec_.ty = jrPlan then { x with left := s.jrBase p.val + pos % jrBytes + 80 } else x
      let s := s.onKpart p.val fun k => { k with replayRecs := k.replayRecs.drop 1 }
      { s with cmds := s.cmds ++ [x] }

/-- The next journaled command of a replay; when none is left and all have completed, the replay ends (R399). -/
def State.replayFetch (s : State) (p : Part) : State :=
  if s.jobState p.val ≠ jRun ∧ !(s.kpart p.val).diag then s
  else match (s.kpart p.val).replayRecs with
    | pos :: _ => if s.planWaits (funcOf p) true then s else s.reissue p pos
    | [] => if s.replayRunning p then s else s.replayEnd p

/-- A ring's next entry. -/
def State.fetchNext (s : State) (f : Func) (r : RingIx) : State :=
  if !s.fetches f r then s
  else match s.ringEntry f r with
    | none => s
    | some words =>
      let s := s.ringLook f r
      let found := (words.getD 0 0).toNat / 2 ^ 32
      let want := s.fld (cmdRingSeqOff f.val r.val) 31 0
      let id : CmdId := ⟨f, r, BitVec.ofNat 32 found⟩
      if found ≠ want then s.seqError f r want found
      else if (s.cmd id).isSome then s
      else s.consume f r words

/-- RING_FETCH (R426): while journaled commands are re-issued, a work ring's next command comes from the journal. -/
def execRingFetch (page : Func) (ring : RingIx) (s : State) : Host.Outcome State Fault Refusal :=
  .next (match partOf page, ring with
    | some p, 0 => if s.bit (kprStatusOff p.val) 6 then s.replayFetch p else s.fetchNext page ring
    | _, _ => s.fetchNext page ring)

/-! ## Starting (R356, R429) -/

/-- The commands of the same ring before a command. A re-issued one does not follow those that are not. -/
def State.earlier (s : State) (x : Cmd) : List Cmd :=
  (s.cmds.takeWhile fun y => y != x).filter fun y =>
    decide (y.id.func = x.id.func) && decide (y.id.ring = x.id.ring) && (!x.replay || y.replay)

/-- A command starts only after every earlier one has completed: DEP, STEP_PLAN, UPDATE_GATE, MIRROR_CONFIG (R429). -/
def waitsForAll (x : Cmd) : Bool :=
  x.dep || (decide (x.id.func ≠ 0) && decide (x.id.ring = 0) && [0x10, 0x26, 0x28].contains x.opcode)

/-- A work ring's command of an open job. -/
def isWork (x : Cmd) : Bool := decide (x.id.func ≠ 0) && decide (x.id.ring = 0)

/-- The command's ring and its partition let it start (R429, R131, R216, R386); ENTER_READY waits for a firmware
update to end (R507). -/
def State.ready (s : State) (x : Cmd) : Bool :=
  let e := s.earlier x
  let p := x.id.p
  decide (x.phase = .consumed) && (!waitsForAll x || e.isEmpty) &&
    !(decide (x.id.func = 0) && decide (x.opcode = 0x09) && s.bit bootUpdCtrlOff 1) &&
    (!isWork x ||
      (e.all (fun y => decide (y.phase ≠ .consumed)) && (s.job p).drain.isEmpty && !s.issueStopped p &&
        (decide (s.jobState p ≠ jHeld) || (s.kpart p).diag)))

/-- Engine numbers in `holders`: matrix engines 0 to 95, vector engines 96 to 111, sector units 112 to 119, DMA engines
120 to 151, gradient channels 152 to 155. A set bit of a mask from a base up. -/
def maskFrom (base n m : Nat) : List Nat := ((List.range n).filter (bitOf m)).map (base + ·)

/-- The engines that a command must hold to start (R356). Matrix engines and gradient channels are granted item by item; a
DMA_COPY takes the lowest free DMA engine, and an exchange command the sector unit of every lantern. -/
def State.needs (s : State) (x : Cmd) : List Nat :=
  if !isWork x then []
  else match x.opcode with
    | 0x13 => [((List.range 32).find? fun i => (keyGet s.holders (120 + i)).isNone).getD 0 + 120]
    | 0x14 => maskFrom 120 32 (x.par 1)
    | 0x21 => maskFrom 96 16 (x.par 1)
    | 0x27 => maskFrom 96 16 (if x.par 0 = 0 then 0xFFFF else x.par 0)
    | 0x30 | 0x31 | 0x32 | 0x33 => (List.range 8).map (112 + ·)
    | _ => []

/-- Another partition's command that could start now comes first for an engine that this one needs. -/
def State.outranked (s : State) (x : Cmd) (es : List Nat) : Bool :=
  s.cmds.any fun y => isWork y && decide (y.id.func ≠ x.id.func) && s.ready y &&
    es.any fun e => (s.needs y).contains e && s.grantBefore e y.id.p x.id.p

/-- An engine that a TENDER command has yielded goes back to it before another TENDER command has it (R356). -/
def State.owedBack (s : State) (x : Cmd) (e : Nat) : Bool := s.isTender x.id && s.yielded.any fun y => y.1 == e

/-- The engines a command needs are free, and it is first for them. -/
def State.granted (s : State) (x : Cmd) : Bool :=
  let es := s.needs x
  es.all (fun e => (keyGet s.holders e).isNone && !s.owedBack x e) && !s.outranked x es

/-- What a vector engine or a sector unit shows of the command that has it: RUN, the partition, and a sector unit the
exchange's direction (R122, R206). -/
def State.showHeld (s : State) (x : Cmd) (e : Nat) : State :=
  if 96 ≤ e ∧ e < 112 then s.veState (e - 96) 1 x.id.part
  else if 112 ≤ e ∧ e < 120 then
    s.setReg (suStatusOff (e - 112)) (BitVec.ofNat 64 (2 ^ 30 + x.id.p * 2 ^ 28 + (x.opcode - 0x30) * 2 ^ 26))
  else s

/-- The replay mark (R131): the commands since the latest one that carries it, up to 256. Those that a layer replay
re-issues stand among them already. -/
def State.markStart (s : State) (x : Cmd) : State :=
  if !isWork x || decide (x.opcode = 0x10) || x.layer then s
  else s.onJob x.id.p fun j =>
    if x.mark then { j with marked := [x.words], overLimit := false }
    else if j.marked.isEmpty then j
    else if 256 ≤ j.marked.length then { j with overLimit := true }
    else { j with marked := j.marked ++ [x.words] }

/-- The parameters of READ_REGS and STEP_REPORT are valid (R435); one that is refused for them does nothing, so it takes no
mailbox (R430). -/
def resultOk (x : Cmd) : Bool := if x.opcode = 0x01 then x.readRegsOk else unusedZero x 0

/-- A command starts: its engines, its mailbox (R447) and the replay mark. -/
def State.startCmd (s : State) (x : Cmd) : State :=
  let s := (s.needs x).foldl (fun (s : State) e =>
    ({ s with holders := keySet s.holders e x.id, grants := keySet s.grants e x.id.p } : State).showHeld x e) s
  let s := s.markStart x
  let s := s.onCmd x.id fun y => { y with phase := .started }
  let s := if x.opcode = 0x14 && s.compresses x then s.compBusy x 1 else s
  if resultOps.contains x.opcode && resultOk x then s.mboxClaim x.id x.mbox else s

/-- COMMAND_START (R429): a command whose mailbox another has taken meanwhile is refused. -/
def execCommandStart (c : CmdId) (s : State) : Host.Outcome State Fault Refusal :=
  .next (match s.cmd c with
    | none => s
    | some x =>
      if !s.ready x || !s.granted x then s
      else if !s.mailboxFree x then s.endCmd c stMailboxBusy
      else s.startCmd x)

/-- The engine number of a grant. -/
def engineIx : EngineId → Nat
  | .matrix e => e.val
  | .vector v => 96 + v.val
  | .sector n => 112 + n.val
  | .dma d => 120 + d.val
  | .channel c => 152 + c.val

/-- A PRIMARY command waits for an engine. -/
def State.primaryWaits (s : State) (e : Nat) : Bool :=
  s.cmds.any fun y => isWork y && s.ready y && !s.isTender y.id && (s.needs y).contains e

/-- PRIMARY work goes before TENDER work, each in its own order. -/
def State.primaryFirst {α : Type} (s : State) (f : α → CmdId) (l : List α) : List α :=
  l.filter (fun i => !s.isTender (f i)) ++ l.filter fun i => s.isTender (f i)

/-- Engines that TENDER commands have yielded go back to them once no PRIMARY command has them or waits for them (R356). -/
def State.resumeYielded (s : State) : State :=
  s.yielded.foldl (fun s (e, c) =>
    match s.cmd c with
    | some x =>
      if (keyGet s.holders e).isSome || s.primaryWaits e then s
      else ({ s with holders := keySet s.holders e c, yielded := s.yielded.filter (· != (e, c)) } : State).showHeld x e
    | none => s) s

/-- A matrix engine whose current chunk has drained goes from a TENDER command to a PRIMARY item that waits; the TENDER
command's items keep the engine, and the first goes on from the pass it had come to (R356). -/
def State.meYield (s : State) (e : Nat) : State :=
  let m := s.me e
  match m.queue, keyGet s.holders e with
  | i :: rest, some c =>
    if i.cmd != c || !s.isTender c || !(rest.any fun x => !s.isTender x.cmd) || !m.acc.isEmpty || m.asked != 0 ||
        m.waiting.isSome || m.fail.isSome || !m.ended.isEmpty || s.engineFaulted e then s
    else
      let s : State := { s with holders := keyDel s.holders e }
      (s.onMe e fun m => { MeState.idle with
        queue := { i with start := m.pass } :: rest, active := m.active, shadow := m.shadow }).meIdle e
  | _, _ => s

/-- YIELD_POINT (R356): after its chunk, segment, 128 KiB, selection or pack, an engine that a TENDER command holds goes to
the PRIMARY work that waits for it, and goes back when that has finished. -/
def execYieldPoint (eng : EngineId) (s : State) : Host.Outcome State Fault Refusal :=
  .next (match eng with
    | .matrix e => s.meYield e.val
    | .channel ch => (s.setGc ch.val (s.primaryFirst (·.cmd) (s.gc ch.val))).gcShow ch.val
    | _ =>
      let e := engineIx eng
      match keyGet s.holders e with
      | some c =>
        if s.isTender c && s.primaryWaits e && !s.engineFaulted e then
          { s with holders := keyDel s.holders e, yielded := s.yielded ++ [(e, c)] }
        else s
      | none => s.resumeYielded)

/-! ## Completing (R431, R432) -/

/-- The first word of a completion record (R431). -/
def State.completionWord (s : State) (x : Cmd) : Nat :=
  let part := decide (x.id.func ≠ 0)
  let b := fun (v : Bool) => if v then 1 else 0
  x.status + s.modState * 2 ^ 16 + (if part then s.jobState x.id.p else 0) * 2 ^ 20 + b (part && s.planOn x.id.p) * 2 ^ 23 +
    b x.replay * 2 ^ 24 + b x.dform * 2 ^ 25 + x.id.seq.toNat * 2 ^ 32

/-- Write eight bytes where the record lies: at a host address, or in the partition's gallery scratchpad. -/
def State.recordPut (s : State) (x : Cmd) (off v : Nat) : State :=
  let a := x.word 1 / 16 * 16 + off
  if !x.cmplLocal then s.hostWrite a (natLe 8 v)
  else if x.id.func = 0 ∨ (s.refusedGal x.id.p (a % 2 ^ 48) 8).isSome then s
  else s.poke (a % 2 ^ 48) 8 v

/-- The completion record: DETAIL first, the first word second. -/
def State.writeRecord (s : State) (x : Cmd) : State :=
  (s.recordPut x 8 x.detail.toNat).recordPut x 0 (s.completionWord x)

/-- A completed command leaves the module: the record, the vector, its mailbox when it failed, its engines (those in FAULT
are IDLE again, R63), and the test of its slots (R130, R432, R447). -/
def State.complete (s : State) (x : Cmd) : State :=
  let s := s.writeRecord x
  let s := if x.irq then s.msix x.id.func.val (s.fld (cmdRingCfgOff x.id.func.val x.id.ring.val) 10 0) else s
  let s := if resultOps.contains x.opcode ∧ x.status ≠ stOk ∧ s.mboxOwned x then s.mboxResult x.id x.mbox [] else s
  let s := s.releaseAll x.id
  let s := ({ s with cmds := s.cmds.filter fun y => y.id != x.id } : State).resumeYielded
  if isWork x && decide (x.status ≠ stAbandoned) then s.tripTest x else s

/-- COMMAND_COMPLETE (R432). -/
def execCommandComplete (c : CmdId) (s : State) : Host.Outcome State Fault Refusal :=
  .next (match s.cmd c with
    | some x => if x.phase = .ended then s.complete x else s
    | none => s)

/-! ## Module commands (R441) -/

/-- ENTER_READY (R441). -/
def execEnterReady (c : CmdId) (s : State) : Host.Outcome State Fault Refusal :=
  .next (match s.starting c 0x09 with
    | some x =>
      if !unusedZero x 0 then s.badPacket c
      else if s.modState = mStandby ∧ s.inP then (s.enterMod mReady).done c
      else s.endCmd c stState
    | none => s)

/-- ENTER_STANDBY (R441). -/
def execEnterStandby (c : CmdId) (s : State) : Host.Outcome State Fault Refusal :=
  .next (match s.starting c 0x0A with
    | some x =>
      if !unusedZero x 0 then s.badPacket c
      else if s.modState = mReady ∧ s.allClosed then (s.enterMod mStandby).done c
      else s.endCmd c stState
    | none => s)

end Sys2Proof.Machine
end

