-- ==== Sys2Proof/Machine/Mgmt.lean ====
section
/-! DEFINITION. Management over MCTP (R454, R455, R497) and SPDM attestation (R510 to R512). The bytes of an answer that a
published standard lays out are free values of what the spec says the answer holds (assumption 51). -/

namespace Sys2Proof.Machine

/-- A transport's number. -/
def tpIx (tp : Transport) : Nat := if tp = .pcie then 0 else 1

/-- An endpoint right after reset. -/
def Mgmt.empty : Mgmt := ⟨0, false, 0, 0, []⟩

/-- A transport's endpoint. -/
def State.endpoint (s : State) (tp : Transport) : Mgmt := tblGet (fun _ => Mgmt.empty) s.mgmt (tpIx tp)

/-- Change a transport's endpoint. -/
def State.onEndpoint (s : State) (tp : Transport) (f : Mgmt → Mgmt) : State :=
  { s with mgmt := tblSet (fun _ => Mgmt.empty) s.mgmt (tpIx tp) (f (s.endpoint tp)) }

/-- The endpoints answer: from STANDBY on, in PROTECT and FAULT (R454). -/
def State.mgmtUp (s : State) : Bool := decide (mStandby ≤ s.modState)

/-- The management controller's program runs; otherwise the boot ROM answers in its place (R497). -/
def State.mgmtRuns (s : State) : Bool := s.mgmtUp && s.boot.mgmt

/-- Answer a message of a type: the standard's framing of the request and of what the answer holds. -/
def State.answerMgmt (s : State) (tp : Transport) (ty : Nat) (request content : List Byte) : State :=
  s.emit (.mctp tp (Config.mgmtAnswer ty (request ++ content) s.out.length))

/-- The message types a message-type query reports (R454, R497). -/
def State.mgmtTypes (s : State) : List Byte := if s.mgmtRuns then [0x00, 0x01, 0x05, 0x7E] else [0x00, 0x7E]

/-- MCTP_CONTROL (R454, R497): endpoint discovery, EID assignment (DSP0236 command 1, the EID in the byte after the
operation: assumption 51), and the queries. -/
def execMctpControl (tp : Transport) (bytes : List Byte) (s : State) : Host.Outcome State Fault Refusal :=
  .next (if !s.mgmtUp then s
    else
      let s := if bytes.getD 2 0 = 1 then s.onEndpoint tp fun m => { m with eid := (bytes.getD 4 0).toNat } else s
      s.answerMgmt tp 0x00 bytes (s.mgmtTypes ++ natLe 1 (s.endpoint tp).eid))

/-- PLDM_REQUEST (R455): answered from the sensors and states; it never changes module or job state. The boot ROM
discards it (R497). -/
def execPldmRequest (tp : Transport) (bytes : List Byte) (s : State) : Host.Outcome State Fault Refusal :=
  .next (if s.mgmtRuns then
      s.answerMgmt tp 0x01 bytes (natLe 1 s.modState ++ ([0, 1, 2, 3].map s.jobState).flatMap (natLe 1))
    else s)

/-- The registers that the boot ROM's vendor-defined read reaches (R497). -/
def romRegs : List Nat := [modStateOff, bootStatusOff, bootFwRunOff, bootRollbackOff]

/-- A vendor-defined read of module-wide registers (R454), under the rules of READ_REGS (R448). -/
def State.vendorRegs (s : State) (off n : Nat) : List W64 × State :=
  s.readRegs (fun h => decide (h.desc.scope = .mod)) (Nat.min 31 n) (off / 8 * 8)

/-- VENDOR_MANAGEMENT_REQUEST (R454, R497): register reads and event subscription. -/
def execVendorManagementRequest (tp : Transport) (bytes : List Byte) (s : State) : Host.Outcome State Fault Refusal :=
  .next (if !s.mgmtUp then s
    else match Config.vendorRead bytes with
      | some (off, n) =>
        if s.mgmtRuns || romRegs.contains off then
          let (vs, s) := s.vendorRegs off n
          s.answerMgmt tp 0x7E bytes (vs.flatMap fun v => natLe 8 v.toNat)
        else s
      | none =>
        if !s.mgmtRuns then s
        else
          let s := match Config.vendorSubscribe bytes with
            | some on => s.onEndpoint tp fun m => { m with subscribed := on }
            | none => s
          s.answerMgmt tp 0x7E bytes [])

/-! ## SPDM (R511, R512) -/

/-- An SPDM ERROR message with its error code (SPDM 1.2: assumption 51). -/
def spdmError (code : Byte) : List Byte := [0x12, 0x7F, code, 0x00]

/-- Error code Busy (R511). -/
abbrev spdmBusy : Byte := 0x03#8
/-- Error code Unspecified (R510). -/
abbrev spdmUnspecified : Byte := 0x05#8
/-- Error code UnsupportedRequest (R511). -/
abbrev spdmUnsupported : Byte := 0x07#8

/-- Answer an SPDM request with what the answer holds, and with a signature over the transcript where it is signed: the
request and the answer join the transcript. -/
def State.spdmAnswer (s : State) (tp : Transport) (request content : List Byte) (sign : Option (List Byte)) : State :=
  let body := Config.mgmtAnswer 0x05 (request ++ content) s.out.length
  let t := (s.endpoint tp).transcript ++ request ++ body
  let sig := match sign with
    | some key => Config.attestSign key t
    | none => []
  (s.onEndpoint tp fun m => { m with transcript := t ++ sig }).emit (.mctp tp (body ++ sig))

/-- A signed answer, or ERROR Unspecified where the attestation key is not available (R510). -/
def State.spdmSigned (s : State) (tp : Transport) (request content : List Byte) (f : Mgmt → Mgmt) : State :=
  match s.boot.keyStore with
  | some key => (s.spdmAnswer tp request content (some key)).onEndpoint tp f
  | none => s.emit (.mctp tp (spdmError spdmUnspecified))

/-- The certificate chain of slot 0 (R499, R511). -/
def State.certChain (s : State) : List Byte :=
  match s.dmSection 7 with
  | some (o, n) => s.idRead o n
  | none => []

/-- An SPDM request where the responder runs (R454, R497). -/
def State.spdmIf (s : State) (f : State → State) : Host.Outcome State Fault Refusal := .next (if s.mgmtRuns then f s else s)

/-- GET_VERSION (R511): version 1.2 alone; the negotiation starts again. -/
def execGetVersion (tp : Transport) (bytes : List Byte) (s : State) : Host.Outcome State Fault Refusal :=
  s.spdmIf fun s =>
    (s.onEndpoint tp fun m => { m with stage := 1, session := 0, transcript := [] }).spdmAnswer tp bytes [0x12] none

/-- GET_CAPABILITIES (R511): CERT, CHAL, MEAS with signature, KEY_EX, ENCRYPT and MAC, and CTExponent 15. -/
def execGetCapabilities (tp : Transport) (bytes : List Byte) (s : State) : Host.Outcome State Fault Refusal :=
  s.spdmIf fun s => (s.onEndpoint tp fun m => { m with stage := Nat.max 2 m.stage }).spdmAnswer tp bytes [15] none

/-- NEGOTIATE_ALGORITHMS (R511). -/
def execNegotiateAlgorithms (tp : Transport) (bytes : List Byte) (s : State) : Host.Outcome State Fault Refusal :=
  s.spdmIf fun s => (s.onEndpoint tp fun m => { m with stage := 3 }).spdmAnswer tp bytes [] none

/-- GET_DIGESTS (R511): the digest of slot 0's chain. -/
def execGetDigests (tp : Transport) (bytes : List Byte) (s : State) : Host.Outcome State Fault Refusal :=
  s.spdmIf fun s => s.spdmAnswer tp bytes (sha512 s.certChain) none

/-- GET_CERTIFICATE (R511): slot 0's chain. -/
def execGetCertificate (tp : Transport) (bytes : List Byte) (s : State) : Host.Outcome State Fault Refusal :=
  s.spdmIf fun s => s.spdmAnswer tp bytes s.certChain none

/-- CHALLENGE (R510, R511): signed with the attestation key. -/
def execChallenge (tp : Transport) (bytes : List Byte) (s : State) : Host.Outcome State Fault Refusal :=
  s.spdmIf fun s => s.spdmSigned tp bytes (sha512 s.certChain) id

/-- A measurement block's index, value type and value (R512). -/
def measBlock (m : Nat × List Byte) : List Byte :=
  let ty := [0x00, 0x02, 0x01, 0x06, 0x07, 0x03].getD (m.1 - 1) 0
  natLe 1 m.1 ++ natLe 1 ty ++ natLe 2 m.2.length ++ m.2

/-- The blocks that a GET_MEASUREMENTS names in its second parameter: one by its index, or all with 0xFF. -/
def State.measFor (s : State) (i : Nat) : List Byte :=
  ((s.boot.meas.filter fun m => m.1 == i || i == 0xFF).map measBlock).flatten

/-- GET_MEASUREMENTS (R510, R512): signed when the request asks for it. -/
def execGetMeasurements (tp : Transport) (bytes : List Byte) (s : State) : Host.Outcome State Fault Refusal :=
  s.spdmIf fun s =>
    let content := s.measFor (bytes.getD 3 0).toNat
    if bitOf (bytes.getD 2 0).toNat 0 then s.spdmSigned tp bytes content id else s.spdmAnswer tp bytes content none

/-- KEY_EXCHANGE (R511): signed, and a session begins. -/
def execKeyExchange (tp : Transport) (bytes : List Byte) (s : State) : Host.Outcome State Fault Refusal :=
  s.spdmIf fun s => s.spdmSigned tp bytes [] fun m => { m with session := 1 }

/-- FINISH (R511): the session is established. -/
def execFinish (tp : Transport) (bytes : List Byte) (s : State) : Host.Outcome State Fault Refusal :=
  s.spdmIf fun s =>
    (s.onEndpoint tp fun m => { m with session := if m.session = 1 then 2 else m.session }).spdmAnswer tp bytes [] none

/-- END_SESSION (R511). -/
def execEndSession (tp : Transport) (bytes : List Byte) (s : State) : Host.Outcome State Fault Refusal :=
  s.spdmIf fun s => (s.spdmAnswer tp bytes [] none).onEndpoint tp fun m => { m with session := 0 }

/-- SPDM_UNSUPPORTED_REQUEST (R511): ERROR Busy while another request is in progress, else ERROR UnsupportedRequest. -/
def execSpdmUnsupportedRequest (tp : Transport) (bytes : List Byte) (busy : Bool) (s : State) :
    Host.Outcome State Fault Refusal :=
  s.spdmIf fun s => if bytes.isEmpty then s else s.emit (.mctp tp (spdmError (if busy then spdmBusy else spdmUnsupported)))

end Sys2Proof.Machine
end

