-- ==== Sys2Proof/Machine/MicroOps.lean ====
section
/-! DEFINITION. The micro-op rows: one meaning for each opcode of R106, on the lane that the vector engine
holds. -/

namespace Sys2Proof.Machine

/-- NOP of the micro-op set (R106). -/
def execVeNop (v : VeIx) (u : MicroOp) (s : State) : Host.Outcome State Fault Refusal :=
  .next (s.microOp v u opNop)

/-- LOAD (R104). -/
def execLoad (v : VeIx) (u : MicroOp) (s : State) : Host.Outcome State Fault Refusal :=
  .next (s.microOp v u opLoad)

/-- STORE (R104). -/
def execStore (v : VeIx) (u : MicroOp) (s : State) : Host.Outcome State Fault Refusal :=
  .next (s.microOp v u opStore)

/-- MOV (R106). -/
def execMov (v : VeIx) (u : MicroOp) (s : State) : Host.Outcome State Fault Refusal :=
  .next (s.microOp v u opMov)

/-- CONST (R106). -/
def execConst (v : VeIx) (u : MicroOp) (s : State) : Host.Outcome State Fault Refusal :=
  .next (s.microOp v u opConst)

/-- BCAST (R106). -/
def execBcast (v : VeIx) (u : MicroOp) (s : State) : Host.Outcome State Fault Refusal :=
  .next (s.microOp v u opBcast)

/-- IDX (R106). -/
def execIdx (v : VeIx) (u : MicroOp) (s : State) : Host.Outcome State Fault Refusal :=
  .next (s.microOp v u opIdx)

/-- ADD (R106). -/
def execAdd (v : VeIx) (u : MicroOp) (s : State) : Host.Outcome State Fault Refusal :=
  .next (s.microOp v u opAdd)

/-- SUB (R106). -/
def execSub (v : VeIx) (u : MicroOp) (s : State) : Host.Outcome State Fault Refusal :=
  .next (s.microOp v u opSub)

/-- MUL (R106). -/
def execMul (v : VeIx) (u : MicroOp) (s : State) : Host.Outcome State Fault Refusal :=
  .next (s.microOp v u opMul)

/-- DIV (R106). -/
def execDiv (v : VeIx) (u : MicroOp) (s : State) : Host.Outcome State Fault Refusal :=
  .next (s.microOp v u opDiv)

/-- FMA (R106). -/
def execFma (v : VeIx) (u : MicroOp) (s : State) : Host.Outcome State Fault Refusal :=
  .next (s.microOp v u opFma)

/-- FMS (R106). -/
def execFms (v : VeIx) (u : MicroOp) (s : State) : Host.Outcome State Fault Refusal :=
  .next (s.microOp v u opFms)

/-- FNMA (R106). -/
def execFnma (v : VeIx) (u : MicroOp) (s : State) : Host.Outcome State Fault Refusal :=
  .next (s.microOp v u opFnma)

/-- SQRT (R106). -/
def execSqrt (v : VeIx) (u : MicroOp) (s : State) : Host.Outcome State Fault Refusal :=
  .next (s.microOp v u opSqrt)

/-- RSQRT (R106). -/
def execRsqrt (v : VeIx) (u : MicroOp) (s : State) : Host.Outcome State Fault Refusal :=
  .next (s.microOp v u opRsqrt)

/-- ABS (R106). -/
def execAbs (v : VeIx) (u : MicroOp) (s : State) : Host.Outcome State Fault Refusal :=
  .next (s.microOp v u opAbs)

/-- NEG (R106). -/
def execNeg (v : VeIx) (u : MicroOp) (s : State) : Host.Outcome State Fault Refusal :=
  .next (s.microOp v u opNeg)

/-- COPYSIGN (R106). -/
def execCopysign (v : VeIx) (u : MicroOp) (s : State) : Host.Outcome State Fault Refusal :=
  .next (s.microOp v u opCopysign)

/-- MIN (R106). -/
def execMin (v : VeIx) (u : MicroOp) (s : State) : Host.Outcome State Fault Refusal :=
  .next (s.microOp v u opMin)

/-- MAX (R106). -/
def execMax (v : VeIx) (u : MicroOp) (s : State) : Host.Outcome State Fault Refusal :=
  .next (s.microOp v u opMax)

/-- MINNUM (R106). -/
def execMinnum (v : VeIx) (u : MicroOp) (s : State) : Host.Outcome State Fault Refusal :=
  .next (s.microOp v u opMinnum)

/-- MAXNUM (R106). -/
def execMaxnum (v : VeIx) (u : MicroOp) (s : State) : Host.Outcome State Fault Refusal :=
  .next (s.microOp v u opMaxnum)

/-- SCALEB (R106). -/
def execScaleb (v : VeIx) (u : MicroOp) (s : State) : Host.Outcome State Fault Refusal :=
  .next (s.microOp v u opScaleb)

/-- RINT (R106). -/
def execRint (v : VeIx) (u : MicroOp) (s : State) : Host.Outcome State Fault Refusal :=
  .next (s.microOp v u opRint)

/-- CMP (R108). -/
def execCmp (v : VeIx) (u : MicroOp) (s : State) : Host.Outcome State Fault Refusal :=
  .next (s.microOp v u opCmp)

/-- SEL (R106). -/
def execSel (v : VeIx) (u : MicroOp) (s : State) : Host.Outcome State Fault Refusal :=
  .next (s.microOp v u opSel)

/-- EXP (R107). -/
def execExp (v : VeIx) (u : MicroOp) (s : State) : Host.Outcome State Fault Refusal :=
  .next (s.microOp v u (opTrans .exp))

/-- EXP2 (R107). -/
def execExp2 (v : VeIx) (u : MicroOp) (s : State) : Host.Outcome State Fault Refusal :=
  .next (s.microOp v u (opTrans .exp2))

/-- LOG (R107). -/
def execLog (v : VeIx) (u : MicroOp) (s : State) : Host.Outcome State Fault Refusal :=
  .next (s.microOp v u (opTrans .log))

/-- LOG2 (R107). -/
def execLog2 (v : VeIx) (u : MicroOp) (s : State) : Host.Outcome State Fault Refusal :=
  .next (s.microOp v u (opTrans .log2))

/-- SIN (R107). -/
def execSin (v : VeIx) (u : MicroOp) (s : State) : Host.Outcome State Fault Refusal :=
  .next (s.microOp v u (opTrans .sin))

/-- COS (R107). -/
def execCos (v : VeIx) (u : MicroOp) (s : State) : Host.Outcome State Fault Refusal :=
  .next (s.microOp v u (opTrans .cos))

/-- TANH (R107). -/
def execTanh (v : VeIx) (u : MicroOp) (s : State) : Host.Outcome State Fault Refusal :=
  .next (s.microOp v u (opTrans .tanh))

/-- SIGMOID (R107). -/
def execSigmoid (v : VeIx) (u : MicroOp) (s : State) : Host.Outcome State Fault Refusal :=
  .next (s.microOp v u (opTrans .sigmoid))

/-- ERF (R107). -/
def execErf (v : VeIx) (u : MicroOp) (s : State) : Host.Outcome State Fault Refusal :=
  .next (s.microOp v u (opTrans .erf))

/-- IADD (R106). -/
def execIadd (v : VeIx) (u : MicroOp) (s : State) : Host.Outcome State Fault Refusal :=
  .next (s.microOp v u opIadd)

/-- ISUB (R106). -/
def execIsub (v : VeIx) (u : MicroOp) (s : State) : Host.Outcome State Fault Refusal :=
  .next (s.microOp v u opIsub)

/-- IMUL (R106). -/
def execImul (v : VeIx) (u : MicroOp) (s : State) : Host.Outcome State Fault Refusal :=
  .next (s.microOp v u opImul)

/-- AND (R106). -/
def execAnd (v : VeIx) (u : MicroOp) (s : State) : Host.Outcome State Fault Refusal :=
  .next (s.microOp v u opAnd)

/-- OR (R106). -/
def execOr (v : VeIx) (u : MicroOp) (s : State) : Host.Outcome State Fault Refusal :=
  .next (s.microOp v u opOr)

/-- XOR (R106). -/
def execXor (v : VeIx) (u : MicroOp) (s : State) : Host.Outcome State Fault Refusal :=
  .next (s.microOp v u opXor)

/-- SHL (R106). -/
def execShl (v : VeIx) (u : MicroOp) (s : State) : Host.Outcome State Fault Refusal :=
  .next (s.microOp v u opShl)

/-- SHR (R106). -/
def execShr (v : VeIx) (u : MicroOp) (s : State) : Host.Outcome State Fault Refusal :=
  .next (s.microOp v u opShr)

/-- SAR (R106). -/
def execSar (v : VeIx) (u : MicroOp) (s : State) : Host.Outcome State Fault Refusal :=
  .next (s.microOp v u opSar)

/-- CVT (R108). -/
def execCvt (v : VeIx) (u : MicroOp) (s : State) : Host.Outcome State Fault Refusal :=
  .next (s.microOp v u opCvt)

/-- RSUM (R110). -/
def execRsum (v : VeIx) (u : MicroOp) (s : State) : Host.Outcome State Fault Refusal :=
  .next (s.microOp v u (opReduce 0x38))

/-- RMAX (R110). -/
def execRmax (v : VeIx) (u : MicroOp) (s : State) : Host.Outcome State Fault Refusal :=
  .next (s.microOp v u (opReduce 0x39))

/-- RMIN (R110). -/
def execRmin (v : VeIx) (u : MicroOp) (s : State) : Host.Outcome State Fault Refusal :=
  .next (s.microOp v u (opReduce 0x3A))

/-- RSSQ (R110). -/
def execRssq (v : VeIx) (u : MicroOp) (s : State) : Host.Outcome State Fault Refusal :=
  .next (s.microOp v u (opReduce 0x3B))

/-- RMV (R110). -/
def execRmv (v : VeIx) (u : MicroOp) (s : State) : Host.Outcome State Fault Refusal :=
  .next (s.microOp v u (opReduce 0x3C))

/-- RSMX (R110). -/
def execRsmx (v : VeIx) (u : MicroOp) (s : State) : Host.Outcome State Fault Refusal :=
  .next (s.microOp v u (opReduce 0x3D))

end Sys2Proof.Machine
end

