-- ==== Sys2Proof/Machine/Power.lean ====
section
/-! DEFINITION. Power, clocks and cooling (R466 to R491): power states, the capping and thermal loops, droop, energy
attribution, the coolant stop, and the input range. -/

namespace Sys2Proof.Machine

/-- EV_POWER_STATE (R482). -/
abbrev evPowerState : Nat := 0x0600
/-- EV_POWER_BACKSTOP. -/
abbrev evPowerBackstop : Nat := 0x0601
/-- EV_THERMAL_THROTTLE. -/
abbrev evThermalThrottle : Nat := 0x0602
/-- EV_THERMAL_TRIP. -/
abbrev evThermalTrip : Nat := 0x0603
/-- EV_COOLANT_STOP. -/
abbrev evCoolantStop : Nat := 0x0604
/-- EV_ENERGY_CAL. -/
abbrev evEnergyCal : Nat := 0x0605
/-- EV_INPUT_RANGE. -/
abbrev evInputRange : Nat := 0x0606

/-- Change the power controller's record. -/
def State.onPower (s : State) (f : Power → Power) : State := { s with power := f s.power }

/-! ## Power states (R466 to R468) -/

/-- The power states that SET_POWER_STATE names (R435). -/
def powerCodes : List Nat := [0, 1, 2, 3, 8, 9]

/-- SET_POWER_STATE (R466): the change begins; one that finds another in progress waits for its end. -/
def execSetPowerState (c : CmdId) (s : State) : Host.Outcome State Fault Refusal :=
  .next (match s.starting c 0x0B with
    | none => s
    | some x =>
      if !powerCodes.contains (x.par 0) ∨ !unusedZero x 1 then s.badPacket c
      else if !s.legal x then s.endCmd c stState
      else if s.power.powerCmd.isSome then s
      else
        let s := (s.setFld pwrStateOff 7 4 (x.par 0)).setBit pwrStateOff 8
        (s.onPower fun w => { w with powerCmd := some c }).issued c 1)

/-- POWER_STATE_CHANGE_DONE (R466, R467): every island holds the new state's clock and voltage; in S2 every port is
DOWN. -/
def execPowerStateChangeDone (s : State) : Host.Outcome State Fault Refusal :=
  .next (match s.power.powerCmd with
    | none => s
    | some c =>
      let old := s.fld pwrStateOff 3 0
      let new := s.fld pwrStateOff 7 4
      let s := (s.setFld pwrStateOff 3 0 new).setFld pwrStateOff 8 8 0
      let s := s.onPower fun w => { w with powerCmd := none }
      let s := if new = 9 then
          (List.range 64).foldl (fun (s : State) p => (s.setPort p 0).onPort p fun _ => PortState.down) (s.portsDown 6)
        else s
      (s.raise evPowerState none old new).pieceDone c)

/-! ## The cap (R472) -/

/-- LIMIT (R484). -/
def State.capLimit (s : State) : Nat := Nat.min 4000 (s.fld pwrCapOff 63 48)
/-- GUARD. -/
def State.capGuard (s : State) : Nat := Nat.max 100 (s.fld pwrCapOff 37 28)
/-- UP. -/
def State.capUp (s : State) : Nat := Nat.max 1 (s.fld pwrCapOff 15 8)

/-- The new level L from the interval's input power and the sum of the last `n`, in mW (R472). -/
def State.capLevel (s : State) (p sum n : Nat) : Nat :=
  let l := s.fld pwrLevelOff 8 0
  let limit : Int := s.capLimit
  let target : Int := limit - s.capGuard
  if (limit - 25) * 1000 * n < (sum : Int) then 256
  else if target * 1000 < (p : Int) then Nat.min 256 (l + s.capUp)
  else if (p : Int) < (target - s.fld pwrCapOff 27 18) * 1000 then l - s.fld pwrCapOff 7 0
  else l

/-- An event that is raised at most once in 10 ms is due (R482). -/
def State.dueAt (s : State) (last : Option Nat) : Bool :=
  match last with
  | some t => decide (t + 10000000 ≤ (s.reg modTimeOff).toNat)
  | none => true

/-- PWR_RAIL from the interval's samples (R489). -/
def State.railsPut (s : State) (rails : List RailSample) : State :=
  (rails.take 36).zipIdx.foldl (fun s (r, i) => s.setReg (pwrRailOff i) (BitVec.ofNat 64
    (r.current10 % 2 ^ 16 + r.milliVolt % 2 ^ 16 * 2 ^ 16 + r.milliWatt % 2 ^ 32 * 2 ^ 32))) s

/-- The capping loop's update at the end of an interval (R472), under PWR_CAP as it stands then (R484; assumption 134). -/
def State.capStep (s : State) (p : Nat) : State :=
  let ins := (p :: s.power.inputs).take 100
  let sum := ins.foldl (· + ·) 0
  let n := ins.length
  let l := s.capLevel p sum n
  let a := sum / (1000 * n)
  let back := decide (((s.capLimit : Int) - 25) * 1000 * n < (sum : Int))
  let s := s.setFld pwrLevelOff 63 48 a
  let s := (s.setFld pwrLevelOff 47 32 (p / 1000)).setFld pwrLevelOff 8 0 l
  let s := s.onPower fun w => { w with inputs := ins }
  if back && s.dueAt s.power.backstopT then
    (s.onPower fun w => { w with backstopT := some (s.reg modTimeOff).toNat }).raise evPowerBackstop none a (p / 1000)
  else s

/-! ## Energy (R480, R481) -/

/-- The shares of an energy in proportion to counts, rounded down, and none where every count is 0. -/
def shares (e : Nat) (counts : List Nat) (total : Nat) : List Nat := counts.map fun c => if total = 0 then 0 else e * c / total

/-- Each partition's share of the interval's energy: by the model while it is in calibration (R480), else by each rail
group's counters (R481). -/
def State.energyShares (s : State) (x : CapSample) : List Nat :=
  if s.bit pwrCalOff 31 then
    x.railShares.foldl (fun (l : List Nat) r =>
      (List.range 4).map fun p =>
        l.getD p 0 + (shares r.2.2 r.2.1 (r.2.1.foldl (· + ·) 0)).getD p 0) [0, 0, 0, 0]
  else shares x.inputUj (x.estPart.take 4) ((x.estPart.take 4).foldl (· + ·) x.estStatic)

/-- Charge the interval's energy: the partitions, and the remainder to none, so that the counters sum to the measured
input energy (R480, R491). -/
def State.energyStep (s : State) (x : CapSample) : State :=
  let s := s.count pwrEInputOff x.inputUj
  let (s, left) := (s.energyShares x).zipIdx.foldl (fun (a : State × Nat) (e, p) =>
    let e := Nat.min e a.2
    (a.1.count (pwrEPartOff p) e, a.2 - e)) (s, x.inputUj)
  s.count pwrEUnattrOff left

/-- CAP_INTERVAL (R472): one 10 µs interval has ended. -/
def execCapInterval (sample : CapSample) (s : State) : Host.Outcome State Fault Refusal :=
  .next (if s.modState < mBoot then s
    else ((s.railsPut sample.rails).capStep ((sample.rails[35]?.map (·.milliWatt)).getD 0)).energyStep sample)

/-- The deviation of the estimate from the measured energy in 0.1 %, rounded towards zero; the largest value where
nothing was measured. -/
def deviation (est measured : Nat) : Int :=
  if measured = 0 then (if est = 0 then 0 else 32767)
  else max (-32768) (min 32767 ((((est : Int) - measured) * 1000).tdiv measured))

/-- CALIBRATION_CHECK (R481): ten comparisons outside TOL in a row end calibration, a hundred within restore it. -/
def execCalibrationCheck (estUj measuredUj : Nat) (s : State) : Host.Outcome State Fault Refusal :=
  .next (if s.modState < mBoot then s
    else
      let d := deviation estUj measuredUj
      let outside := decide (s.fld pwrCalOff 7 0 * measuredUj < ((estUj : Int) - measuredUj).natAbs * 1000)
      let s := s.setFld pwrCalOff 23 8 (d % 2 ^ 16).toNat
      let out := s.bit pwrCalOff 31
      let run := if outside != out then s.power.calRun + 1 else 0
      if run = (if out then 100 else 10) then
        ((s.onPower fun w => { w with calRun := 0 }).setFld pwrCalOff 31 31 (if out then 0 else 1)).raise evEnergyCal none
          (if out then 0 else 1) (d % 2 ^ 64).toNat
      else s.onPower fun w => { w with calRun := run })

/-! ## Droop (R475) -/

/-- DROOP_DETECT (R475): a stretch begins, and is counted. -/
def execDroopDetect (isl : Island) (s : State) : Host.Outcome State Fault Refusal :=
  .next (if s.modState < mBoot ∨ s.power.stretched.contains isl then s
    else (s.onPower fun w => { w with stretched := w.stretched ++ [isl] }).count pwrDroopsOff)

/-- DROOP_END (R475). -/
def execDroopEnd (isl : Island) (s : State) : Host.Outcome State Fault Refusal :=
  .next (s.onPower fun w => { w with stretched := w.stretched.filter (· != isl) })

/-! ## Stops (R477 to R479) -/

/-- Arithmetic stops (R479, from its second row on): every job enters FAULT, what is incomplete is abandoned, a power
state change is given up, and the module enters PROTECT. STANDBY stops too (R479; R441 does not list it). -/
def State.stopArith (s : State) : State :=
  if s.modState < mStandby ∨ s.modState = mProtect ∨ s.modState = mFault then s
  else
    let s := match s.power.powerCmd with
      | some c =>
        let s := (s.onPower fun w => { w with powerCmd := none }).endCmd c stAbandoned
        (s.setFld pwrStateOff 7 4 (s.fld pwrStateOff 3 0)).setFld pwrStateOff 8 8 0
      | none => s
    (s.enterMod mProtect).faultJobs

/-- COOLANT_STOP (R479, R495): COOLANT_OK has been low for 5 µs. In RESET and BOOT the boot finds it low. -/
def execCoolantStop (s : State) : Host.Outcome State Fault Refusal :=
  let s := { s with pins := { s.pins with coolantOk := false } }
  .next (if s.modState < mStandby ∨ s.modState = mProtect ∨ s.modState = mFault then s
    else
      let s := s.raise evCoolantStop none (s.reg modTimeOff).toNat 0
      ((s.setFld pwrLevelOff 8 0 256).setFld pwrLevelOff 24 16 256).stopArith)

/-- A sensor reads an HBM stack (R490). -/
def isStack (i : Nat) : Bool := decide (32 ≤ i) && decide (i < 48)

/-- A sensor's TRIP and throttle threshold in 0.1 °C (R487). -/
def State.limits (s : State) (i : Nat) : Int × Int :=
  if isStack i then (10 * s.fld pwrThermOff 15 8, 10 * s.fld pwrThermOff 7 0)
  else (10 * s.fld pwrThermOff 31 24, 10 * s.fld pwrThermOff 23 16)

/-- The hottest reading among those that a test accepts: its sensor and value; the lower number on a tie. -/
def hottest (l : List (Int × Nat)) (ok : Int → Nat → Bool) : Option (Int × Nat) :=
  (l.filter fun x => ok x.1 x.2).foldl (fun b x =>
    match b with
    | some y => if y.1 < x.1 then some x else b
    | none => some x) none

/-- The thermal trip (R477, R478): THERM_TRIP_N is asserted until RESET. -/
def State.thermalTrip (s : State) (t : Int) (i : Nat) : State :=
  let s := if s.bit modSidebandOff 17 then s
    else ((s.setBit modSidebandOff 17).emit (.thermTrip true)).raise evThermalTrip none i (t % 2 ^ 64).toNat
  s.stopArith

/-- The thermal level rises (R477). -/
def State.thermalUp (s : State) (t : Int) (i : Nat) : State :=
  let l := s.fld pwrLevelOff 24 16
  let s := s.setFld pwrLevelOff 24 16 (Nat.min 256 (l + 4))
  if l = 0 && s.dueAt s.power.thermalT then
    (s.onPower fun w => { w with thermalT := some (s.reg modTimeOff).toNat }).raise evThermalThrottle none i
      (t % 2 ^ 64).toNat
  else s

/-- THERMAL_READING (R477, R490): one reading of every sensor, in 0.1 °C. -/
def execThermalReading (temps : List Int) (s : State) : Host.Outcome State Fault Refusal :=
  .next (if s.modState < mBoot then s
    else
      let l := (temps.take 54).zipIdx
      let s := l.foldl (fun (s : State) x => s.setFld (pwrTempOff x.2) 15 0 (x.1 % 2 ^ 16).toNat) s
      match hottest l fun t i => decide ((s.limits i).1 ≤ t) with
      | some (t, i) => s.thermalTrip t i
      | none =>
        match hottest l fun t i => decide ((s.limits i).2 ≤ t) with
        | some (t, i) => s.thermalUp t i
        | none =>
          if l.all fun x => decide (x.1 + 30 ≤ (s.limits x.2).2) then
            s.setFld pwrLevelOff 24 16 (s.fld pwrLevelOff 24 16 - 1)
          else s)

/-- INPUT_RANGE_CHANGE (R482, R523): rail 35's voltage has left 50 V to 60 V for 100 µs, or has returned. -/
def execInputRangeChange (milliVolt : Nat) (out : Bool) (s : State) : Host.Outcome State Fault Refusal :=
  .next (if s.modState < mBoot ∨ s.power.inRange != out then s
    else (s.onPower fun w => { w with inRange := !out }).raise evInputRange none milliVolt (if out then 1 else 0))

/-- A write of PWR_THERM (R478): a TRIP above the daymark's maximum takes the maximum. -/
def State.thermWrite (s : State) (v : Nat) : State :=
  let die := Nat.min (bitsOf v 31 24) (s.dmTrip false true)
  let hbm := Nat.min (bitsOf v 15 8) (s.dmTrip true true)
  s.setReg pwrThermOff (BitVec.ofNat 64 (setBits (setBits (v % 2 ^ 32) 31 24 die) 15 8 hbm))

end Sys2Proof.Machine
end

