-- ==== Sys2Proof/Machine/Registers.lean ====
section
/-! DEFINITION. Writes of registers (R5, R419, R422 and the register tables of every chapter): what a write of each
register does beyond its fields' access codes, 32-bit and 64-bit accesses, and the meanings of the two rows that write
a register by its offset. -/

namespace Sys2Proof.Machine

/-- Index i of a register found. -/
def RegHit.ix (h : RegHit) (i : Nat) : Nat := h.ixs.getD i 0

/-- A write of CMD_RING_STATUS (R424, R426): the error bits, and STOPPED with SEQ_ERR. -/
def State.ringStatusWrite (s : State) (f r v : Nat) : State :=
  let s := if bitOf v 1 then s.setFld (cmdRingStatusOff f r) 1 1 0 else s
  if bitOf v 2 then s.seqErrClear f r else s

/-- A write of FAB_LL_CTRL (R337, R338, R352): MODE in STANDBY only; SWAP waits for the slot boundary; a class that is no longer
drained issues again. -/
def State.llCtrlWrite (s : State) (v : Nat) : State :=
  let s := (s.setFld fabLlCtrlOff 15 12 (bitsOf v 15 12)).setFld fabLlCtrlOff 2 2 (bitsOf v 2 2)
  let s := if s.modState = mStandby then s.setFld fabLlCtrlOff 3 3 (bitsOf v 3 3) else s
  let s := if bitOf v 1 then s.swapLists else s
  s.mcStart.pump

/-- A write of a patrol's period: 0 stops it (R260, R265, R268). -/
def State.scrubWrite (s : State) (h : RegHit) (off v : Nat) : State :=
  let s := s.writeFields h off v
  if v % 256 = 0 then s.setFld off 31 31 0 else s

/-- A write of a remap word (R267): VALID outside STANDBY is ignored. -/
def State.remapWrite (s : State) (h : RegHit) (off v : Nat) : State :=
  s.writeFields h off (if s.modState = mStandby then v else setBits v 31 31 (s.fld off 31 31))

/-- A write of GAL_POOL_CTRL (R235, R246): BROKEN and ERR clear, INIT starts. -/
def State.poolCtrlWrite (s : State) (h : RegHit) (off p q v : Nat) : State :=
  let s := s.writeFields h off (setBits v 0 0 0)
  if bitOf v 0 then s.poolInit p q else s

/-- A write of a register of a function page (R424, R425, R447, R453): its index, then the ring where it has one. -/
def State.pageWrite (s : State) (h : RegHit) (off v : Nat) : State :=
  let f := h.ix 0
  let r := h.ix 1
  let fn : Func := Fin.ofNat 5 f
  match h.desc.base with
  | 0x1000000 => if s.ringOn f r then s else s.writeFields h off v
  | 0x1000008 => s.ringWrite f r v
  | 0x1000018 => if s.ringOn f r && !s.ringStopped f r then s else s.writeFields h off v
  | 0x1000020 => s.ringStatusWrite f r v
  | 0x1000100 => if s.bit (cmdEvCfgOff f) 31 then s else s.writeFields h off v
  | 0x1000108 => s.evWrite f v
  | 0x1000110 => s.evHeadWrite f v
  | 0x1001000 => s.doorbell fn r v
  | 0x1003000 => s.mboxAck f v
  | 0x100800c => (s.writeFields h off v).msixRelease fn
  | _ => s.writeFields h off v

/-- A write of a register of a lantern (R93, R216, R235 to R246, R265 to R268). -/
def State.lanternWrite (s : State) (h : RegHit) (off v : Nat) : State :=
  let a := h.ix 0
  let b := h.ix 1
  match h.desc.base with
  | 0x430000 => s.regionWrite (.gallery (Fin.ofNat 8 a) (Fin.ofNat 12 b)) (BitVec.ofNat 32 v)
  | 0x441000 => s.regionWrite (.granule (Fin.ofNat 8 a) (Fin.ofNat 96 b)) (BitVec.ofNat 32 v)
  | 0x435008 => s.poolSetSize a b (h.ix 2) v
  | 0x435808 => s.poolCtrlWrite h off a b v
  | 0x435810 => s.poolRequest (Fin.ofNat 4 a) b (v % 4)
  | 0x435820 => s.poolFree (Fin.ofNat 4 a) b (v % 2 ^ 48)
  | 0x436040 | 0x443080 => s.scrubWrite h off v
  | 0x434000 | 0x442000 => s.rgWrite h off v
  | 0x444000 => s.remapWrite h off v
  | _ => s.writeFields h off v

/-- A write of a register of the fabric, power, boot or MOD block (R263, R290, R306, R346, R352, R353, R457, R478,
R507). -/
def State.moduleWrite (s : State) (h : RegHit) (off v : Nat) : State :=
  match h.desc.base with
  | 0x8 => if bitOf v 0 then s.enterReset false else s
  | 0x400 => s.chkWrite (BitVec.ofNat 32 v)
  | 0x200 | 0x240 | 0x206000 => s.rgWrite h off v
  | 0x30020 => s.thermWrite v
  | 0x40028 => s.updCtrlWrite v
  | 0x200028 => if s.modState = mStandby then s.writeFields h off v else s
  | 0x200050 => s.fabReopen (BitVec.ofNat 32 v)
  | 0x200310 => s.llCtrlWrite v
  | 0x200318 => s.nodeWrite (BitVec.ofNat 32 v)
  | 0x201000 => s.portWrite (h.ix 0) (BitVec.ofNat 32 v)
  | _ => s.writeFields h off v

/-- A write of a value to the register found at an offset. -/
def State.writeReg (s : State) (h : RegHit) (off v : Nat) : State :=
  if off < 0x400000 then s.moduleWrite h off v
  else if off < 0x1000000 then s.lanternWrite h off v
  else s.pageWrite h off v

/-- Write the register at an offset by an access of its own width, for a writer that passes the filter; any other
offset or width is ignored (R422). -/
def State.writeAt (s : State) (ok : RegHit → Bool) (wide : Bool) (off v : Nat) : State :=
  match regAt off with
  | none => s
  | some h => if ok h && (decide (h.desc.width = 64) == wide) then s.writeReg h off v else s

/-- A 64-bit write (R422): the 64-bit register at the offset, or the 32-bit registers of its two halves in ascending
offset; ignored where it is not aligned. -/
def State.write64 (s : State) (ok : RegHit → Bool) (off v : Nat) : State :=
  if off % 8 ≠ 0 then s
  else
    match regAt off with
    | some h =>
      if h.desc.width = 64 then s.writeAt ok true off v
      else (s.writeAt ok false off (v % 2 ^ 32)).writeAt ok false (off + 4) (v / 2 ^ 32)
    | none => s.writeAt ok false (off + 4) (v / 2 ^ 32)

/-- A host write at a BAR0 offset of a function (R419, R422). -/
def State.hostWriteReg (s : State) (by_ : Func) (off : Nat) (wide : Bool) (v : Nat) : State :=
  if !s.hostUp by_ then s
  else if wide then s.write64 (mayWrite by_) off v
  else s.writeAt (mayWrite by_) false off (v % 2 ^ 32)

/-- REGISTER_WRITE (R5, R422). -/
def execRegisterWrite (by_ : Func) (off : BitVec 26) (wide : Bool) (v : W64) (s : State) :
    Host.Outcome State Fault Refusal :=
  .next (s.hostWriteReg by_ off.toNat wide v.toNat)

/-- What REG_WRITE does once it is accepted: from a watched node only, to an offset in BAR0 (R407). -/
def State.regWriteIn (s : State) (pk : Packet) : Answer × State :=
  let off := leNat ((kcBody pk).take 8)
  if !s.watches pk.src.toNat then (.ofCode 1, s)
  else if pk.payload.length < 24 ∨ 2 ^ 26 ≤ off then (.ofCode 2, s)
  else (kcResult 0, s.write64 (fun _ => true) off (leNat (((kcBody pk).drop 8).take 8)))

/-- REG_WRITE (R407); a write of MOD_CTRL.RESET leaves no reply behind. -/
def execRegWrite (pk : Packet) (s : State) : Host.Outcome State Fault Refusal :=
  let t := s.kctlIn pk 0x12 State.regWriteIn
  .next (if t.modState = mReset ∧ s.modState ≠ mReset then s.enterReset false else t)

end Sys2Proof.Machine
end

