-- ==== Sys2Proof/Machine/Time.lean ====
section
/-! DEFINITION. Time: the pulse-per-second input (R537, R541, R542), and the nanosecond that passes while no command
waits (assumption 19): MOD_TIME, the regulators' buckets, and the counters of waiting time (R232, R362 to R364, R491). -/

namespace Sys2Proof.Machine

/-! ## The pulse-per-second input -/

/-- A second in nanoseconds. -/
def secondNs : Nat := 10 ^ 9

/-- The error of MOD_TIME at an edge: its distance from the nearest multiple of a second, signed (R537). -/
def ppsError (t : Nat) : Int :=
  let r := t % secondNs
  if 2 * r ≤ secondNs then (r : Int) else (r : Int) - (secondNs : Int)

/-- The first edge steps MOD_TIME forward to the next multiple of a second (R537). -/
def State.ppsStep (s : State) : State :=
  let t := (s.reg modTimeOff).toNat
  { s with timeSub := 0, ppsErr := 0 }.setReg modTimeOff (BitVec.ofNat 64 ((t + secondNs - 1) / secondNs * secondNs))

/-- A later edge records the error, which MOD_TIME then slews out (R537, R541). -/
def State.ppsRecord (s : State) : State :=
  let e := ppsError (s.reg modTimeOff).toNat
  { s with ppsErr := e * 1000000 }.setFld modPpsOff 63 32 (e % 2 ^ 32).toNat

/-- PPS_EDGE (R537, R541, R542). -/
def execPpsEdge (s : State) : Host.Outcome State Fault Refusal :=
  .next (if s.modState < mBoot then s
    else
      let s := s.count modPpsEdgesOff
      let s := if !s.bit modPpsOff 0 then s else if s.bit modPpsOff 16 then s.ppsRecord else s.ppsStep
      s.setBit modPpsOff 16)

/-- PPS_LOCK_LOSS (R537): no edge for 2 s; MOD_TIME runs from the fabric reference clock alone. -/
def execPpsLockLoss (s : State) : Host.Outcome State Fault Refusal :=
  .next ({ s with ppsErr := 0 }.setFld modPpsOff 16 16 0)

/-! ## One nanosecond -/

/-- By how much MOD_TIME slews in one nanosecond, in millionths, at most SLEW ppm (R537). -/
def State.slewNow (s : State) : Int :=
  let most : Int := Nat.max 1 (s.fld modPpsOff 15 8)
  if !s.bit modPpsOff 0 then 0 else max (-most) (min most s.ppsErr)

/-- MOD_TIME advances by a nanosecond, less what it slews. -/
def State.timeTick (s : State) : State :=
  let d := s.slewNow
  let t := s.timeSub + (1000000 - d).toNat
  { s with timeSub := t % 1000000, ppsErr := s.ppsErr - d }.count modTimeOff (t / 1000000)

/-- The commands of a partition that are not complete, oldest first. -/
def State.incomplete (s : State) (p : Nat) : List Cmd :=
  s.cmds.filter fun x => decide (x.id.func.val = p + 1) && decide (x.phase ≠ .ended)

/-- A command waits for an engine that another partition holds (R362). -/
def State.sharesOut (s : State) (x : Cmd) : Bool :=
  let other := fun e => match keyGet s.holders e with
    | some c => decide (c.func ≠ x.id.func)
    | none => false
  (s.ready x && (s.needs x).any other) ||
    s.mes.any fun m => (m.2.queue.any fun i => i.cmd == x.id) && other m.1

/-- A matrix engine works on an item of the command and meets a condition. -/
def State.meWaits (s : State) (c : CmdId) (f : MeState → Bool) : Bool :=
  s.mes.any fun m => (m.2.queue.head?.map (·.cmd)) == some c && f m.2

/-- The clock of an engine that has the command is stretched (R475). -/
def State.slowClock (s : State) (x : Cmd) : Bool :=
  s.holders.any fun h => h.2 == x.id && if h.1 < 96 then s.meStretched h.1 else decide (h.1 < 112) && s.veStretched (h.1 - 96)

/-- All of a command's engine work is withheld: the cause it is charged to, thermal throttling before the cap (R362, R471,
R474). -/
def State.holdCause (s : State) (x : Cmd) : List Nat :=
  if !engineOps.contains x.opcode || decide (s.withheld x < 64) then [] else if s.thermHeld x = 64 then [1] else [2]

/-- A packet of the command waits in an injection queue for its regulator's refill (R232). -/
def State.regWaits (s : State) (x : Cmd) : Bool :=
  s.fabric.injq.any fun (n, q) => q.any fun i =>
    (s.rgClass (.injection (Fin.ofNat 8 n)) i.pk.part.val i.pk.payload.length).isNone &&
      s.fabric.flying.any fun r => r.cmd == some x.id && r.pk.ctx == i.pk.ctx && r.pk.seq == i.pk.seq

/-- The command waits for records of a split reduction, or for a chain's predecessor (R116, R300). -/
def State.reduceWaits (s : State) (x : Cmd) : Bool :=
  (match s.splitOf x with
    | some d => s.splitWaits x.id d
    | none => false) ||
  [0, 1, 2, 3].any fun ch => match s.gc ch with
    | e :: _ => e.cmd == x.id && decide (0 < e.pos) && (s.gcArrival e).isNone
    | [] => false

/-- A read of the command from a peer is in flight. -/
def State.readsOut (s : State) (x : Cmd) : Bool :=
  s.fabric.flying.any fun r => r.cmd == some x.id && (decide (r.pk.op.toNat ≤ 1) || decide (r.pk.op = 0x06))

/-- An engine's next block is not loaded yet, and nothing of it is asked of a peer. -/
def MeState.unloaded (m : MeState) : Bool := m.shadow.isEmpty && m.waiting.isNone && m.asked == 0 && m.lines.isEmpty

/-- The causes of R362 that apply to a command that does not issue, by code. -/
def State.causes (s : State) (x : Cmd) : List Nat :=
  let p := x.id.p
  let on := fun (c : Nat) (b : Bool) => if b then [c] else []
  on 0 (s.slowClock x) ++ s.holdCause x ++
    on 3 (s.sharesOut x) ++ on 4 (s.regWaits x) ++ on 5 (s.meWaits x.id fun m => m.waiting.isSome) ++
    on 6 (s.exchs.any fun e => e.cmd == x.id && !e.missing.isEmpty) ++
    on 7 (s.reduceWaits x) ++
    on 8 (decide (x.opcode = 0x11) && decide (x.phase ≠ .consumed)) ++
    on 9 ((s.meWaits x.id fun m => decide (m.asked ≠ 0)) || s.readsOut x) ++
    on 10 (s.fabric.waiting.any fun r => r.cmd == some x.id) ++
    on 11 (s.meWaits x.id MeState.unloaded) ++
    on 13 (decide (x.phase = .consumed) && !(s.earlier x).isEmpty) ++
    on 14 (s.issueStopped p || ((s.job p).closing.map (·.cmd)) == some x.id)

/-- The cause to which a partition's stalled nanosecond is charged (R362, R364): the lowest that applies to its oldest
incomplete command, LOCAL_OPERAND where none of the others does; without one, HOST_PLAN or RING_EMPTY. -/
def State.waitCause (s : State) (p : Nat) : Nat :=
  match s.incomplete p with
  | x :: _ => (s.causes x).head?.getD 12
  | [] => if (s.job p).gate.isSome || (s.job p).closing.isSome || s.issueStopped p then 14 else 15

/-- The cause to which a held matrix engine's idle cycles are charged (R363): what withholds its issue, a version that it
waits for, a block that streams from a peer, a block not loaded yet, or its operands. -/
def State.idleCause (s : State) (e : Nat) (c : CmdId) : Nat :=
  let m := s.me e
  match ((s.cmd c).map s.holdCause).getD [] with
  | k :: _ => k
  | [] => if m.waiting.isSome then 5 else if m.asked ≠ 0 then 9 else if m.unloaded then 11 else 12

/-- The matrix engines' clock in MHz (R466); stopped in S1, S2 and PROTECT. -/
def State.meMhz (s : State) : Nat :=
  if s.modState = mProtect then 0
  else match s.fld pwrStateOff 3 0 with
    | 0 => 3300
    | 1 => 2800
    | 2 => 2200
    | 3 => 1400
    | _ => 0

/-- Charge a number of idle cycles of every matrix engine: to its holder's cause, or to no holder (R363). A stretched clock
makes every third of them the stretch's, rounded up (R362, R475). -/
def State.idleCycles (s : State) (n : Nat) : State :=
  let held := s.holders.filter fun h => decide (h.1 < 96)
  let s := held.foldl (fun s (e, c) =>
    let slow := if s.meStretched e then (n + 2) / 3 else 0
    (s.count (cmdIdleMeOff c.p 0) slow).count (cmdIdleMeOff c.p (s.idleCause e c)) (n - slow)) s
  s.count cmdUnheldOff (n * (96 - held.length))

/-- The matrix engines' cycles of one nanosecond, all idle. -/
def State.meTick (s : State) : State :=
  let t := s.meSub + s.meMhz
  { s with meSub := t % 1000 }.idleCycles (t / 1000)

/-- The counters of one nanosecond in which nothing issues (R363, R364). -/
def State.waitTick (s : State) : State :=
  if s.modState < mStandby then s
  else
    let s := s.meTick
    [0, 1, 2, 3].foldl (fun (s : State) p => s.count (cmdWaitOff p (s.waitCause p))) s

/-- The power controller's counters of one nanosecond (R491). -/
def State.levelTick (s : State) : State :=
  let s := if s.fld pwrLevelOff 8 0 ≠ 0 then s.count pwrCapNsOff else s
  if s.fld pwrLevelOff 24 16 ≠ 0 then s.count pwrThermNsOff else s

/-- A bit error strikes what byte parity covers (R248): where the line, the word or the half is there. -/
def State.strike (s : State) : Upset → State
  | .cached p a =>
    match s.cacheSlot p a with
    | none => s
    | some (key, l) =>
      let cs := s.cacheSet key
      match cs.way l with
      | some w => s.putCacheSet key { cs with bad := cs.bad ||| (1#16 <<< w) }
      | none => s
  | .tag g => s.setTag g { s.tagAt (g * 32768) with bad := true }
  | .acc e w =>
    if (s.me e).acc.length ≤ w ∨ ((s.me e).accBad.any fun x => x.1 == w) then s
    else s.onMe e fun m => { m with accBad := m.accBad ++ [(w, false)] }
  | .sendHalf c => s.onSend c fun h => { h with bad := true }
  | .recvHalf k =>
    match keyGet s.fabric.recv k with
    | some h => s.setRecv k { h with bad := true }
    | none => s
  | .network hit => { s with prot := { s.prot with net := s.prot.net ++ [hit] } }

/-- The error that the nanosecond brings, if it brings one (assumption 115). -/
def State.upsetTick (s : State) : State :=
  match Config.upset (s.reg modTimeOff).toNat with
  | some u => s.strike u
  | none => s

/-- One nanosecond in which no command waits: nothing in OFF and RESET (R440). -/
def State.tick (s : State) : State :=
  if s.modState < mBoot then s else s.timeTick.refill.levelTick.waitTick.resumeYielded.upsetTick

end Sys2Proof.Machine
end

