-- ==== Sys2Proof/Machine/Dispatch.lean ====
section
/-! DEFINITION. One arm for each command: a direct call of its meaning. -/

namespace Sys2Proof.Machine

open Sys2Proof

/-- The effect of a command on everything but the queue. -/
def exec (i : Instr) (s : State) : Host.Outcome State Fault Refusal :=
  match i with
  | .nop c => Sys2Proof.Machine.execNop c s
  | .readRegs c => Sys2Proof.Machine.execReadRegs c s
  | .stepReport c => Sys2Proof.Machine.execStepReport c s
  | .openJob c => Sys2Proof.Machine.execOpenJob c s
  | .closeJob c => Sys2Proof.Machine.execCloseJob c s
  | .holdJob c => Sys2Proof.Machine.execHoldJob c s
  | .releaseJob c => Sys2Proof.Machine.execReleaseJob c s
  | .keeperResume c => Sys2Proof.Machine.execKeeperResume c s
  | .replayStep c => Sys2Proof.Machine.execReplayStep c s
  | .enterReady c => Sys2Proof.Machine.execEnterReady c s
  | .enterStandby c => Sys2Proof.Machine.execEnterStandby c s
  | .setPowerState c => Sys2Proof.Machine.execSetPowerState c s
  | .powerStateChangeDone => Sys2Proof.Machine.execPowerStateChangeDone s
  | .stepPlan c => Sys2Proof.Machine.execStepPlan c s
  | .stepClose p => Sys2Proof.Machine.execStepClose p s
  | .waitFlag c => Sys2Proof.Machine.execWaitFlag c s
  | .waitFlagTest c => Sys2Proof.Machine.execWaitFlagTest c s
  | .flagTimeout c => Sys2Proof.Machine.execFlagTimeout c s
  | .signal c => Sys2Proof.Machine.execSignal c s
  | .dmaCopy c => Sys2Proof.Machine.execDmaCopy c s
  | .dmaConvert c => Sys2Proof.Machine.execDmaConvert c s
  | .runGrouped c => Sys2Proof.Machine.execRunGrouped c s
  | .passStart e => Sys2Proof.Machine.execPassStart e s
  | .versionRecheck e => Sys2Proof.Machine.execVersionRecheck e s
  | .versionTimeout e => Sys2Proof.Machine.execVersionTimeout e s
  | .tilelistJoin c rowBlock => Sys2Proof.Machine.execTilelistJoin c rowBlock s
  | .runVector c => Sys2Proof.Machine.execRunVector c s
  | .splitReduce c => Sys2Proof.Machine.execSplitReduce c s
  | .splitCollect c => Sys2Proof.Machine.execSplitCollect c s
  | .chainRecordArrival c index recs => Sys2Proof.Machine.execChainRecordArrival c index recs s
  | .splitTimeout c => Sys2Proof.Machine.execSplitTimeout c s
  | .loadWeights c => Sys2Proof.Machine.execLoadWeights c s
  | .deriveWorking c => Sys2Proof.Machine.execDeriveWorking c s
  | .reduceScatter c => Sys2Proof.Machine.execReduceScatter c s
  | .gradientChunk ch => Sys2Proof.Machine.execGradientChunk ch s
  | .gcChunkTimeout ch => Sys2Proof.Machine.execGcChunkTimeout ch s
  | .updateGate c => Sys2Proof.Machine.execUpdateGate c s
  | .updateShards c => Sys2Proof.Machine.execUpdateShards c s
  | .updateProgramStart c => Sys2Proof.Machine.execUpdateProgramStart c s
  | .mirrorConfig c => Sys2Proof.Machine.execMirrorConfig c s
  | .routeTokens c => Sys2Proof.Machine.execRouteTokens c s
  | .returnResults c => Sys2Proof.Machine.execReturnResults c s
  | .routeGradients c => Sys2Proof.Machine.execRouteGradients c s
  | .returnGradients c => Sys2Proof.Machine.execReturnGradients c s
  | .exchangePack c st => Sys2Proof.Machine.execExchangePack c st s
  | .combineResults c => Sys2Proof.Machine.execCombineResults c s
  | .sumGradients c => Sys2Proof.Machine.execSumGradients c s
  | .exchangeTimeout c => Sys2Proof.Machine.execExchangeTimeout c s
  | .doorbellWrite by_ page ring v => Sys2Proof.Machine.execDoorbellWrite by_ page ring v s
  | .ringFetch page ring => Sys2Proof.Machine.execRingFetch page ring s
  | .seqErrClear by_ page ring => Sys2Proof.Machine.execSeqErrClear by_ page ring s
  | .ringEnable by_ page ring v => Sys2Proof.Machine.execRingEnable by_ page ring v s
  | .commandStart c => Sys2Proof.Machine.execCommandStart c s
  | .commandComplete c => Sys2Proof.Machine.execCommandComplete c s
  | .layerReplay p => Sys2Proof.Machine.execLayerReplay p s
  | .mailboxAck by_ page v => Sys2Proof.Machine.execMailboxAck by_ page v s
  | .mailboxReadyRead by_ page b => Sys2Proof.Machine.execMailboxReadyRead by_ page b s
  | .eventRingEnable by_ page v => Sys2Proof.Machine.execEventRingEnable by_ page v s
  | .eventHeadWrite by_ page v => Sys2Proof.Machine.execEventHeadWrite by_ page v s
  | .moduleResetWrite by_ v => Sys2Proof.Machine.execModuleResetWrite by_ v s
  | .registerWrite by_ off wide v => Sys2Proof.Machine.execRegisterWrite by_ off wide v s
  | .bar2Read by_ off n => Sys2Proof.Machine.execBar2Read by_ off n s
  | .bar2Write by_ off bytes ep => Sys2Proof.Machine.execBar2Write by_ off bytes ep s
  | .functionLevelReset page => Sys2Proof.Machine.execFunctionLevelReset page s
  | .poolInit by_ p q => Sys2Proof.Machine.execPoolInit by_ p q s
  | .poolInitEnd p q => Sys2Proof.Machine.execPoolInitEnd p q s
  | .poolRequest by_ p q cls => Sys2Proof.Machine.execPoolRequest by_ p q cls s
  | .poolGrantRead by_ p q => Sys2Proof.Machine.execPoolGrantRead by_ p q s
  | .poolRelease by_ p q v => Sys2Proof.Machine.execPoolRelease by_ p q v s
  | .poolCountWrite by_ p q cls v => Sys2Proof.Machine.execPoolCountWrite by_ p q cls v s
  | .poolCountApply p q => Sys2Proof.Machine.execPoolCountApply p q s
  | .regionOwnershipWrite by_ r v => Sys2Proof.Machine.execRegionOwnershipWrite by_ r v s
  | .regionChangeApply r => Sys2Proof.Machine.execRegionChangeApply r s
  | .writeRaw by_ v => Sys2Proof.Machine.execWriteRaw by_ v s
  | .readRaw by_ v => Sys2Proof.Machine.execReadRaw by_ v s
  | .fabReopen by_ v => Sys2Proof.Machine.execFabReopen by_ v s
  | .lightListSwap by_ => Sys2Proof.Machine.execLightListSwap by_ s
  | .nodeNumberWrite by_ v => Sys2Proof.Machine.execNodeNumberWrite by_ v s
  | .portEnable by_ port v => Sys2Proof.Machine.execPortEnable by_ port v s
  | .portDisable by_ port v => Sys2Proof.Machine.execPortDisable by_ port v s
  | .portTrainAttempt port => Sys2Proof.Machine.execPortTrainAttempt port s
  | .portTrainingDone port charge => Sys2Proof.Machine.execPortTrainingDone port charge s
  | .portEnterUp port => Sys2Proof.Machine.execPortEnterUp port s
  | .portLossOfSignal port => Sys2Proof.Machine.execPortLossOfSignal port s
  | .portAlignLost port => Sys2Proof.Machine.execPortAlignLost port s
  | .portErrorLimit port => Sys2Proof.Machine.execPortErrorLimit port s
  | .routerSlot arr => Sys2Proof.Machine.execRouterSlot arr s
  | .forcedLinkFrame port => Sys2Proof.Machine.execForcedLinkFrame port s
  | .multicastForcedInject lan => Sys2Proof.Machine.execMulticastForcedInject lan s
  | .fabLoad pk => Sys2Proof.Machine.execFabLoad pk s
  | .fabLoadt pk => Sys2Proof.Machine.execFabLoadt pk s
  | .fabStore pk => Sys2Proof.Machine.execFabStore pk s
  | .vstore pk => Sys2Proof.Machine.execVstore pk s
  | .red pk => Sys2Proof.Machine.execRed pk s
  | .fetch pk => Sys2Proof.Machine.execFetch pk s
  | .mstore pk => Sys2Proof.Machine.execMstore pk s
  | .mvstore pk => Sys2Proof.Machine.execMvstore pk s
  | .mflush pk => Sys2Proof.Machine.execMflush pk s
  | .mflushShortTimeout src grp p => Sys2Proof.Machine.execMflushShortTimeout src grp p s
  | .xalloc pk => Sys2Proof.Machine.execXalloc pk s
  | .xcommit pk => Sys2Proof.Machine.execXcommit pk s
  | .gcommit pk => Sys2Proof.Machine.execGcommit pk s
  | .close pk => Sys2Proof.Machine.execClose pk s
  | .reservedOpArrival pk => Sys2Proof.Machine.execReservedOpArrival pk s
  | .loadReply pk => Sys2Proof.Machine.execLoadReply pk s
  | .fetchReply pk => Sys2Proof.Machine.execFetchReply pk s
  | .ack pk => Sys2Proof.Machine.execAck pk s
  | .xallocReply pk => Sys2Proof.Machine.execXallocReply pk s
  | .mflushReply pk => Sys2Proof.Machine.execMflushReply pk s
  | .resendTimeout rq => Sys2Proof.Machine.execResendTimeout rq s
  | .targetLostTimeout rq => Sys2Proof.Machine.execTargetLostTimeout rq s
  | .bounceBackoffExpiry rq => Sys2Proof.Machine.execBounceBackoffExpiry rq s
  | .bounceLimitExpiry rq => Sys2Proof.Machine.execBounceLimitExpiry rq s
  | .sendHalfIdleClose ctx => Sys2Proof.Machine.execSendHalfIdleClose ctx s
  | .gcommitHoldTimeout p shard step chunk => Sys2Proof.Machine.execGcommitHoldTimeout p shard step chunk s
  | .xallocBufferTimeout p buf => Sys2Proof.Machine.execXallocBufferTimeout p buf s
  | .regulatorGrant res pending => Sys2Proof.Machine.execRegulatorGrant res pending s
  | .patrolRead u => Sys2Proof.Machine.execPatrolRead u s
  | .supplyOn => Sys2Proof.Machine.execSupplyOn s
  | .supplyLoss => Sys2Proof.Machine.execSupplyLoss s
  | .overvoltageShutdown => Sys2Proof.Machine.execOvervoltageShutdown s
  | .inputRangeChange milliVolt out => Sys2Proof.Machine.execInputRangeChange milliVolt out s
  | .perstAssert => Sys2Proof.Machine.execPerstAssert s
  | .perstDeassert fingerprint => Sys2Proof.Machine.execPerstDeassert fingerprint s
  | .bootComplete trained => Sys2Proof.Machine.execBootComplete trained s
  | .coolantStop => Sys2Proof.Machine.execCoolantStop s
  | .ppsEdge => Sys2Proof.Machine.execPpsEdge s
  | .ppsLockLoss => Sys2Proof.Machine.execPpsLockLoss s
  | .droopDetect isl => Sys2Proof.Machine.execDroopDetect isl s
  | .droopEnd isl => Sys2Proof.Machine.execDroopEnd isl s
  | .capInterval sample => Sys2Proof.Machine.execCapInterval sample s
  | .calibrationCheck estUj measuredUj => Sys2Proof.Machine.execCalibrationCheck estUj measuredUj s
  | .thermalReading temps => Sys2Proof.Machine.execThermalReading temps s
  | .heartbeatSend => Sys2Proof.Machine.execHeartbeatSend s
  | .heartbeatMiss node => Sys2Proof.Machine.execHeartbeatMiss node s
  | .probeTimeout node => Sys2Proof.Machine.execProbeTimeout node s
  | .targetLostNotice p node => Sys2Proof.Machine.execTargetLostNotice p node s
  | .keeperFaultNotice p notice => Sys2Proof.Machine.execKeeperFaultNotice p notice s
  | .heartbeat pk => Sys2Proof.Machine.execHeartbeat pk s
  | .suspect pk => Sys2Proof.Machine.execSuspect pk s
  | .probe pk => Sys2Proof.Machine.execProbe pk s
  | .probeRelay pk => Sys2Proof.Machine.execProbeRelay pk s
  | .hold pk => Sys2Proof.Machine.execHold pk s
  | .holdComplete p => Sys2Proof.Machine.execHoldComplete p s
  | .heldAck pk => Sys2Proof.Machine.execHeldAck pk s
  | .take pk => Sys2Proof.Machine.execTake pk s
  | .ringReset pk => Sys2Proof.Machine.execRingReset pk s
  | .spareReady pk => Sys2Proof.Machine.execSpareReady pk s
  | .spareJoinTimeout p => Sys2Proof.Machine.execSpareJoinTimeout p s
  | .resumeTimeout p => Sys2Proof.Machine.execResumeTimeout p s
  | .replay pk => Sys2Proof.Machine.execReplay pk s
  | .mirCommit pk => Sys2Proof.Machine.execMirCommit pk s
  | .mirStep pk => Sys2Proof.Machine.execMirStep pk s
  | .mirRestore pk => Sys2Proof.Machine.execMirRestore pk s
  | .kctlReply pk => Sys2Proof.Machine.execKctlReply pk s
  | .slowTime pk => Sys2Proof.Machine.execSlowTime pk s
  | .retire pk => Sys2Proof.Machine.execRetire pk s
  | .retireModule p => Sys2Proof.Machine.execRetireModule p s
  | .abort pk => Sys2Proof.Machine.execAbort pk s
  | .regRead pk => Sys2Proof.Machine.execRegRead pk s
  | .regWrite pk => Sys2Proof.Machine.execRegWrite pk s
  | .fwUpdateStart by_ => Sys2Proof.Machine.execFwUpdateStart by_ s
  | .fwUpdateEnd flashOk => Sys2Proof.Machine.execFwUpdateEnd flashOk s
  | .raise by_ v => Sys2Proof.Machine.execRaise by_ v s
  | .daymarkDataRead by_ => Sys2Proof.Machine.execDaymarkDataRead by_ s
  | .mctpControl tp bytes => Sys2Proof.Machine.execMctpControl tp bytes s
  | .pldmRequest tp bytes => Sys2Proof.Machine.execPldmRequest tp bytes s
  | .vendorManagementRequest tp bytes => Sys2Proof.Machine.execVendorManagementRequest tp bytes s
  | .getVersion tp bytes => Sys2Proof.Machine.execGetVersion tp bytes s
  | .getCapabilities tp bytes => Sys2Proof.Machine.execGetCapabilities tp bytes s
  | .negotiateAlgorithms tp bytes => Sys2Proof.Machine.execNegotiateAlgorithms tp bytes s
  | .getDigests tp bytes => Sys2Proof.Machine.execGetDigests tp bytes s
  | .getCertificate tp bytes => Sys2Proof.Machine.execGetCertificate tp bytes s
  | .challenge tp bytes => Sys2Proof.Machine.execChallenge tp bytes s
  | .getMeasurements tp bytes => Sys2Proof.Machine.execGetMeasurements tp bytes s
  | .keyExchange tp bytes => Sys2Proof.Machine.execKeyExchange tp bytes s
  | .finish tp bytes => Sys2Proof.Machine.execFinish tp bytes s
  | .endSession tp bytes => Sys2Proof.Machine.execEndSession tp bytes s
  | .spdmUnsupportedRequest tp bytes busy => Sys2Proof.Machine.execSpdmUnsupportedRequest tp bytes busy s
  | .veNop v u => Sys2Proof.Machine.execVeNop v u s
  | .load v u => Sys2Proof.Machine.execLoad v u s
  | .store v u => Sys2Proof.Machine.execStore v u s
  | .mov v u => Sys2Proof.Machine.execMov v u s
  | .const v u => Sys2Proof.Machine.execConst v u s
  | .bcast v u => Sys2Proof.Machine.execBcast v u s
  | .idx v u => Sys2Proof.Machine.execIdx v u s
  | .add v u => Sys2Proof.Machine.execAdd v u s
  | .sub v u => Sys2Proof.Machine.execSub v u s
  | .mul v u => Sys2Proof.Machine.execMul v u s
  | .div v u => Sys2Proof.Machine.execDiv v u s
  | .fma v u => Sys2Proof.Machine.execFma v u s
  | .fms v u => Sys2Proof.Machine.execFms v u s
  | .fnma v u => Sys2Proof.Machine.execFnma v u s
  | .sqrt v u => Sys2Proof.Machine.execSqrt v u s
  | .rsqrt v u => Sys2Proof.Machine.execRsqrt v u s
  | .abs v u => Sys2Proof.Machine.execAbs v u s
  | .neg v u => Sys2Proof.Machine.execNeg v u s
  | .copysign v u => Sys2Proof.Machine.execCopysign v u s
  | .min v u => Sys2Proof.Machine.execMin v u s
  | .max v u => Sys2Proof.Machine.execMax v u s
  | .minnum v u => Sys2Proof.Machine.execMinnum v u s
  | .maxnum v u => Sys2Proof.Machine.execMaxnum v u s
  | .scaleb v u => Sys2Proof.Machine.execScaleb v u s
  | .rint v u => Sys2Proof.Machine.execRint v u s
  | .cmp v u => Sys2Proof.Machine.execCmp v u s
  | .sel v u => Sys2Proof.Machine.execSel v u s
  | .exp v u => Sys2Proof.Machine.execExp v u s
  | .exp2 v u => Sys2Proof.Machine.execExp2 v u s
  | .log v u => Sys2Proof.Machine.execLog v u s
  | .log2 v u => Sys2Proof.Machine.execLog2 v u s
  | .sin v u => Sys2Proof.Machine.execSin v u s
  | .cos v u => Sys2Proof.Machine.execCos v u s
  | .tanh v u => Sys2Proof.Machine.execTanh v u s
  | .sigmoid v u => Sys2Proof.Machine.execSigmoid v u s
  | .erf v u => Sys2Proof.Machine.execErf v u s
  | .iadd v u => Sys2Proof.Machine.execIadd v u s
  | .isub v u => Sys2Proof.Machine.execIsub v u s
  | .imul v u => Sys2Proof.Machine.execImul v u s
  | .and v u => Sys2Proof.Machine.execAnd v u s
  | .or v u => Sys2Proof.Machine.execOr v u s
  | .xor v u => Sys2Proof.Machine.execXor v u s
  | .shl v u => Sys2Proof.Machine.execShl v u s
  | .shr v u => Sys2Proof.Machine.execShr v u s
  | .sar v u => Sys2Proof.Machine.execSar v u s
  | .cvt v u => Sys2Proof.Machine.execCvt v u s
  | .rsum v u => Sys2Proof.Machine.execRsum v u s
  | .rmax v u => Sys2Proof.Machine.execRmax v u s
  | .rmin v u => Sys2Proof.Machine.execRmin v u s
  | .rssq v u => Sys2Proof.Machine.execRssq v u s
  | .rmv v u => Sys2Proof.Machine.execRmv v u s
  | .rsmx v u => Sys2Proof.Machine.execRsmx v u s
  | .resetMinimumElapsed => Sys2Proof.Machine.execResetMinimumElapsed s
  | .internalFault => Sys2Proof.Machine.execInternalFault s
  | .poolFreeRead by_ p q cls => Sys2Proof.Machine.execPoolFreeRead by_ p q cls s
  | .configurationRequest w => Sys2Proof.Machine.execConfigurationRequest w s
  | .takeoverLightListSwap p => Sys2Proof.Machine.execTakeoverLightListSwap p s
  | .yieldPoint eng => Sys2Proof.Machine.execYieldPoint eng s

end Sys2Proof.Machine
end

