-- ==== Sys2Proof/Safety.lean ====
section
/-! DEFINITION. What a safe run is, and the words in which the statements say what a command leaves as it was. -/

namespace Sys2Proof.Machine

/-- One step ends in a next state: the block neither faults nor refuses. -/
def State.goesOn (s : State) : Prop := ∃ t, step s = .next t

/-- A run of `n` steps from a state that meets no fault and no refusal. -/
def State.runsSafely : Nat → State → Prop
  | 0, _ => True
  | n + 1, s => ∃ t, step s = .next t ∧ State.runsSafely n t

/-- Every register but those listed reads as before. -/
def SameRegs (s t : State) (but : List Nat) : Prop := ∀ o, o ∉ but → t.reg o = s.reg o

/-- The registers that delivering an event may change: TAIL and LOST of an event ring, and the MSI-X pending bits
(R417, R451). -/
def eventReg (o : Nat) : Prop := ∃ f, o = cmdEvTailOff f ∨ o = cmdEvLostOff f ∨ f < 5 ∧ ∃ i, i < 7 ∧ o = msixPbaOff f i

/-- Every register but those listed and those of event delivery reads as before. -/
def SameRegsEv (s t : State) (but : List Nat) : Prop := ∀ o, o ∉ but → ¬ eventReg o → t.reg o = s.reg o

/-- Stored data, its check bits and its version tags are as before: every byte of memory reads as it did. -/
def SameMemory (s t : State) : Prop := t.mem = s.mem

/-- A byte of memory as it is stored. -/
def State.byteAt (s : State) (a : Nat) : Byte := tblGet memDefault s.mem.cells a

/-- The command has ended with a status and DETAIL, and waits to complete (R432). -/
def Ended (t : State) (c : CmdId) (status : Nat) (detail : W64) : Prop :=
  ∃ x, t.cmd c = some x ∧ x.phase = .ended ∧ x.status = status ∧ x.detail = detail

/-- Every other command is as before. -/
def SameCmds (s t : State) (c : CmdId) : Prop := ∀ d, d ≠ c → t.cmd d = s.cmd d

/-- The lane of vector engine `v` is ready for an op with these sources: it has not stopped, and none of them carries a
poison mark (R112). -/
def LaneReady (s : State) (v : VeIx) (srcs : List (Fin 16)) : Prop :=
  (s.lane v.val).stopped = false ∧ ∀ i ∈ srcs, keyGet (s.lane v.val).marks i.val = none

/-- What a micro-op leaves as it was. Beside the lane of its engine it changes only VE_STATUS of the engine and, for the
flags it raises, VE_FLAGS (R97, R120); in the lane, register `d` with its mark, the flags, and the list position. -/
structure LaneFrame (s t : State) (v : VeIx) (d : Option (Fin 16)) (fl : Flags) : Prop where
  rest : t = { s with lanes := t.lanes, regs := t.regs }
  regs : SameRegs s t [veStatusOff (v.val / 2) (v.val % 2), veFlagsOff (v.val / 2) (s.lane v.val).part.val]
  seen : t.reg (veFlagsOff (v.val / 2) (s.lane v.val).part.val) =
    s.reg (veFlagsOff (v.val / 2) (s.lane v.val).part.val) ||| fl.setWidth 64
  lanes : ∀ w, w ≠ v.val → t.lane w = s.lane w
  lane : t.lane v.val = { s.lane v.val with
    regs := (t.lane v.val).regs, marks := (t.lane v.val).marks, flags := (s.lane v.val).flags ||| fl,
    opIx := (s.lane v.val).opIx + 1 }
  kept : ∀ j : Fin 16, some j ≠ d → (t.lane v.val).reg j.val = (s.lane v.val).reg j.val ∧
    keyGet (t.lane v.val).marks j.val = keyGet (s.lane v.val).marks j.val

/-- A micro-op runs on the lane of engine `v`, writes `x` without a mark to register `d`, raises `fl`, and changes
nothing else. -/
def MicroWrites (i : Instr) (s : State) (v : VeIx) (d : Fin 16) (x : W64) (fl : Flags) : Prop :=
  ∃ t, exec i s = .next t ∧ LaneFrame s t v (some d) fl ∧ (t.lane v.val).reg d.val = x ∧
    keyGet (t.lane v.val).marks d.val = none

/-- The 64-bit register that holds a code of a format: 32-bit codes with bits [63:32] clear (R103). -/
def regOf (f : Fmt) (code : Nat) : W64 := (BitVec.ofNat f.bits code).setWidth 64

/-- A micro-op runs on the lane of engine `v`, writes the exact value `x` rounded once by R28 into the format of T under
the op's rounding mode to register `d`, raises the flags of that rounding and those of the operation itself, and
changes nothing else (R96, R97). -/
def MicroRounds (i : Instr) (s : State) (v : VeIx) (u : MicroOp) (x : FVal) (fl : Flags) : Prop :=
  let l := s.lane v.val
  let m := l.mode u
  let c := roundTo (fpOf u.t) x m (s.laneR l m)
  MicroWrites i s v u.d (regOf (fpOf u.t) c.1) (fl ||| c.2)

/-- No error waits on the on-package network, and no transfer has lost its header (R254). -/
def State.calm (s : State) : Prop := s.prot.net = [] ∧ s.prot.netLost = false

/-- No line of `[a, a + n)` that the partition's cache holds fails its parity (R253). -/
def State.linesGood (s : State) (p a n : Nat) : Prop :=
  ∀ i, i < n → ∀ key l w, s.cacheSlot p (a + i) = some (key, l) → (s.cacheSet key).way l = some w →
    (s.cacheSet key).bad.getLsbD w = false

/-- What a source register of a micro-op of floating-point type T decodes to (R16, R103). -/
def srcVal (s : State) (v : VeIx) (u : MicroOp) (i : Fin 16) : FVal :=
  (fpOf u.t).decode ((s.lane v.val).src u.t.toNat i.val)

/-- As `MicroWrites`, with the poison mark `m` on register `d`. -/
def MicroMoves (i : Instr) (s : State) (v : VeIx) (d : Fin 16) (x : W64) (m : Option Nat) : Prop :=
  ∃ t, exec i s = .next t ∧ LaneFrame s t v (some d) 0 ∧ (t.lane v.val).reg d.val = x ∧
    keyGet (t.lane v.val).marks d.val = m

/-- A byte of memory as a read delivers it, with its poison mark (R256). -/
def State.byteRead (s : State) (a : Nat) : List PByte := (s.readMem a 1).1

/-- The sectors that hold `[a, a + n)` carry correct check bits and no poison. -/
def State.cleanAt (s : State) (a n : Nat) : Prop :=
  ∀ k, a / 32 ≤ k → k ≤ (a + n - 1) / 32 → s.mem.meta (s.physSector k) = SectorMeta.clean

/-- Every byte of memory outside `[a, a + n)` reads as before. -/
def SameBytesBut (s t : State) (a n : Nat) : Prop :=
  ∀ x, x < 2 ^ 48 → (x < a ∨ a + n ≤ x) → plain (t.byteRead x) = plain (s.byteRead x)

/-- The local offset of the element that a stream gives the lane (R101). -/
def State.elemAddr (s : State) (v : VeIx) (u : MicroOp) : Nat :=
  let l := s.lane v.val
  let st := l.hdr.streamAt u.s.val
  st.ptr.toNat % 2 ^ 48 + l.segm * st.stride + l.pos * st.format.bytes

/-! ## Commands of the rings -/

/-- The command has started and carries this opcode, so that its row acts (R429, R435); the on-package network is without
error (R254). -/
def Begun (s : State) (c : CmdId) (op : Nat) (x : Cmd) : Prop :=
  s.cmd c = some x ∧ x.phase = .started ∧ x.opcode = op ∧ s.calm

/-- Every parameter word from `n` on is 0 (R435). -/
def ZeroFrom (x : Cmd) (n : Nat) : Prop := ∀ i, n ≤ i → i < 6 → x.par i = 0

/-- The command has issued its work, of which `n` pieces are outstanding. -/
def Waits (t : State) (c : CmdId) (n : Nat) : Prop := ∃ x, t.cmd c = some x ∧ x.phase = .issued ∧ x.pending = n

/-- A command that has just started: nothing of it is outstanding, has failed or is reported. -/
def Fresh (x : Cmd) : Prop := x.pending = 0 ∧ x.fails = [] ∧ x.status = 0 ∧ x.detail = 0

/-- The row of the command has done its work or issued it: the command is no longer merely started. -/
def Acted (t : State) (c : CmdId) : Prop := ∃ x, t.cmd c = some x ∧ x.phase ≠ .started ∧ x.phase ≠ .consumed

/-- Nothing but registers differs. -/
def OnlyRegs (s t : State) : Prop := t = { s with regs := t.regs }

/-- Nothing but the commands that the module holds differs. -/
def OnlyCmds (s t : State) : Prop := t = { s with cmds := t.cmds }

/-- Nothing differs but registers and what delivering events writes: host memory, messages that leave, the functions'
records, and the events held back (R417, R451, R513). -/
def OnlyEvents (s t : State) : Prop :=
  t = { s with regs := t.regs, hostMem := t.hostMem, out := t.out, funcs := t.funcs, heldEv := t.heldEv,
               heldLost := t.heldLost }

/-- As `OnlyEvents`, and the commands. -/
def OnlyEventsCmds (s t : State) : Prop :=
  t = { s with regs := t.regs, hostMem := t.hostMem, out := t.out, funcs := t.funcs, heldEv := t.heldEv,
               heldLost := t.heldLost, cmds := t.cmds }

/-- As `OnlyEventsCmds`, and the partitions' job records. -/
def OnlyEventsJobs (s t : State) : Prop :=
  t = { s with regs := t.regs, hostMem := t.hostMem, out := t.out, funcs := t.funcs, heldEv := t.heldEv,
               heldLost := t.heldLost, cmds := t.cmds, jobs := t.jobs }

/-- The event of these contents is raised, and no other: while the PF's ring has not been enabled it is held back, behind
those held already (R450, R513). -/
def Announces (s t : State) (code : Nat) (p : Option Part) (a0 a1 : W64) : Prop :=
  s.evOpen = false → s.heldEv.length < 8 → t.heldEv = s.heldEv ++ [⟨code, p, s.stepOf p, s.reg modTimeOff, a0, a1⟩]

/-- The registers of mailbox `b` of a function: the ready word and the data (R446). -/
def mailboxRegs (f b : Nat) : List Nat := cmdMboxOff f b :: (List.range 31).map (cmdMboxDataOff f b)

/-- A 64-bit register that the function reads, and whose read has no effect. -/
def PlainReg (f : Func) (off : Nat) : Prop :=
  ∃ h, regAt off = some h ∧ h.desc.width = 64 ∧ mayRead f h = true ∧ h.desc.rcMask = 0 ∧ h.desc.base ≠ 0x1002000 ∧
    h.desc.base ≠ 0x435010 ∧ off ≠ bootDmDataOff

/-! ## The fabric -/

/-- The receive half that a request meets, its window moved on to a newer sequence (R279, R281). -/
def State.halfFor (s : State) (pk : Packet) : RecvHalf :=
  match keyGet s.fabric.recv (recvKey pk) with
  | none => ⟨if pk.seq.toNat < 64 then 0 else pk.seq, pk.seq, 0, [], false, [], [], false⟩
  | some h =>
    let d := (pk.seq - h.top).toNat
    if 0 < d ∧ d < 2 ^ 23 then { h with top := pk.seq, map := if d < 64 then h.map <<< d else 0 } else h

/-- A unicast request with this operation code arrives for this module, which ejects it (R323, R467). -/
def Arrives (s : State) (pk : Packet) (op : BitVec 6) : Prop :=
  s.ejects = true ∧ s.here pk.dst.toNat = true ∧ pk.dst ≠ 0xFFFF ∧ pk.op = op

/-- It is not a duplicate, its half is open or can be opened, and no commit waits on that half (R281, R291, R296); the on-package
network is without error (R254). -/
def NewRequest (s : State) (pk : Packet) : Prop :=
  s.calm ∧
  (keyGet s.fabric.recv (recvKey pk) = none → s.fabric.recv.length < 524288) ∧ (s.halfFor pk).broken = false ∧
    (s.halfFor pk).bad = false ∧ (s.halfFor pk).held = [] ∧ ((s.halfFor pk).top - pk.seq).toNat ≤ 63 ∧
    (s.halfFor pk).map.getLsbD ((s.halfFor pk).top - pk.seq).toNat = false

/-- One reply has joined the injection port of the request's home: to its source, on its context and sequence, with its FOG
in ECHO (R274, R327, R331). -/
def Answers (s t : State) (pk : Packet) (op : BitVec 6) (code : BitVec 4) (offset : BitVec 48) (data : List PByte)
    (ver : BitVec 16) : Prop :=
  t.injQueue (reqHome pk).val = s.injQueue (reqHome pk).val ++ [⟨pkWith { Packet.zero with
    dst := pk.src, src := if pk.dst = 0xFFFF then BitVec.ofNat 16 (s.ownNode pk.part.val) else pk.dst, op := op, tc := pk.tc, part := pk.part, echo := pk.fog, code := code, ctx := pk.ctx,
    seq := pk.seq, offset := offset, ver := ver } data, 0⟩]

/-- The half has the request down as answered, so that a second arrival of it is a duplicate (R281). -/
def Recorded (t : State) (pk : Packet) : Prop :=
  ∃ h, keyGet t.fabric.recv (recvKey pk) = some h ∧ h.answered pk.seq = true

/-- The bytes of `[a, a + n)` as reads deliver them, each with its poison mark. -/
def State.bytesRead (s : State) (a n : Nat) : List PByte := (List.range n).flatMap fun i => s.byteRead (a + i)

/-- Nothing differs but memory, the queues and receive halves of the fabric, and the protection units' own records. -/
def OnlyServed (s t : State) : Prop :=
  t = { s with fabric := t.fabric, prot := t.prot, mem := t.mem } ∧
  t.fabric = { s.fabric with recv := t.fabric.recv, injq := t.fabric.injq, ejq := t.fabric.ejq }

/-- The state has answered nothing. -/
def NoAnswer (s t : State) : Prop := t.fabric.injq = s.fabric.injq

/-- A request that its half has answered already arrives again (R281); the on-package network is without error. -/
def RepeatedRequest (s : State) (pk : Packet) (h : RecvHalf) : Prop :=
  s.calm ∧ keyGet s.fabric.recv (recvKey pk) = some h ∧ h.broken = false ∧ h.bad = false ∧ (h.top - pk.seq).toNat ≤ 63 ∧
    h.map.getLsbD (h.top - pk.seq).toNat = true

/-- No entry of a send half fails its parity (R291). -/
def State.halvesGood (s : State) : Prop := ∀ e ∈ s.fabric.send, e.2.bad = false

/-- A request can be issued on send half `c` now (R272, R277 to R284, R338): another module, a route, no loss, no drain, no
request outstanding on its line, no half whose entry fails parity (R291), and room in the window. -/
def CanLaunch (s : State) (r : Req) (c : Nat) (h : SendHalf) : Prop :=
  s.sendGone r = false ∧ r.cont ≠ .closeHalf ∧ r.cont ≠ .presence ∧ s.here r.pk.dst.toNat = false ∧
    s.lostTo r.pk.dst r.pk.part = false ∧ s.llPorts s.injBank r.pk.dst.toNat ≠ [] ∧
    (s.bit fabLlCtrlOff 3 = true ∨ s.bit fabLlCtrlOff (12 + r.pk.tc.val) = false) ∧
    (∀ x ∈ s.fabric.flying, sameLine r x = false ∧ commitWaits r x = false) ∧ s.halvesGood ∧
    s.sendFor r.pk.dst r.pk.tc r.pk.part ((r.stripe.getD (r.pk.offset.toNat / 128)) % s.stripes r.pk.tc.val) = some (c, h) ∧
    keyGet s.fabric.send c = some h ∧ h.life = .open_ ∧ h.room r.pk.op = true

/-- The request is outstanding on half `c` under the half's next sequence, and its packet has joined its lantern's injection
port (R277, R280, R328). -/
def Launched (s t : State) (r : Req) (c : Nat) (h : SendHalf) : Prop :=
  let pk : Packet := { r.pk with ctx := BitVec.ofNat 20 c, seq := h.next, code := 0, src := BitVec.ofNat 16 (s.ownNode r.pk.part.val) }
  t.fabric.flying = s.fabric.flying ++ [{ r with pk := pk }] ∧ t.fabric.waiting = [] ∧
    t.injQueue r.lantern.val = s.injQueue r.lantern.val ++ [⟨{ pk with
      age := 0, hops := 0, fog := false }, 0⟩]

/-- Requests to a node in a partition can leave now or wait: another module, not lost, with a route; and none waits yet, nor
does an entry of a send half fail parity. -/
def Reachable (s : State) (node : Nat) (p : Part) : Prop :=
  s.here node = false ∧ s.lostTo (BitVec.ofNat 16 node) p = false ∧ s.llPorts s.injBank node ≠ [] ∧ s.fabric.waiting = [] ∧
    s.halvesGood

/-- A slot finds nothing to move beside what arrives: no injection, no request to issue. -/
def State.nothingWaits (s : State) : Prop := s.fabric.injq = [] ∧ s.fabric.waiting = []

/-- Every one of these requests waits to be issued or is outstanding. -/
def Asks (t : State) (rs : List Req) : Prop :=
  ∀ r ∈ rs, ∃ q ∈ t.fabric.waiting ++ t.fabric.flying, q.cmd = r.cmd ∧ q.ix = r.ix ∧ q.cont = r.cont ∧ q.pk.op = r.pk.op ∧
    q.pk.dst = r.pk.dst ∧ q.pk.part = r.pk.part ∧ q.pk.tc = r.pk.tc ∧ q.pk.offset = r.pk.offset ∧ q.pk.len = r.pk.len ∧
    q.pk.payload = r.pk.payload ∧ q.pk.poison = r.pk.poison

/-- A reply of this operation code and with code DONE arrives, an outstanding request waits for it, no request waits to
be issued, and no entry of a send half fails parity. -/
def ReplyMeets (s : State) (pk : Packet) (op : BitVec 6) (r : Req) : Prop :=
  s.ejects = true ∧ s.here pk.dst.toNat = true ∧ pk.op = op ∧ pk.code = 0 ∧ s.answering pk = some r ∧
    s.fabric.waiting = [] ∧ s.halvesGood

/-- The request is no longer outstanding. -/
def NotFlying (t : State) (r : Req) : Prop := ∀ x ∈ t.fabric.flying, ¬ (x.pk.ctx = r.pk.ctx ∧ x.pk.seq = r.pk.seq)

/-- The command has issued its work, one piece of it is outstanding, and nothing of it has failed. -/
def OnePieceLeft (s : State) (c : CmdId) : Prop :=
  s.calm ∧
  ∃ x, s.cmd c = some x ∧ x.phase = .issued ∧ x.pending = 1 ∧ x.fails = [] ∧ x.status = 0 ∧ x.detail = 0 ∧ x.opcode ≠ 0x27

/-- No Keeper pull is under way. -/
def State.noPull (s : State) : Prop := ∀ p, p < 4 → (s.kpart p).pull = none

/-! ## Keeper messages -/

/-- A KCTL request of this kind arrives at a module that ejects it, well formed and not a duplicate (R281, R407); no request of
the module waits to be issued. -/
def KMessage (s : State) (pk : Packet) (kind : Nat) : Prop :=
  s.kctlEjects pk = true ∧ s.here pk.dst.toNat = true ∧ pk.dst ≠ 0xFFFF ∧ pk.op = 0x14 ∧ kcKind pk = kind ∧
    kcFormed pk = true ∧ NewRequest s pk ∧ s.fabric.waiting = []

/-- The request's reply with this result stands last in the injection port of lantern 0 (R327, R407). -/
def KReplies (t : State) (pk : Packet) (result : Nat) : Prop :=
  ∃ x, (t.injQueue 0).getLast? = some x ∧ x.pk.op = 0x10 ∧ x.pk.code = 0 ∧ x.pk.dst = pk.src ∧ x.pk.src = pk.dst ∧
    x.pk.ctx = pk.ctx ∧ x.pk.seq = pk.seq ∧ x.pk.tc = pk.tc ∧ x.pk.payload = natLe 8 result

/-- A class-3 KCTL request of this kind and subject to this node waits to be issued or is outstanding. -/
def KAsks (t : State) (node : Node) (kind subject : Nat) : Prop :=
  ∃ q ∈ t.fabric.waiting ++ t.fabric.flying, q.cont = .kctl ∧ q.pk.op = 0x14 ∧ q.pk.tc = 3 ∧ q.pk.dst = node ∧
    kcKind q.pk = kind ∧ kcSubject q.pk = subject

/-- Every command of a partition's rings has ended. -/
def AllEnded (t : State) (p : Part) : Prop := ∀ y ∈ t.cmds, y.id.func = funcOf p → y.phase = .ended

end Sys2Proof.Machine
end

