-- ==== Sys2Proof/WellFormed.lean ====
section
/-! DEFINITION. Well-formed commands: the operand values that the interfaces of the module can deliver. Every meaning is
total all the same, so an ill-formed command does no harm; statements that need an operand's shape ask for it here. -/

namespace Sys2Proof

/-- A packet as R321 gives it: LEN is at most 128, and the payload is LEN bytes, or none for a request that reads. -/
def Packet.wf (pk : Packet) : Bool :=
  decide (pk.len.toNat ≤ 128) && (decide (pk.payload.length = pk.len.toNat) || pk.payload.isEmpty)

/-- A command packet's name: the PF has one ring, the work ring of its page (R423). -/
def CmdId.wf (c : CmdId) : Bool := decide (c.func ≠ 0) || decide (c.ring = 0)

/-- A frame is 168 bytes (R314). -/
def Arrival.wf (a : Arrival) : Bool := decide (a.bytes.length = 168)

/-- A slot brings at most one frame on a port (R313). -/
def arrivalsWf (arr : List Arrival) : Bool := arr.all Arrival.wf && (arr.map (·.port)).Nodup

/-- A micro-op's fields are allowed for its opcode: the type (R106), the rounding override (R102, R26), and the
predicate of CMP (R108). -/
def MicroOp.wf (code : Nat) (u : MicroOp) : Bool :=
  Machine.typeAllowed code u.t.toNat && (!u.ovr || decide (u.rnd.toNat ≤ 5)) &&
    (decide (code ≠ 0x1A) || (decide (u.imm.toNat % 8 ≠ 7) && (decide (2 ≤ u.t.toNat) || decide (u.imm.toNat % 8 < 5))))

/-- A register access is aligned to its width (R5). -/
def accessAligned (off : BitVec 26) (wide : Bool) : Bool := off.toNat % (if wide then 8 else 4) == 0

/-- A memory request of PCI Express reads or writes 1 to 4,096 bytes inside the window. -/
def requestWf (off : BitVec 40) (n : Nat) : Bool :=
  decide (1 ≤ n) && decide (n ≤ 4096) && decide (off.toNat + n ≤ 2 ^ 40)

/-- The running records of a chain's block: one to eight of 32 bytes (R114, R116). -/
def chainWf (recs : List (List Byte × Bool)) : Bool :=
  decide (1 ≤ recs.length) && decide (recs.length ≤ 8) && recs.all fun r => decide (r.1.length = 32)

/-- An interval's measurements: the 36 rails of R489, four partitions, and four counts for each rail group. -/
def CapSample.wf (x : CapSample) : Bool :=
  decide (x.rails.length = 36) && decide (x.estPart.length = 4) && x.railShares.all fun r => decide (r.2.1.length = 4)

/-- A configuration write's BAR2 size is a power of two up to the window (R418). -/
def CfgWrite.wf : CfgWrite → Bool
  | .bar2Size _ k => decide (k ≤ 40)
  | .powerD0 _ => true
  | .powerD3hot _ => true
  | .sriovVfEnable _ => true
  | .msixEnable _ _ => true
  | .msixFunctionMask _ _ => true

/-- The opcode of a micro-op row (R106); nothing for the other rows. -/
def Instr.microCode : Instr → Option (Nat × VeIx × MicroOp)
  | .veNop v u => some (0x00, v, u)
  | .load v u => some (0x01, v, u)
  | .store v u => some (0x02, v, u)
  | .mov v u => some (0x03, v, u)
  | .const v u => some (0x04, v, u)
  | .bcast v u => some (0x05, v, u)
  | .idx v u => some (0x06, v, u)
  | .add v u => some (0x08, v, u)
  | .sub v u => some (0x09, v, u)
  | .mul v u => some (0x0A, v, u)
  | .div v u => some (0x0B, v, u)
  | .fma v u => some (0x0C, v, u)
  | .fms v u => some (0x0D, v, u)
  | .fnma v u => some (0x0E, v, u)
  | .sqrt v u => some (0x0F, v, u)
  | .rsqrt v u => some (0x10, v, u)
  | .abs v u => some (0x11, v, u)
  | .neg v u => some (0x12, v, u)
  | .copysign v u => some (0x13, v, u)
  | .min v u => some (0x14, v, u)
  | .max v u => some (0x15, v, u)
  | .minnum v u => some (0x16, v, u)
  | .maxnum v u => some (0x17, v, u)
  | .scaleb v u => some (0x18, v, u)
  | .rint v u => some (0x19, v, u)
  | .cmp v u => some (0x1A, v, u)
  | .sel v u => some (0x1B, v, u)
  | .exp v u => some (0x20, v, u)
  | .exp2 v u => some (0x21, v, u)
  | .log v u => some (0x22, v, u)
  | .log2 v u => some (0x23, v, u)
  | .sin v u => some (0x24, v, u)
  | .cos v u => some (0x25, v, u)
  | .tanh v u => some (0x26, v, u)
  | .sigmoid v u => some (0x27, v, u)
  | .erf v u => some (0x28, v, u)
  | .iadd v u => some (0x2C, v, u)
  | .isub v u => some (0x2D, v, u)
  | .imul v u => some (0x2E, v, u)
  | .and v u => some (0x2F, v, u)
  | .or v u => some (0x30, v, u)
  | .xor v u => some (0x31, v, u)
  | .shl v u => some (0x32, v, u)
  | .shr v u => some (0x33, v, u)
  | .sar v u => some (0x34, v, u)
  | .cvt v u => some (0x35, v, u)
  | .rsum v u => some (0x38, v, u)
  | .rmax v u => some (0x39, v, u)
  | .rmin v u => some (0x3A, v, u)
  | .rssq v u => some (0x3B, v, u)
  | .rmv v u => some (0x3C, v, u)
  | .rsmx v u => some (0x3D, v, u)
  | .nop _ => none
  | .readRegs _ => none
  | .stepReport _ => none
  | .openJob _ => none
  | .closeJob _ => none
  | .holdJob _ => none
  | .releaseJob _ => none
  | .keeperResume _ => none
  | .replayStep _ => none
  | .enterReady _ => none
  | .enterStandby _ => none
  | .setPowerState _ => none
  | .powerStateChangeDone => none
  | .stepPlan _ => none
  | .stepClose _ => none
  | .waitFlag _ => none
  | .waitFlagTest _ => none
  | .flagTimeout _ => none
  | .signal _ => none
  | .dmaCopy _ => none
  | .dmaConvert _ => none
  | .runGrouped _ => none
  | .passStart _ => none
  | .versionRecheck _ => none
  | .versionTimeout _ => none
  | .tilelistJoin _ _ => none
  | .runVector _ => none
  | .splitReduce _ => none
  | .splitCollect _ => none
  | .chainRecordArrival _ _ _ => none
  | .splitTimeout _ => none
  | .loadWeights _ => none
  | .deriveWorking _ => none
  | .reduceScatter _ => none
  | .gradientChunk _ => none
  | .gcChunkTimeout _ => none
  | .updateGate _ => none
  | .updateShards _ => none
  | .updateProgramStart _ => none
  | .mirrorConfig _ => none
  | .routeTokens _ => none
  | .returnResults _ => none
  | .routeGradients _ => none
  | .returnGradients _ => none
  | .exchangePack _ _ => none
  | .combineResults _ => none
  | .sumGradients _ => none
  | .exchangeTimeout _ => none
  | .doorbellWrite _ _ _ _ => none
  | .ringFetch _ _ => none
  | .seqErrClear _ _ _ => none
  | .ringEnable _ _ _ _ => none
  | .commandStart _ => none
  | .commandComplete _ => none
  | .layerReplay _ => none
  | .mailboxAck _ _ _ => none
  | .mailboxReadyRead _ _ _ => none
  | .eventRingEnable _ _ _ => none
  | .eventHeadWrite _ _ _ => none
  | .moduleResetWrite _ _ => none
  | .registerWrite _ _ _ _ => none
  | .bar2Read _ _ _ => none
  | .bar2Write _ _ _ _ => none
  | .functionLevelReset _ => none
  | .poolInit _ _ _ => none
  | .poolInitEnd _ _ => none
  | .poolRequest _ _ _ _ => none
  | .poolGrantRead _ _ _ => none
  | .poolRelease _ _ _ _ => none
  | .poolCountWrite _ _ _ _ _ => none
  | .poolCountApply _ _ => none
  | .regionOwnershipWrite _ _ _ => none
  | .regionChangeApply _ => none
  | .writeRaw _ _ => none
  | .readRaw _ _ => none
  | .fabReopen _ _ => none
  | .lightListSwap _ => none
  | .nodeNumberWrite _ _ => none
  | .portEnable _ _ _ => none
  | .portDisable _ _ _ => none
  | .portTrainAttempt _ => none
  | .portTrainingDone _ _ => none
  | .portEnterUp _ => none
  | .portLossOfSignal _ => none
  | .portAlignLost _ => none
  | .portErrorLimit _ => none
  | .routerSlot _ => none
  | .forcedLinkFrame _ => none
  | .multicastForcedInject _ => none
  | .fabLoad _ => none
  | .fabLoadt _ => none
  | .fabStore _ => none
  | .vstore _ => none
  | .red _ => none
  | .fetch _ => none
  | .mstore _ => none
  | .mvstore _ => none
  | .mflush _ => none
  | .mflushShortTimeout _ _ _ => none
  | .xalloc _ => none
  | .xcommit _ => none
  | .gcommit _ => none
  | .close _ => none
  | .reservedOpArrival _ => none
  | .loadReply _ => none
  | .fetchReply _ => none
  | .ack _ => none
  | .xallocReply _ => none
  | .mflushReply _ => none
  | .resendTimeout _ => none
  | .targetLostTimeout _ => none
  | .bounceBackoffExpiry _ => none
  | .bounceLimitExpiry _ => none
  | .sendHalfIdleClose _ => none
  | .gcommitHoldTimeout _ _ _ _ => none
  | .xallocBufferTimeout _ _ => none
  | .regulatorGrant _ _ => none
  | .patrolRead _ => none
  | .supplyOn => none
  | .supplyLoss => none
  | .overvoltageShutdown => none
  | .inputRangeChange _ _ => none
  | .perstAssert => none
  | .perstDeassert _ => none
  | .bootComplete _ => none
  | .coolantStop => none
  | .ppsEdge => none
  | .ppsLockLoss => none
  | .droopDetect _ => none
  | .droopEnd _ => none
  | .capInterval _ => none
  | .calibrationCheck _ _ => none
  | .thermalReading _ => none
  | .heartbeatSend => none
  | .heartbeatMiss _ => none
  | .probeTimeout _ => none
  | .targetLostNotice _ _ => none
  | .keeperFaultNotice _ _ => none
  | .heartbeat _ => none
  | .suspect _ => none
  | .probe _ => none
  | .probeRelay _ => none
  | .hold _ => none
  | .holdComplete _ => none
  | .heldAck _ => none
  | .take _ => none
  | .ringReset _ => none
  | .spareReady _ => none
  | .spareJoinTimeout _ => none
  | .resumeTimeout _ => none
  | .replay _ => none
  | .mirCommit _ => none
  | .mirStep _ => none
  | .mirRestore _ => none
  | .kctlReply _ => none
  | .slowTime _ => none
  | .retire _ => none
  | .retireModule _ => none
  | .abort _ => none
  | .regRead _ => none
  | .regWrite _ => none
  | .fwUpdateStart _ => none
  | .fwUpdateEnd _ => none
  | .raise _ _ => none
  | .daymarkDataRead _ => none
  | .mctpControl _ _ => none
  | .pldmRequest _ _ => none
  | .vendorManagementRequest _ _ => none
  | .getVersion _ _ => none
  | .getCapabilities _ _ => none
  | .negotiateAlgorithms _ _ => none
  | .getDigests _ _ => none
  | .getCertificate _ _ => none
  | .challenge _ _ => none
  | .getMeasurements _ _ => none
  | .keyExchange _ _ => none
  | .finish _ _ => none
  | .endSession _ _ => none
  | .spdmUnsupportedRequest _ _ _ => none
  | .resetMinimumElapsed => none
  | .internalFault => none
  | .poolFreeRead _ _ _ _ => none
  | .configurationRequest _ => none
  | .takeoverLightListSwap _ => none
  | .yieldPoint _ => none

/-- A command is well formed. -/
def Instr.wf (i : Instr) : Bool :=
  match i with
  | .nop c => c.wf
  | .readRegs c => c.wf
  | .stepReport c => c.wf
  | .openJob c => c.wf
  | .closeJob c => c.wf
  | .holdJob c => c.wf
  | .releaseJob c => c.wf
  | .keeperResume c => c.wf
  | .replayStep c => c.wf
  | .enterReady c => c.wf
  | .enterStandby c => c.wf
  | .setPowerState c => c.wf
  | .powerStateChangeDone => true
  | .stepPlan c => c.wf
  | .stepClose _ => true
  | .waitFlag c => c.wf
  | .waitFlagTest c => c.wf
  | .flagTimeout c => c.wf
  | .signal c => c.wf
  | .dmaCopy c => c.wf
  | .dmaConvert c => c.wf
  | .runGrouped c => c.wf
  | .passStart _ => true
  | .versionRecheck _ => true
  | .versionTimeout _ => true
  | .tilelistJoin c _ => c.wf
  | .runVector c => c.wf
  | .splitReduce c => c.wf
  | .splitCollect c => c.wf
  | .chainRecordArrival c _ recs => c.wf && chainWf recs
  | .splitTimeout c => c.wf
  | .loadWeights c => c.wf
  | .deriveWorking c => c.wf
  | .reduceScatter c => c.wf
  | .gradientChunk _ => true
  | .gcChunkTimeout _ => true
  | .updateGate c => c.wf
  | .updateShards c => c.wf
  | .updateProgramStart c => c.wf
  | .mirrorConfig c => c.wf
  | .routeTokens c => c.wf
  | .returnResults c => c.wf
  | .routeGradients c => c.wf
  | .returnGradients c => c.wf
  | .exchangePack c _ => c.wf
  | .combineResults c => c.wf
  | .sumGradients c => c.wf
  | .exchangeTimeout c => c.wf
  | .doorbellWrite _ page ring _ => Machine.ringExists page ring
  | .ringFetch page ring => Machine.ringExists page ring
  | .seqErrClear _ page ring => Machine.ringExists page ring
  | .ringEnable _ page ring _ => Machine.ringExists page ring
  | .commandStart c => c.wf
  | .commandComplete c => c.wf
  | .layerReplay _ => true
  | .mailboxAck _ _ _ => true
  | .mailboxReadyRead _ _ _ => true
  | .eventRingEnable _ _ _ => true
  | .eventHeadWrite _ _ _ => true
  | .moduleResetWrite _ _ => true
  | .registerWrite _ off wide _ => accessAligned off wide
  | .bar2Read _ off n => requestWf off n
  | .bar2Write _ off bytes _ => requestWf off bytes.length
  | .functionLevelReset _ => true
  | .poolInit _ _ _ => true
  | .poolInitEnd _ _ => true
  | .poolRequest _ _ _ _ => true
  | .poolGrantRead _ _ _ => true
  | .poolRelease _ _ _ _ => true
  | .poolCountWrite _ _ _ _ _ => true
  | .poolCountApply _ _ => true
  | .regionOwnershipWrite _ _ _ => true
  | .regionChangeApply _ => true
  | .writeRaw _ _ => true
  | .readRaw _ _ => true
  | .fabReopen _ _ => true
  | .lightListSwap _ => true
  | .nodeNumberWrite _ _ => true
  | .portEnable _ _ _ => true
  | .portDisable _ _ _ => true
  | .portTrainAttempt _ => true
  | .portTrainingDone _ _ => true
  | .portEnterUp _ => true
  | .portLossOfSignal _ => true
  | .portAlignLost _ => true
  | .portErrorLimit _ => true
  | .routerSlot arr => arrivalsWf arr
  | .forcedLinkFrame _ => true
  | .multicastForcedInject _ => true
  | .fabLoad pk => pk.wf
  | .fabLoadt pk => pk.wf
  | .fabStore pk => pk.wf
  | .vstore pk => pk.wf
  | .red pk => pk.wf
  | .fetch pk => pk.wf
  | .mstore pk => pk.wf
  | .mvstore pk => pk.wf
  | .mflush pk => pk.wf
  | .mflushShortTimeout _ _ _ => true
  | .xalloc pk => pk.wf
  | .xcommit pk => pk.wf
  | .gcommit pk => pk.wf
  | .close pk => pk.wf
  | .reservedOpArrival pk => pk.wf
  | .loadReply pk => pk.wf
  | .fetchReply pk => pk.wf
  | .ack pk => pk.wf
  | .xallocReply pk => pk.wf
  | .mflushReply pk => pk.wf
  | .resendTimeout _ => true
  | .targetLostTimeout _ => true
  | .bounceBackoffExpiry _ => true
  | .bounceLimitExpiry _ => true
  | .sendHalfIdleClose _ => true
  | .gcommitHoldTimeout _ _ _ _ => true
  | .xallocBufferTimeout _ _ => true
  | .regulatorGrant _ pending => (pending.map (·.1)).Nodup
  | .patrolRead _ => true
  | .supplyOn => true
  | .supplyLoss => true
  | .overvoltageShutdown => true
  | .inputRangeChange _ _ => true
  | .perstAssert => true
  | .perstDeassert fingerprint => decide (fingerprint.length ≤ 4096)
  | .bootComplete _ => true
  | .coolantStop => true
  | .ppsEdge => true
  | .ppsLockLoss => true
  | .droopDetect _ => true
  | .droopEnd _ => true
  | .capInterval sample => sample.wf
  | .calibrationCheck _ _ => true
  | .thermalReading temps => decide (temps.length = 54)
  | .heartbeatSend => true
  | .heartbeatMiss _ => true
  | .probeTimeout _ => true
  | .targetLostNotice _ _ => true
  | .keeperFaultNotice _ _ => true
  | .heartbeat pk => pk.wf
  | .suspect pk => pk.wf
  | .probe pk => pk.wf
  | .probeRelay pk => pk.wf
  | .hold pk => pk.wf
  | .holdComplete _ => true
  | .heldAck pk => pk.wf
  | .take pk => pk.wf
  | .ringReset pk => pk.wf
  | .spareReady pk => pk.wf
  | .spareJoinTimeout _ => true
  | .resumeTimeout _ => true
  | .replay pk => pk.wf
  | .mirCommit pk => pk.wf
  | .mirStep pk => pk.wf
  | .mirRestore pk => pk.wf
  | .kctlReply pk => pk.wf
  | .slowTime pk => pk.wf
  | .retire pk => pk.wf
  | .retireModule _ => true
  | .abort pk => pk.wf
  | .regRead pk => pk.wf
  | .regWrite pk => pk.wf
  | .fwUpdateStart _ => true
  | .fwUpdateEnd _ => true
  | .raise _ _ => true
  | .daymarkDataRead _ => true
  | .mctpControl _ bytes => !bytes.isEmpty
  | .pldmRequest _ bytes => !bytes.isEmpty
  | .vendorManagementRequest _ bytes => !bytes.isEmpty
  | .getVersion _ bytes => !bytes.isEmpty
  | .getCapabilities _ bytes => !bytes.isEmpty
  | .negotiateAlgorithms _ bytes => !bytes.isEmpty
  | .getDigests _ bytes => !bytes.isEmpty
  | .getCertificate _ bytes => !bytes.isEmpty
  | .challenge _ bytes => !bytes.isEmpty
  | .getMeasurements _ bytes => !bytes.isEmpty
  | .keyExchange _ bytes => !bytes.isEmpty
  | .finish _ bytes => !bytes.isEmpty
  | .endSession _ bytes => !bytes.isEmpty
  | .spdmUnsupportedRequest _ bytes _ => !bytes.isEmpty
  | .veNop _ u => u.wf 0x00
  | .load _ u => u.wf 0x01
  | .store _ u => u.wf 0x02
  | .mov _ u => u.wf 0x03
  | .const _ u => u.wf 0x04
  | .bcast _ u => u.wf 0x05
  | .idx _ u => u.wf 0x06
  | .add _ u => u.wf 0x08
  | .sub _ u => u.wf 0x09
  | .mul _ u => u.wf 0x0A
  | .div _ u => u.wf 0x0B
  | .fma _ u => u.wf 0x0C
  | .fms _ u => u.wf 0x0D
  | .fnma _ u => u.wf 0x0E
  | .sqrt _ u => u.wf 0x0F
  | .rsqrt _ u => u.wf 0x10
  | .abs _ u => u.wf 0x11
  | .neg _ u => u.wf 0x12
  | .copysign _ u => u.wf 0x13
  | .min _ u => u.wf 0x14
  | .max _ u => u.wf 0x15
  | .minnum _ u => u.wf 0x16
  | .maxnum _ u => u.wf 0x17
  | .scaleb _ u => u.wf 0x18
  | .rint _ u => u.wf 0x19
  | .cmp _ u => u.wf 0x1A
  | .sel _ u => u.wf 0x1B
  | .exp _ u => u.wf 0x20
  | .exp2 _ u => u.wf 0x21
  | .log _ u => u.wf 0x22
  | .log2 _ u => u.wf 0x23
  | .sin _ u => u.wf 0x24
  | .cos _ u => u.wf 0x25
  | .tanh _ u => u.wf 0x26
  | .sigmoid _ u => u.wf 0x27
  | .erf _ u => u.wf 0x28
  | .iadd _ u => u.wf 0x2C
  | .isub _ u => u.wf 0x2D
  | .imul _ u => u.wf 0x2E
  | .and _ u => u.wf 0x2F
  | .or _ u => u.wf 0x30
  | .xor _ u => u.wf 0x31
  | .shl _ u => u.wf 0x32
  | .shr _ u => u.wf 0x33
  | .sar _ u => u.wf 0x34
  | .cvt _ u => u.wf 0x35
  | .rsum _ u => u.wf 0x38
  | .rmax _ u => u.wf 0x39
  | .rmin _ u => u.wf 0x3A
  | .rssq _ u => u.wf 0x3B
  | .rmv _ u => u.wf 0x3C
  | .rsmx _ u => u.wf 0x3D
  | .resetMinimumElapsed => true
  | .internalFault => true
  | .poolFreeRead _ _ _ _ => true
  | .configurationRequest w => w.wf
  | .takeoverLightListSwap _ => true
  | .yieldPoint _ => true

end Sys2Proof
end

