-- ==== Sys2Proof/Certificates/Slice0/Obligations.lean ====
section
/-! DEFINITION. The statements about the model, for the provers. -/

open Sys2Proof Sys2Proof.Machine

/-! ## The queue and time -/

/-- A step takes the command at the front of the queue and runs it with the queue's rest. -/
def Obligations.StepRunsFrontCommand : Prop :=
  ∀ (s : State) (c : Instr) (rest : List Instr), s.pending = c :: rest → step s = exec c { s with pending := rest }

/-! ## Micro-ops -/

/-- R106, R103: the integer and bitwise ops of types INT32 and INT64. They wrap modulo 2^32 or 2^64, take a shift count
modulo the width, and write bits [31:0] with bits [63:32] clear for INT32; nothing but D, its mark and the list position
changes. -/
def Obligations.IntegerOpsCompute : Prop :=
  ∀ (s : State) (v : VeIx) (u : MicroOp), LaneReady s v [u.a, u.b] →
    let a := (s.lane v.val).reg u.a.val
    let b := (s.lane v.val).reg u.b.val
    let a32 : W32 := a.setWidth 32
    let b32 : W32 := b.setWidth 32
    (u.t = 2#2 →
      MicroWrites (.iadd v u) s v u.d ((a32 + b32).setWidth 64) 0 ∧
      MicroWrites (.isub v u) s v u.d ((a32 - b32).setWidth 64) 0 ∧
      MicroWrites (.imul v u) s v u.d ((a32 * b32).setWidth 64) 0 ∧
      MicroWrites (.and v u) s v u.d ((a32 &&& b32).setWidth 64) 0 ∧
      MicroWrites (.or v u) s v u.d ((a32 ||| b32).setWidth 64) 0 ∧
      MicroWrites (.xor v u) s v u.d ((a32 ^^^ b32).setWidth 64) 0 ∧
      MicroWrites (.shl v u) s v u.d ((a32 <<< (b32.toNat % 32)).setWidth 64) 0 ∧
      MicroWrites (.shr v u) s v u.d ((a32 >>> (b32.toNat % 32)).setWidth 64) 0 ∧
      MicroWrites (.sar v u) s v u.d ((a32.sshiftRight (b32.toNat % 32)).setWidth 64) 0) ∧
    (u.t = 3#2 →
      MicroWrites (.iadd v u) s v u.d (a + b) 0 ∧
      MicroWrites (.isub v u) s v u.d (a - b) 0 ∧
      MicroWrites (.imul v u) s v u.d (a * b) 0 ∧
      MicroWrites (.and v u) s v u.d (a &&& b) 0 ∧
      MicroWrites (.or v u) s v u.d (a ||| b) 0 ∧
      MicroWrites (.xor v u) s v u.d (a ^^^ b) 0 ∧
      MicroWrites (.shl v u) s v u.d (a <<< (b.toNat % 64)) 0 ∧
      MicroWrites (.shr v u) s v u.d (a >>> (b.toNat % 64)) 0 ∧
      MicroWrites (.sar v u) s v u.d (a.sshiftRight (b.toNat % 64)) 0)

/-- R96, R106: the arithmetic ops form the exact result of finite operands and round it once; nothing else changes.
R32, R96 to R98: the special operands of the arithmetic ops. A NaN operand gives the canonical NaN, with invalid for a
signalling one; ∞ − ∞, 0 × ∞, 0 ÷ 0 and ∞ ÷ ∞ are invalid; a finite non-zero value divided by zero gives an infinity with
divide-by-zero; an exact zero sum of opposite values is +0, and −0 under RD. -/
def Obligations.ArithmeticOpsRoundOnce : Prop :=
  (∀ (s : State) (v : VeIx) (u : MicroOp) (sa sb sc : Bool) (a b c : Rat), LaneReady s v [u.a, u.b, u.c] →
    u.t = 0#2 ∨ u.t = 1#2 →
    srcVal s v u u.a = .fin sa a → srcVal s v u u.b = .fin sb b → srcVal s v u u.c = .fin sc c →
    let x := (srcVal s v u u.a).rat
    let y := (srcVal s v u u.b).rat
    let z := (srcVal s v u u.c).rat
    (x + y ≠ 0 → MicroRounds (.add v u) s v u (.ofRat (x + y)) 0) ∧
    (x - y ≠ 0 → MicroRounds (.sub v u) s v u (.ofRat (x - y)) 0) ∧
    (x * y ≠ 0 → MicroRounds (.mul v u) s v u (.ofRat (x * y)) 0) ∧
    (x ≠ 0 → y ≠ 0 → MicroRounds (.div v u) s v u (.ofRat (x / y)) 0) ∧
    (x * y + z ≠ 0 → MicroRounds (.fma v u) s v u (.ofRat (x * y + z)) 0) ∧
    (x * y - z ≠ 0 → MicroRounds (.fms v u) s v u (.ofRat (x * y - z)) 0) ∧
    (z - x * y ≠ 0 → MicroRounds (.fnma v u) s v u (.ofRat (z - x * y)) 0)) ∧
  (∀ (s : State) (v : VeIx) (u : MicroOp), LaneReady s v [u.a, u.b] → u.t = 0#2 ∨ u.t = 1#2 →
    let a := srcVal s v u u.a
    let b := srcVal s v u u.b
    let inv : Flags := if a.isSig || b.isSig then flInvalid else 0
    (a.isNan || b.isNan → MicroRounds (.add v u) s v u (.nan false) inv ∧ MicroRounds (.sub v u) s v u (.nan false) inv ∧
      MicroRounds (.mul v u) s v u (.nan false) inv ∧ MicroRounds (.div v u) s v u (.nan false) inv) ∧
    (∀ p, a = .inf p → b = .inf (!p) → MicroRounds (.add v u) s v u (.nan false) flInvalid) ∧
    (∀ p, a = .inf p → b = .inf p → MicroRounds (.sub v u) s v u (.nan false) flInvalid) ∧
    (∀ p q, a = .fin p 0 → b = .inf q → MicroRounds (.mul v u) s v u (.nan false) flInvalid) ∧
    (∀ p q, a = .fin p 0 → b = .fin q 0 → MicroRounds (.div v u) s v u (.nan false) flInvalid) ∧
    (∀ p q, a = .inf p → b = .inf q → MicroRounds (.div v u) s v u (.nan false) flInvalid) ∧
    (∀ p q m, a = .fin p m → b = .fin q 0 → m ≠ 0 → MicroRounds (.div v u) s v u (.inf (p ^^ q)) flDivZero) ∧
    (∀ p m, a = .fin p m → b = .fin (!p) m → m ≠ 0 →
      MicroRounds (.add v u) s v u (.fin (decide ((s.lane v.val).mode u = 4)) 0) 0))

/-- R106, R107: SQRT, RSQRT and the transcendental ops round the exact value of their function once, with the special
cases of the tables. -/
def Obligations.ElementaryOpsRoundOnce : Prop :=
  ∀ (s : State) (v : VeIx) (u : MicroOp), LaneReady s v [u.a] → u.t = 0#2 ∨ u.t = 1#2 →
    let a := srcVal s v u u.a
    let is := fun (i : Instr) (r : FVal × Flags) => MicroRounds i s v u r.1 r.2
    is (.sqrt v u) (fvSqrt a) ∧ is (.rsqrt v u) (fvRsqrt a) ∧
    (u.t = 0#2 →
      is (.exp v u) (fvTrans .exp a) ∧ is (.exp2 v u) (fvTrans .exp2 a) ∧ is (.log v u) (fvTrans .log a) ∧
      is (.log2 v u) (fvTrans .log2 a) ∧ is (.sin v u) (fvTrans .sin a) ∧ is (.cos v u) (fvTrans .cos a) ∧
      is (.tanh v u) (fvTrans .tanh a) ∧ is (.sigmoid v u) (fvTrans .sigmoid a) ∧ is (.erf v u) (fvTrans .erf a)) ∧
    (∀ p, a = .fin p 0 → is (.sqrt v u) (.fin p 0, 0) ∧ is (.rsqrt v u) (.inf false, flDivZero) ∧
      (u.t = 0#2 → is (.log v u) (.inf true, flDivZero) ∧ is (.log2 v u) (.inf true, flDivZero) ∧
        is (.sin v u) (.fin p 0, 0) ∧ is (.tanh v u) (.fin p 0, 0) ∧ is (.erf v u) (.fin p 0, 0) ∧
        is (.cos v u) (.fin false 1, 0))) ∧
    (∀ m, a = .fin true m → m ≠ 0 → is (.sqrt v u) (.nan false, flInvalid) ∧ is (.rsqrt v u) (.nan false, flInvalid) ∧
      (u.t = 0#2 → is (.log v u) (.nan false, flInvalid) ∧ is (.log2 v u) (.nan false, flInvalid))) ∧
    (a = .inf false → is (.sqrt v u) (.inf false, 0) ∧ is (.rsqrt v u) (.fin false 0, 0) ∧
      (u.t = 0#2 → is (.exp v u) (.inf false, 0) ∧ is (.exp2 v u) (.inf false, 0) ∧ is (.log v u) (.inf false, 0) ∧
        is (.log2 v u) (.inf false, 0) ∧ is (.sin v u) (.nan false, flInvalid) ∧ is (.cos v u) (.nan false, flInvalid) ∧
        is (.tanh v u) (.fin false 1, 0) ∧ is (.erf v u) (.fin false 1, 0) ∧ is (.sigmoid v u) (.fin false 1, 0))) ∧
    (a = .inf true → is (.sqrt v u) (.nan false, flInvalid) ∧ is (.rsqrt v u) (.nan false, flInvalid) ∧
      (u.t = 0#2 → is (.exp v u) (.fin false 0, 0) ∧ is (.exp2 v u) (.fin false 0, 0) ∧
        is (.tanh v u) (.fin true 1, 0) ∧ is (.erf v u) (.fin true 1, 0) ∧ is (.sigmoid v u) (.fin false 0, 0)))

/-- R98, R106: MIN, MAX, MINNUM and MAXNUM give one of their operands, with −0 below +0. MIN and MAX give the canonical NaN
for a NaN operand; in MINNUM and MAXNUM a NaN loses to a number. ABS, NEG and COPYSIGN
change the sign bit alone. A signalling NaN raises invalid, but in ABS and NEG, which raise no flag.
R103, R106, R112: NOP does nothing, MOV and SEL copy bits with the mark of the register they copy, and CONST, BCAST and
IDX write constants of type T.
R108: CMP writes 1 where its predicate holds and 0 where it does not: signed and unsigned comparisons of integers, and
comparisons of floating-point values with NaNs unordered. -/
def Obligations.MovesComparesAndSigns : Prop :=
  (∀ (s : State) (v : VeIx) (u : MicroOp), LaneReady s v [u.a, u.b] →
    let ra := (s.lane v.val).reg u.a.val
    let rb := (s.lane v.val).reg u.b.val
    let a32 : W32 := ra.setWidth 32
    let b32 : W32 := rb.setWidth 32
    let a := srcVal s v u u.a
    let b := srcVal s v u u.b
    let gives := fun (i : Instr) (x : FVal) (fl : Flags) => MicroWrites i s v u.d (regOf (fpOf u.t) (rnCode (fpOf u.t) x)) fl
    (u.t = 0#2 ∨ u.t = 1#2 → a.isNan = false → b.isNan = false →
      (fvLt true a b = true → gives (.min v u) a 0 ∧ gives (.minnum v u) a 0 ∧ gives (.max v u) b 0 ∧
        gives (.maxnum v u) b 0) ∧
      (fvLt true b a = true → gives (.min v u) b 0 ∧ gives (.minnum v u) b 0 ∧ gives (.max v u) a 0 ∧
        gives (.maxnum v u) a 0) ∧
      (fvLt true a b = false → fvLt true b a = false → gives (.min v u) a 0 ∧ gives (.minnum v u) a 0 ∧
        gives (.max v u) a 0 ∧ gives (.maxnum v u) a 0)) ∧
    (u.t = 0#2 ∨ u.t = 1#2 → a.isNan || b.isNan → gives (.min v u) (.nan false) (sigFlag [a, b]) ∧
      gives (.max v u) (.nan false) (sigFlag [a, b])) ∧
    (u.t = 0#2 ∨ u.t = 1#2 → a.isNan → b.isNan → gives (.minnum v u) (.nan false) (sigFlag [a, b]) ∧
      gives (.maxnum v u) (.nan false) (sigFlag [a, b])) ∧
    (u.t = 0#2 ∨ u.t = 1#2 → a.isNan → b.isNan = false → gives (.minnum v u) b (sigFlag [a]) ∧
      gives (.maxnum v u) b (sigFlag [a])) ∧
    (u.t = 0#2 ∨ u.t = 1#2 → a.isNan = false → b.isNan → gives (.minnum v u) a (sigFlag [b]) ∧
      gives (.maxnum v u) a (sigFlag [b])) ∧
    (u.t = 0#2 →
      MicroWrites (.abs v u) s v u.d ((a32 &&& 0x7FFFFFFF#32).setWidth 64) 0 ∧
      MicroWrites (.neg v u) s v u.d ((a32 ^^^ 0x80000000#32).setWidth 64) 0 ∧
      MicroWrites (.copysign v u) s v u.d ((a32 &&& 0x7FFFFFFF#32 ||| b32 &&& 0x80000000#32).setWidth 64)
        (sigFlag [a, b])) ∧
    (u.t = 1#2 →
      MicroWrites (.abs v u) s v u.d (ra &&& 0x7FFFFFFFFFFFFFFF#64) 0 ∧
      MicroWrites (.neg v u) s v u.d (ra ^^^ 0x8000000000000000#64) 0 ∧
      MicroWrites (.copysign v u) s v u.d (ra &&& 0x7FFFFFFFFFFFFFFF#64 ||| rb &&& 0x8000000000000000#64)
        (sigFlag [a, b]))) ∧
  (∀ (s : State) (v : VeIx) (u : MicroOp), LaneReady s v [] →
    let l := s.lane v.val
    let cut := fun (x : W64) => if u.t = 0#2 ∨ u.t = 2#2 then (x.setWidth 32 : W32).setWidth 64 else x
    let const := fun (x : W32) =>
      if u.t = 1#2 then BitVec.ofNat 64 (rnCode .fp64 (Fmt.fp32.decode x.toNat))
      else if u.t = 3#2 then x.signExtend 64 else x.setWidth 64
    (∃ t, exec (.veNop v u) s = .next t ∧ LaneFrame s t v none 0) ∧
    MicroMoves (.mov v u) s v u.d (cut (l.reg u.a.val)) (keyGet l.marks u.a.val) ∧
    (keyGet l.marks u.c.val = none →
      let i := if (l.reg u.c.val).toNat % 2 ^ 32 ≠ 0 then u.a else u.b
      MicroMoves (.sel v u) s v u.d (cut (l.reg i.val)) (keyGet l.marks i.val)) ∧
    MicroWrites (.const v u) s v u.d (const u.imm) 0 ∧
    MicroWrites (.bcast v u) s v u.d (const (l.hdr.consts.getD (u.imm.toNat % 16) 0)) 0 ∧
    (u.t = 3#2 → MicroWrites (.idx v u) s v u.d
      (if u.imm.getLsbD 0 then BitVec.ofNat 64 l.pos else BitVec.ofNat 64 (l.hdr.idxBase.toNat + l.elem)) 0)) ∧
  (∀ (s : State) (v : VeIx) (u : MicroOp), LaneReady s v [u.a, u.b] →
    let a := (s.lane v.val).reg u.a.val
    let b := (s.lane v.val).reg u.b.val
    let a32 : W32 := a.setWidth 32
    let b32 : W32 := b.setWidth 32
    let pr := u.imm.toNat % 8
    let gives := fun (r : Bool) (fl : Flags) => MicroWrites (.cmp v u) s v u.d (if r then 1 else 0) fl
    let x := srcVal s v u u.a
    let y := srcVal s v u u.b
    (u.t = 2#2 → (pr = 0 → gives (decide (a32 = b32)) 0) ∧ (pr = 1 → gives (decide (a32 ≠ b32)) 0) ∧
      (pr = 2 → gives (a32.slt b32) 0) ∧ (pr = 3 → gives (a32.sle b32) 0) ∧ (pr = 4 → gives false 0) ∧
      (pr = 5 → gives (a32.ult b32) 0) ∧ (pr = 6 → gives (a32.ule b32) 0)) ∧
    (u.t = 3#2 → (pr = 0 → gives (decide (a = b)) 0) ∧ (pr = 1 → gives (decide (a ≠ b)) 0) ∧
      (pr = 2 → gives (a.slt b) 0) ∧ (pr = 3 → gives (a.sle b) 0) ∧ (pr = 4 → gives false 0) ∧
      (pr = 5 → gives (a.ult b) 0) ∧ (pr = 6 → gives (a.ule b) 0)) ∧
    (u.t = 0#2 ∨ u.t = 1#2 → x.isNan = false → y.isNan = false →
      (pr = 0 → gives (!fvLt false x y && !fvLt false y x) 0) ∧ (pr = 1 → gives (fvLt false x y || fvLt false y x) 0) ∧
      (pr = 2 → gives (fvLt false x y) 0) ∧ (pr = 3 → gives (fvLt false x y || !fvLt false y x) 0) ∧
      (pr = 4 → gives false 0)) ∧
    (u.t = 0#2 ∨ u.t = 1#2 → ∀ p q m n, x = .fin p m → y = .fin q n →
      (pr = 0 → gives (decide (x.rat = y.rat)) 0) ∧ (pr = 1 → gives (decide (x.rat ≠ y.rat)) 0) ∧
      (pr = 2 → gives (decide (x.rat < y.rat)) 0) ∧ (pr = 3 → gives (decide (x.rat ≤ y.rat)) 0)) ∧
    (u.t = 0#2 ∨ u.t = 1#2 → x.isNan || y.isNan →
      (pr = 0 → gives false (sigFlag [x, y])) ∧ (pr = 1 → gives true (sigFlag [x, y])) ∧ (pr = 2 → gives false flInvalid) ∧
      (pr = 3 → gives false flInvalid) ∧ (pr = 4 → gives true (sigFlag [x, y]))))

/-- R96, R106, R108: CVT copies equal types, sign-extends and wraps between the integer types, rounds into floating point, and
clamps into integers with invalid for a NaN or a value out of range; SCALEB rounds A × 2^B once; RINT rounds to an
integral value and raises nothing for a number. -/
def Obligations.ConversionOps : Prop :=
  ∀ (s : State) (v : VeIx) (u : MicroOp), LaneReady s v [u.a, u.b] →
    let l := s.lane v.val
    let a := l.reg u.a.val
    let a32 : W32 := a.setWidth 32
    let m := l.mode u
    let from_ : BitVec 2 := u.imm.setWidth 2
    (u.t = 2#2 → from_ = 2#2 → MicroWrites (.cvt v u) s v u.d (a32.setWidth 64) 0) ∧
    (u.t = 3#2 → from_ = 3#2 → MicroWrites (.cvt v u) s v u.d a 0) ∧
    (u.t = 3#2 → from_ = 2#2 → MicroWrites (.cvt v u) s v u.d (a32.signExtend 64) 0) ∧
    (u.t = 2#2 → from_ = 3#2 → MicroWrites (.cvt v u) s v u.d (a32.setWidth 64) 0) ∧
    (u.t = 0#2 ∨ u.t = 1#2 → (from_ = 2#2 → MicroRounds (.cvt v u) s v u (.ofRat (a32.toInt : Rat)) 0) ∧
      (from_ = 3#2 → MicroRounds (.cvt v u) s v u (.ofRat (a.toInt : Rat)) 0)) ∧
    (u.t = 0#2 → from_ = 1#2 → MicroRounds (.cvt v u) s v u (Fmt.fp64.decode a.toNat) (sigFlag [Fmt.fp64.decode a.toNat])) ∧
    (u.t = 1#2 → from_ = 0#2 →
      MicroRounds (.cvt v u) s v u (Fmt.fp32.decode a32.toNat) (sigFlag [Fmt.fp32.decode a32.toNat])) ∧
    (u.t = 2#2 ∨ u.t = 3#2 → from_ = 0#2 ∨ from_ = 1#2 →
      let x := (fpOf from_).decode (if from_ = 0#2 then a32.toNat else a.toNat)
      let n := if u.t = 2#2 then 31 else 63
      let gives := fun (i : Int) (fl : Flags) =>
        MicroWrites (.cvt v u) s v u.d (if u.t = 2#2 then (BitVec.ofInt 32 i).setWidth 64 else BitVec.ofInt 64 i) fl
      (x.isNan → gives 0 flInvalid) ∧ (x = .inf true → gives (-2 ^ n) flInvalid) ∧
      (x = .inf false → gives (2 ^ n - 1) flInvalid) ∧
      (∀ p q, x = .fin p q →
        let k : Int := roundOn q 0 p m (s.laneR l m)
        let i := if p then -k else k
        (i < -2 ^ n → gives (-2 ^ n) flInvalid) ∧ (2 ^ n - 1 < i → gives (2 ^ n - 1) flInvalid) ∧
        (-2 ^ n ≤ i → i ≤ 2 ^ n - 1 → gives i (if (k : Rat) = q then 0 else flInexact)))) ∧
    (u.t = 0#2 ∨ u.t = 1#2 →
      let x := srcVal s v u u.a
      let k : Int := max (-5000) (min 5000 (((l.reg u.b.val).setWidth 32 : W32).toInt))
      let rint := fun (y : FVal) (fl : Flags) =>
        MicroWrites (.rint v u) s v u.d (regOf (fpOf u.t) (rnCode (fpOf u.t) y)) fl
      (∀ p q, x = .fin p q → MicroRounds (.scaleb v u) s v u (.fin p (q * pow2 k)) 0 ∧
        rint (.fin p (roundOn q 0 p m 0 : Nat)) 0) ∧
      (∀ p, x = .inf p → MicroRounds (.scaleb v u) s v u (.inf p) 0 ∧ rint (.inf p) 0) ∧
      (x.isNan → MicroRounds (.scaleb v u) s v u x (sigFlag [x]) ∧ rint (.nan false) (sigFlag [x])))

/-- R98, R101, R104, R112: LOAD of an element whose format is that of T, with σ = 0, copies the bytes at
PTR + g × ROW_STRIDE + j × element size into D with the poison mark of their sector. STORE of a register whose type is the
stream's format, with σ = 0 and no slot, copies the register's bytes to that address, poisoned where the register carries a
mark; every other byte of memory reads as before, and no register of the lane changes. No error strikes the on-package network
(R254). -/
def Obligations.LoadAndStoreCopyTheElement : Prop :=
  (∀ (s : State) (v : VeIx) (u : MicroOp), LaneReady s v [] → s.calm →
     let l := s.lane v.val
     let st := l.hdr.streamAt u.s.val
     let a := s.elemAddr v u
     let bs := (s.load l.part.val a st.format.bytes).1
     st.mode = 0 → sameReg st.format u.t = true → s.sigmaOf l.part.val st.slot = 0 →
     s.refused l.part.val a st.format.bytes = none →
     ∃ t, exec (.load v u) s = .next t ∧ (t.lane v.val).reg u.d.val = regOf st.format (leNat (plain bs)) ∧
       keyGet (t.lane v.val).marks u.d.val = firstPoison a bs ∧ (t.lane v.val).opIx = l.opIx + 1 ∧
       (∀ j : Fin 16, j ≠ u.d → (t.lane v.val).reg j.val = l.reg j.val ∧
         keyGet (t.lane v.val).marks j.val = keyGet l.marks j.val) ∧
       (∀ w, w ≠ v.val → t.lane w = s.lane w) ∧ t.cmds = s.cmds ∧ t.pending = s.pending ∧
       (s.cleanAt a st.format.bytes → s.linesGood l.part.val a st.format.bytes → bs = s.bytesRead a st.format.bytes ∧
         SameMemory s t)) ∧
  (∀ (s : State) (v : VeIx) (u : MicroOp), LaneReady s v [] → s.calm →
     let l := s.lane v.val
     let st := l.hdr.streamAt u.s.val
     let a := s.elemAddr v u
     let n := st.format.bytes
     st.mode = 0 → sameReg st.format u.t = true → st.slot = 0xFFFF → a + n ≤ 2 ^ 48 →
     s.refused l.part.val a n = none → s.cleanAt a n → s.linesGood l.part.val a n →
     ∃ t, exec (.store v u) s = .next t ∧
       (∀ i, i < n → t.byteRead (a + i) = [((natLe n (l.reg u.a.val).toNat).getD i 0, (keyGet l.marks u.a.val).isSome)]) ∧
       SameBytesBut s t a n ∧
       (t.lane v.val) = { l with opIx := l.opIx + 1 } ∧ (∀ w, w ≠ v.val → t.lane w = s.lane w) ∧ t.cmds = s.cmds ∧
       SameRegs s t [veStatusOff (v.val / 2) (v.val % 2)])

/-- R109, R110: a reduction op contributes one leaf to accumulator IMM[2:0], made from A: rn(x), rn(x × x) for RSSQ, with a
count of 1. -/
def Obligations.ReductionOpsAddALeaf : Prop :=
  ∀ (s : State) (v : VeIx) (u : MicroOp) (p : Bool) (m : Rat), LaneReady s v [u.a] → u.t = 0#2 ∨ u.t = 1#2 →
    srcVal s v u u.a = .fin p m →
    let f := fpOf u.t
    let l := s.lane v.val
    let adds := fun (i : Instr) (code : Nat) (x y : FVal) =>
      ∃ t, exec i s = .next t ∧ SameMemory s t ∧ t.cmds = s.cmds ∧ (∀ w, w ≠ v.val → t.lane w = s.lane w) ∧
        (∀ j : Fin 16, (t.lane v.val).reg j.val = l.reg j.val) ∧ (t.lane v.val).opIx = l.opIx + 1 ∧
        (t.lane v.val).leaves = l.leaves ++
          [⟨u.imm.toNat % 8, code, u.t == 1#2, BitVec.ofNat 64 (rnCode f x), BitVec.ofNat 64 (rnCode f y), 1⟩]
    adds (.rsum v u) 0x38 (.fin p m) .zero ∧ adds (.rmax v u) 0x39 (.fin p m) .zero ∧
    adds (.rmin v u) 0x3A (.fin p m) .zero ∧ adds (.rssq v u) 0x3B (.fin false (m * m)) .zero ∧
    adds (.rmv v u) 0x3C (.fin p m) .zero ∧ adds (.rsmx v u) 0x3D (.fin p m) (.ofRat 1)

/-- R112: a poison mark bites at the first op that computes with it. The lane keeps the sector, writes no register, and does
nothing more of its list; memory is as before. -/
def Obligations.PoisonBitesWhereAnOpComputes : Prop :=
  ∀ (s : State) (v : VeIx) (u : MicroOp) (g : Nat), (s.lane v.val).stopped = false →
    keyGet (s.lane v.val).marks u.a.val = some g →
    ∀ i ∈ [Instr.add v u, .sub v u, .mul v u, .div v u, .fma v u, .fms v u, .fnma v u, .sqrt v u, .rsqrt v u, .abs v u,
      .neg v u, .copysign v u, .min v u, .max v u, .minnum v u, .maxnum v u, .scaleb v u, .rint v u, .cmp v u, .exp v u,
      .exp2 v u, .log v u, .log2 v u, .sin v u, .cos v u, .tanh v u, .sigmoid v u, .erf v u, .iadd v u, .isub v u, .imul v u,
      .and v u, .or v u, .xor v u, .shl v u, .shr v u, .sar v u, .cvt v u, .rsum v u, .rmax v u, .rmin v u, .rssq v u,
      .rmv v u, .rsmx v u],
      ∃ t, exec i s = .next t ∧ t.lane v.val = { s.lane v.val with bitten := some g, opIx := (s.lane v.val).opIx + 1 } ∧
        (t.lane v.val).stopped = true ∧ t = { s with lanes := t.lanes, regs := t.regs } ∧
        SameRegs s t [veStatusOff (v.val / 2) (v.val % 2)] ∧ ∀ w, w ≠ v.val → t.lane w = s.lane w

/-! ## Rings, commands and jobs -/

/-- R435, R447 to R449: NOP has no effect; READ_REGS puts the values of registers, in ascending offset, and STEP_REPORT the 21
words of the latest closed step into the mailbox, which becomes READY; each then ends with ST_OK.
R430, R435: a command whose parameter words beyond those it defines are not 0 ends with ST_MALFORMED, and a job or module
command in the wrong state ends with ST_STATE; it does nothing else. -/
def Obligations.SimpleAndRefusedCommands : Prop :=
  (∀ (s : State) (c : CmdId) (x : Cmd),
    let f := c.func.val
    let b := x.mbox
    let answers := fun (i : Instr) (n : Nat) (word : Nat → W64) =>
      ∃ t, exec i s = .next t ∧ Ended t c stOk 0 ∧ SameCmds s t c ∧ t = { s with regs := t.regs, cmds := t.cmds } ∧
        SameRegs s t (mailboxRegs f b) ∧ (∀ j, j < n → t.reg (cmdMboxDataOff f b j) = word j) ∧
        t.reg (cmdMboxOff f b) = BitVec.ofNat 64 (c.seq.toNat * 2 ^ 32 + 8 * n * 2 ^ 16 + 2)
    (Begun s c 0x00 x → ZeroFrom x 0 → ∃ t, exec (.nop c) s = .next t ∧ Ended t c stOk 0 ∧ SameCmds s t c ∧ OnlyCmds s t) ∧
    (Begun s c 0x01 x → ZeroFrom x 2 → x.par 0 % 8 = 0 → x.par 0 < 2 ^ 26 → 1 ≤ x.par 1 → x.par 1 < 32 →
      (∀ j, j < x.par 1 → PlainReg c.func (x.par 0 + 8 * j)) →
      answers (.readRegs c) (x.par 1) fun j => s.regView (x.par 0 + 8 * j)) ∧
    (Begun s c 0x02 x → ZeroFrom x 0 →
      answers (.stepReport c) 21 fun j =>
        let r := s.job c.p
        if j = 0 then (match r.lastPlan with
          | some pl => BitVec.ofNat 64 (pl.step.toNat + pl.planId.toNat * 2 ^ 32)
          | none => 0)
        else if j = 1 then r.lastGate
        else if j = 2 then r.lastNorm
        else if j = 3 then s.reg (cmdStepTimeWallOff c.p)
        else if j = 4 then s.reg (cmdStepTimeOwnOff c.p)
        else BitVec.ofNat 64 (r.lastWait.getD (j - 5) 0))) ∧
  (∀ (s : State) (c : CmdId) (x : Cmd),
    let ends := fun (i : Instr) (st : Nat) (d : W64) =>
      ∃ t, exec i s = .next t ∧ Ended t c st d ∧ SameCmds s t c ∧ OnlyCmds s t
    let bad := BitVec.allOnes 64
    (∀ q ∈ [(0x00, Instr.nop c), (0x02, .stepReport c), (0x04, .closeJob c), (0x05, .holdJob c), (0x06, .releaseJob c),
        (0x09, .enterReady c), (0x0A, .enterStandby c)],
      Begun s c q.1 x → ¬ ZeroFrom x 0 → ends q.2 stMalformed bad) ∧
    (Begun s c 0x03 x → (2 ≤ x.par 0 ∨ ¬ ZeroFrom x 1) → ends (.openJob c) stMalformed bad) ∧
    (Begun s c 0x03 x → x.par 0 < 2 → ZeroFrom x 1 → s.jobState c.p ≠ jClosed → ends (.openJob c) stState 0) ∧
    (Begun s c 0x04 x → ZeroFrom x 0 → s.jobState c.p = jClosed → ends (.closeJob c) stState 0) ∧
    (Begun s c 0x05 x → ZeroFrom x 0 → s.jobState c.p ≠ jRun → ends (.holdJob c) stState 0) ∧
    (Begun s c 0x06 x → ZeroFrom x 0 → (s.jobState c.p ≠ jHeld ∨ (s.job c.p).holdByHost = false) →
      ends (.releaseJob c) stState 0) ∧
    (Begun s c 0x09 x → ZeroFrom x 0 → s.modState ≠ mStandby → ends (.enterReady c) stState 0) ∧
    (Begun s c 0x0A x → ZeroFrom x 0 → s.modState ≠ mReady → ends (.enterStandby c) stState 0))

/-- R442, R440: OPEN_JOB opens a CLOSED job to RUN with no plan in force and its deterministic mode, HOLD_JOB holds a
running one, and RELEASE_JOB lets a job that HOLD_JOB holds run on. The module state follows the jobs.
R442, R386: CLOSE_JOB ends every incomplete command of the partition with ST_ABANDONED, empties its rings and clears the
plan in force; its memory keeps its contents, and other partitions' commands and jobs go on. -/
def Obligations.JobsOpenHoldReleaseAndClose : Prop :=
  (∀ (s : State) (c : CmdId) (x : Cmd), c.func ≠ 0 →
    let p := c.p
    let up := s.modState = mReady ∨ s.modState = mRun ∨ s.modState = mHeld
    let job := fun (t : State) => OnlyEventsJobs s t ∧
      SameRegsEv s t [cmdJobStateOff p, modStateOff] ∧ SameCmds s t c ∧ ∀ q, q ≠ p → t.job q = s.job q
    (Begun s c 0x03 x → x.par 0 < 2 → ZeroFrom x 1 → s.jobState p = jClosed → up →
      ∃ t, exec (.openJob c) s = .next t ∧ Ended t c stOk 0 ∧ job t ∧ t.jobState p = jRun ∧ t.planOn p = false ∧
        t.determ p = decide (x.par 0 = 1) ∧ (t.job p).plan = none ∧ t.modState = mRun) ∧
    (Begun s c 0x06 x → ZeroFrom x 0 → s.jobState p = jHeld → (s.job p).holdByHost = true → up →
      ∃ t, exec (.releaseJob c) s = .next t ∧ Ended t c stOk 0 ∧ job t ∧ t.jobState p = jRun ∧ t.modState = mRun ∧
        t.job p = { s.job p with holdByHost := false }) ∧
    (Begun s c 0x05 x → ZeroFrom x 0 → s.jobState p = jRun → up →
      ∃ t, exec (.holdJob c) s = .next t ∧ Ended t c stOk 0 ∧ t.jobState p = jHeld ∧ (t.job p).holdByHost = true ∧
        (∀ q, q < 4 → q ≠ p → t.jobState q = s.jobState q ∧ t.job q = s.job q) ∧
        t.modState = (if [0, 1, 2, 3].any fun q => q != p && s.jobState q == jRun then mRun else mHeld))) ∧
  (∀ (s : State) (c : CmdId) (x : Cmd), c.func ≠ 0 → Begun s c 0x04 x → ZeroFrom x 0 → s.jobState c.p ≠ jClosed →
    let f := c.func.val
    ∃ t, exec (.closeJob c) s = .next t ∧ Ended t c stOk 0 ∧ t.jobState c.p = jClosed ∧ t.planOn c.p = false ∧
      t.determ c.p = false ∧ (∀ r, r < 2 → t.ringHead f r = 0 ∧ t.ringTail f r = 0) ∧
      (∀ d y, d.func = c.func → d ≠ c → s.cmd d = some y → y.phase ≠ .ended → Ended t d stAbandoned 0) ∧
      (∀ d, d.func ≠ c.func → t.cmd d = s.cmd d) ∧ SameMemory s t ∧
      (∀ q, q < 4 → q ≠ c.p → t.jobState q = s.jobState q ∧ t.job q = s.job q) ∧
      (∀ h ∈ t.holders, h.2.func ≠ c.func ∨ h.2 = c ∨ ∀ y, s.cmd h.2 = some y → y.phase = .ended))

/-- R441, R443: ENTER_READY takes the module from STANDBY to READY in power states P0 to P3, and ENTER_STANDBY back while every
job is CLOSED; each raises EV_STATE_CHANGE with the old and the new state (the event's arguments are the model's reading,
assumption 12). R466, R467: SET_POWER_STATE names the target state and waits; when the change is done the state is the target,
the command ends, and EV_POWER_STATE gives the old and the new state. -/
def Obligations.ModuleAndPowerStates : Prop :=
  (∀ (s : State) (c : CmdId) (x : Cmd), ZeroFrom x 0 →
     let tgt := fun (i : Instr) (m : Nat) =>
       ∃ t, exec i s = .next t ∧ Ended t c stOk 0 ∧ t.modState = m ∧ SameCmds s t c ∧ OnlyEventsCmds s t ∧
         SameRegsEv s t [modStateOff] ∧ Announces s t evStateChange none (BitVec.ofNat 64 s.modState) (BitVec.ofNat 64 m)
     (Begun s c 0x09 x → s.modState = mStandby → s.fld pwrStateOff 3 0 ≤ 3 → tgt (.enterReady c) mReady) ∧
     (Begun s c 0x0A x → s.modState = mReady → (∀ p, p < 4 → s.jobState p = jClosed) → tgt (.enterStandby c) mStandby)) ∧
  (∀ (s : State) (c : CmdId) (x : Cmd),
     (Begun s c 0x0B x → ZeroFrom x 1 → x.par 0 ∈ [0, 1, 2, 3, 8, 9] → s.legal x = true → s.power.powerCmd = none →
       x.pending = 0 →
       ∃ t, exec (.setPowerState c) s = .next t ∧ Waits t c 1 ∧ SameCmds s t c ∧ t.fld pwrStateOff 7 4 = x.par 0 ∧
         t.bit pwrStateOff 8 = true ∧ t.fld pwrStateOff 3 0 = s.fld pwrStateOff 3 0 ∧ t.power.powerCmd = some c ∧
         SameRegs s t [pwrStateOff] ∧ t = { s with regs := t.regs, cmds := t.cmds, power := t.power }) ∧
     (s.calm → s.power.powerCmd = some c → s.cmd c = some x → x.phase = .issued → x.pending = 1 → x.fails = [] → x.status = 0 →
       x.detail = 0 → s.fld pwrStateOff 7 4 ≠ 9 →
       ∃ t, exec .powerStateChangeDone s = .next t ∧ Ended t c stOk 0 ∧ t.power.powerCmd = none ∧
         t.fld pwrStateOff 3 0 = s.fld pwrStateOff 7 4 ∧ t.bit pwrStateOff 8 = false ∧ SameCmds s t c ∧
         SameRegsEv s t [pwrStateOff] ∧
         Announces s t evPowerState none (BitVec.ofNat 64 (s.fld pwrStateOff 3 0)) (BitVec.ofNat 64 (s.fld pwrStateOff 7 4))) ∧
     (s.calm → s.power.powerCmd = some c → s.cmd c = some x → x.phase = .issued → x.pending = 1 → x.fails = [] → x.status = 0 →
       x.detail = 0 → s.fld pwrStateOff 7 4 = 9 →
       ∃ t, exec .powerStateChangeDone s = .next t ∧ Ended t c stOk 0 ∧ t.fld pwrStateOff 3 0 = 9 ∧
         ∀ p, p < 64 → t.fld (fabPortStatusOff p) 2 0 = 0))

/-- R425: a doorbell value moves TAIL when it is at most 2^LOG2 ahead of HEAD and 2^31 ahead of TAIL, both modulo 2^32; any
other value is ignored, sets DB_ERR and raises EV_RING_ERROR. R424, R426: a write of CMD_RING_CFG takes VECTOR and EN, takes LOG2
only while EN is 0, and empties the ring when it sets EN; clearing SEQ_ERR clears STOPPED with it. -/
def Obligations.RingRegistersWritten : Prop :=
  (∀ (s : State) (by_ page : Func) (ring : RingIx) (v : W32), s.mayPage by_ page = true → page ≠ 0 ∨ ring = 0 →
     let f := page.val
     let r := ring.val
     let size := 2 ^ Nat.max 6 (Nat.min 16 (s.fld (cmdRingCfgOff f r) 20 16))
     let ahead : W32 := v - BitVec.ofNat 32 (s.fld (cmdRingHeadOff f r) 31 0)
     let moved : W32 := v - BitVec.ofNat 32 (s.fld (cmdRingTailOff f r) 31 0)
     (ahead.toNat ≤ size → moved.toNat ≤ 2 ^ 31 →
       ∃ t, exec (.doorbellWrite by_ page ring v) s = .next t ∧ t.reg (cmdRingTailOff f r) = v.setWidth 64 ∧
         SameRegs s t [cmdRingTailOff f r] ∧ OnlyRegs s t) ∧
     (size < ahead.toNat ∨ 2 ^ 31 < moved.toNat →
       ∃ t, exec (.doorbellWrite by_ page ring v) s = .next t ∧ t.bit (cmdRingStatusOff f r) 1 = true ∧
         t.fld (cmdRingStatusOff f r) 0 0 = s.fld (cmdRingStatusOff f r) 0 0 ∧
         t.fld (cmdRingStatusOff f r) 2 2 = s.fld (cmdRingStatusOff f r) 2 2 ∧
         SameRegsEv s t [cmdRingStatusOff f r] ∧ OnlyEvents s t ∧
         Announces s t evRingError (partOf page) 0 0)) ∧
  (∀ (s : State) (by_ page : Func) (ring : RingIx) (v : W32), s.mayPage by_ page = true → page ≠ 0 ∨ ring = 0 →
     let f := page.val
     let r := ring.val
     let on := s.bit (cmdRingCfgOff f r) 31
     (∃ t, exec (.ringEnable by_ page ring v) s = .next t ∧ OnlyRegs s t ∧
       SameRegs s t [cmdRingCfgOff f r, cmdRingHeadOff f r, cmdRingTailOff f r] ∧
       t.bit (cmdRingCfgOff f r) 31 = v.getLsbD 31 ∧ t.fld (cmdRingCfgOff f r) 10 0 = bitsOf v.toNat 10 0 ∧
       t.fld (cmdRingCfgOff f r) 20 16 = (if on then s.fld (cmdRingCfgOff f r) 20 16 else bitsOf v.toNat 20 16) ∧
       (on = false → v.getLsbD 31 = true → t.reg (cmdRingHeadOff f r) = 0 ∧ t.reg (cmdRingTailOff f r) = 0) ∧
       (on = true ∨ v.getLsbD 31 = false → t.reg (cmdRingHeadOff f r) = s.reg (cmdRingHeadOff f r) ∧
         t.reg (cmdRingTailOff f r) = s.reg (cmdRingTailOff f r))) ∧
     (∃ t, exec (.seqErrClear by_ page ring) s = .next t ∧ OnlyRegs s t ∧ SameRegs s t [cmdRingStatusOff f r] ∧
       t.bit (cmdRingStatusOff f r) 2 = false ∧ t.bit (cmdRingStatusOff f r) 0 = false ∧
       t.bit (cmdRingStatusOff f r) 1 = s.bit (cmdRingStatusOff f r) 1))

/-- R425, R426, R430: a ring's entry lies at ADDR + 64 × (HEAD mod 2^LOG2). One whose SEQ is not NEXT is not consumed: it sets
SEQ_ERR and STOPPED and raises EV_RING_ERROR with the expected and the found value. One whose SEQ is NEXT advances HEAD and
NEXT; refused by a check it ends at once, accepted it waits to start, and nothing else changes (but for the journal of a
partition that the Keeper watches, R395). -/
def Obligations.RingFetchConsumesInOrder : Prop :=
  ∀ (s : State) (page : Func) (ring : RingIx), s.fetches page ring = true →
    let f := page.val
    let r := ring.val
    let size := 2 ^ Nat.max 6 (Nat.min 16 (s.fld (cmdRingCfgOff f r) 20 16))
    let at_ := (s.reg (cmdRingBaseOff f r)).toNat / 64 * 64 + 64 * (s.fld (cmdRingHeadOff f r) 31 0 % size)
    let words := wordsOf (s.hostRead at_ 64)
    let found := (words.getD 0 0).toNat / 2 ^ 32
    let want := s.fld (cmdRingSeqOff f r) 31 0
    let id : CmdId := ⟨page, ring, BitVec.ofNat 32 found⟩
    let x := Cmd.fresh id words false false (s.energyOf id.p words)
    page = 0 ∨ (s.reg (cmdRingBaseOff f r)).toNat % 2 = 0 →
    (found ≠ want →
      ∃ t, exec (.ringFetch page ring) s = .next t ∧ t.cmds = s.cmds ∧ t.bit (cmdRingStatusOff f r) 2 = true ∧
        t.bit (cmdRingStatusOff f r) 0 = true ∧ SameRegsEv s t [cmdRingStatusOff f r] ∧ OnlyEvents s t ∧
        Announces s t evRingError (partOf page) (BitVec.ofNat 64 want) (BitVec.ofNat 64 found)) ∧
    (found = want → s.cmd id = none → page = 0 ∨ ring ≠ 0 ∨ s.bit (kprCtrlOff id.p) 0 = false ∨ packetOk x = false ∨
        s.legal x = false →
      ∃ t y, exec (.ringFetch page ring) s = .next t ∧ t.cmd id = some y ∧ y.words = words ∧ SameCmds s t id ∧
        t.fld (cmdRingHeadOff f r) 31 0 = (s.fld (cmdRingHeadOff f r) 31 0 + 1) % 2 ^ 32 ∧
        t.fld (cmdRingSeqOff f r) 31 0 = (want + 1) % 2 ^ 32 ∧
        SameRegs s t [cmdRingHeadOff f r, cmdRingSeqOff f r] ∧ SameMemory s t ∧ t.holders = s.holders ∧ t.out = s.out ∧
        t.hostMem = s.hostMem ∧
        (packetOk x = false → y.phase = .ended ∧ y.status = stMalformed ∧ y.detail = BitVec.allOnes 64) ∧
        (packetOk x = true → s.legal x = false → y.phase = .ended ∧ y.status = stState ∧ y.detail = 0) ∧
        (packetOk x = true → s.legal x = true → s.mailboxFree x = false → y.phase = .ended ∧ y.status = stMailboxBusy) ∧
        (packetOk x = true → s.legal x = true → s.mailboxFree x = true → y.phase = .consumed)) ∧
    (found = want → s.cmd id = none → s.refusal x = none →
      ∃ t, exec (.ringFetch page ring) s = .next t ∧ ∃ y ∈ t.cmds, y.id = id ∧ y.words = words ∧ y.phase = .consumed)

/-- R429, R356, R447: a command that its ring and partition let start takes the engines it needs and its mailbox.
R122, R206: a vector engine or a sector unit that it takes shows RUN and its partition. -/
def Obligations.CommandStartTakesEngines : Prop :=
  ∀ (s : State) (c : CmdId) (x : Cmd), s.cmd c = some x → s.ready x = true → s.granted x = true → s.mailboxFree x = true →
    ∃ t, exec (.commandStart c) s = .next t ∧ t.cmd c = some { x with phase := .started } ∧ SameCmds s t c ∧
      SameMemory s t ∧ (∀ e ∈ s.needs x, keyGet t.holders e = some c ∧ keyGet t.grants e = some c.p) ∧
      (∀ e, e ∉ s.needs x → keyGet t.holders e = keyGet s.holders e) ∧
      (∀ e ∈ s.needs x, 96 ≤ e → e < 112 → t.fld (veStatusOff ((e - 96) / 2) ((e - 96) % 2)) 31 28 = 4 + c.p) ∧
      (∀ e ∈ s.needs x, 112 ≤ e → e < 120 → t.fld (suStatusOff (e - 112)) 31 28 = 4 + c.p) ∧
      (resultOps.contains x.opcode = true → resultOk x = true →
        t.reg (cmdMboxOff c.func.val x.mbox) = BitVec.ofNat 64 (c.seq.toNat * 2 ^ 32 + 1) ∧
        SameRegs s t [cmdMboxOff c.func.val x.mbox]) ∧
      (resultOps.contains x.opcode = false →
        SameRegs s t (((s.needs x).map fun e => if e < 112 then veStatusOff ((e - 96) / 2) ((e - 96) % 2) else suStatusOff (e - 112)) ++
          (if x.opcode = 0x14 then [galDmaSparseOff (x.convEngine / 4) (x.convEngine % 4)] else [])))

/-- R431, R432, R447, R63: an ended command leaves the module and gives its engines back. Its record, DETAIL behind the first
word, is in host memory at CMPL_PTR; one that failed leaves its mailbox READY with LENGTH 0. -/
def Obligations.CompletionWritesTheRecord : Prop :=
  ∀ (s : State) (c : CmdId) (x : Cmd), s.cmd c = some x → x.phase = .ended →
    (∃ t, exec (.commandComplete c) s = .next t ∧ t.cmd c = none ∧ SameCmds s t c ∧ ∀ h ∈ t.holders, h.2 ≠ c) ∧
    (c.func = 0 ∨ c.ring ≠ 0 ∨ x.status = stAbandoned → x.cmplLocal = false → x.word 1 % 16 = 0 →
      ∃ t, exec (.commandComplete c) s = .next t ∧
        let part := decide (c.func ≠ 0)
        let first := x.status + s.modState * 2 ^ 16 + (if part then s.jobState c.p else 0) * 2 ^ 20 +
          (if part && s.planOn c.p then 1 else 0) * 2 ^ 23 + (if x.replay then 1 else 0) * 2 ^ 24 +
          (if x.dform then 1 else 0) * 2 ^ 25 + c.seq.toNat * 2 ^ 32
        t.hostRead (x.word 1) 16 = natLe 8 first ++ natLe 8 x.detail.toNat ∧
        (∀ a, a < 2 ^ 64 → (a < x.word 1 ∨ x.word 1 + 16 ≤ a) → t.hostRead a 1 = s.hostRead a 1) ∧ SameMemory s t ∧
        (resultOps.contains x.opcode = true → x.status ≠ stOk →
          s.reg (cmdMboxOff c.func.val x.mbox) = BitVec.ofNat 64 (c.seq.toNat * 2 ^ 32 + 1) →
          t.reg (cmdMboxOff c.func.val x.mbox) = BitVec.ofNat 64 (c.seq.toNat * 2 ^ 32 + 2)) ∧
        (x.irq = false → t.out = s.out))

/-- R447, R446: a read of the ready word in READY counts in READS, up to 255, and leaves the data as it is; an acknowledgement
empties the READY mailboxes that it names and changes no other. R453, R451: setting EN of CMD_EV_CFG sets HEAD, TAIL and LOST to
0; a HEAD write that would pass TAIL is ignored, and any other moves HEAD. -/
def Obligations.MailboxesAndEventRingRegisters : Prop :=
  (∀ (s : State) (by_ page : Func) (b : Fin 16) (v : W32), s.mayPage by_ page = true →
     let f := page.val
     let o := cmdMboxOff f b.val
     (∃ t, exec (.mailboxReadyRead by_ page b) s = .next t ∧ SameRegs s t [o] ∧
       t = { s with regs := t.regs, out := t.out } ∧ t.out = s.out ++ [.readData by_ (natLe 8 (t.reg o).toNat) false] ∧
       (s.fld o 1 0 ≠ 2 → t.reg o = s.reg o) ∧
       (s.fld o 1 0 = 2 → t.fld o 15 8 = Nat.min 255 (s.fld o 15 8 + 1) ∧ t.fld o 63 16 = s.fld o 63 16 ∧
         t.fld o 7 0 = s.fld o 7 0)) ∧
     (∃ t, exec (.mailboxAck by_ page v) s = .next t ∧ OnlyRegs s t ∧
       (∀ k, k < 16 → v.getLsbD k = true → s.fld (cmdMboxOff f k) 1 0 = 2 → ∀ q ∈ mailboxRegs f k, t.reg q = 0) ∧
       (∀ k, k < 16 → v.getLsbD k = false ∨ s.fld (cmdMboxOff f k) 1 0 ≠ 2 → ∀ q ∈ mailboxRegs f k, t.reg q = s.reg q) ∧
       SameRegs s t ((List.range 16).flatMap (mailboxRegs f)))) ∧
  (∀ (s : State) (by_ page : Func) (v : W32), s.mayPage by_ page = true →
     let f := page.val
     let ahead : W32 := v - BitVec.ofNat 32 (s.fld (cmdEvHeadOff f) 31 0)
     let used : W32 := BitVec.ofNat 32 (s.fld (cmdEvTailOff f) 31 0) - BitVec.ofNat 32 (s.fld (cmdEvHeadOff f) 31 0)
     (∃ t, exec (.eventRingEnable by_ page v) s = .next t ∧ t.bit (cmdEvCfgOff f) 31 = v.getLsbD 31 ∧
       t.fld (cmdEvCfgOff f) 10 0 = bitsOf v.toNat 10 0 ∧ t.fld (cmdEvCfgOff f) 20 16 = bitsOf v.toNat 20 16 ∧
       (page ≠ 0 → s.bit (cmdEvCfgOff f) 31 = false → v.getLsbD 31 = true → t.reg (cmdEvHeadOff f) = 0 ∧
         t.reg (cmdEvTailOff f) = 0 ∧ t.reg (cmdEvLostOff f) = 0) ∧
       (page = 0 → s.bit (cmdEvCfgOff f) 31 = false → v.getLsbD 31 = true → s.heldLost = 0 → t.reg (cmdEvHeadOff f) = 0 ∧
         t.heldEv = [] ∧ t.evOpen = true ∧ (s.heldEv.length ≤ 8 → t.fld (cmdEvTailOff f) 31 0 = s.heldEv.length)) ∧
       SameRegsEv s t [cmdEvCfgOff f, cmdEvHeadOff f]) ∧
     (∃ t, exec (.eventHeadWrite by_ page v) s = .next t ∧ SameRegsEv s t [cmdEvHeadOff f] ∧
       (used.toNat < ahead.toNat → t = s) ∧ (ahead.toNat ≤ used.toNat → t.reg (cmdEvHeadOff f) = v.setWidth 64)))

/-- R420, R421, R257, R258: a BAR2 read of the function's own memory completes with its bytes, EP set where one of them is poisoned,
which raises EV_POISON_CONSUMED; of clean memory it has no other effect. A write stores its bytes. An access that is refused adds 1 to MOD_BAR_ERR and raises EV_BAR_BOUNDS; a
read of that kind completes with Completer Abort, and a write is dropped. -/
def Obligations.Bar2ReachesOwnMemory : Prop :=
  ∀ (s : State) (f : Func) (off : BitVec 40) (n : Nat) (bytes : List Byte) (ep : Bool) (p : Part),
    s.inBar2 f off.toNat = true → (s.func f.val).bar2 = 40 → partOf f = some p →
    let a := if off.toNat < 0xC000000000 then off.toNat else 0x100000000000 + (off.toNat - 0xC000000000)
    (off.toNat < 0xC600000000 → s.refused p.val a n = none →
      let bs := (s.readMem a n).1
      ∃ t, exec (.bar2Read f off n) s = .next t ∧ t.out.getLast? = some (.readData f (plain bs) (anyPoison bs)) ∧
        (s.cleanAt a n → bs = clean (plain bs) ∧ t = { s with out := s.out ++ [.readData f (plain bs) false] }) ∧
        (∀ g, 0x100000000000 ≤ a → firstPoison a bs = some g →
          Announces s t evPoisonConsumed (some p) (s.globalOf p.val g) (BitVec.ofNat 64 (Config.blockCode blkHost)))) ∧
    (off.toNat < 0xC600000000 → s.refused p.val a bytes.length = none → s.cleanAt a bytes.length → s.calm →
      s.linesGood (s.bar2Part a) a bytes.length →
      ∃ t, exec (.bar2Write f off bytes ep) s = .next t ∧
        (∀ i, i < bytes.length → t.byteRead (a + i) = [(bytes.getD i 0, ep)]) ∧ SameBytesBut s t a bytes.length ∧
        SameRegs s t [] ∧ t.cmds = s.cmds) ∧
    (∀ b, off.toNat < 0xC600000000 → s.refused p.val a n = some b →
      ∃ t, exec (.bar2Read f off n) s = .next t ∧ t.reg modBarErrOff = s.reg modBarErrOff + 1 ∧ SameMemory s t ∧
        SameRegsEv s t [modBarErrOff, galErrOff (homeLan b)] ∧ t.bit (galErrOff (homeLan b)) 1 = true ∧
        t.out.getLast? = some (.completerAbort f) ∧ Announces s t evBarBounds (some p) (off.setWidth 64) 0) ∧
    (0xC600000000 ≤ off.toNat →
      (∃ t, exec (.bar2Read f off n) s = .next t ∧ t.reg modBarErrOff = s.reg modBarErrOff + 1 ∧
        SameRegsEv s t [modBarErrOff] ∧ t.out.getLast? = some (.completerAbort f) ∧
        Announces s t evBarBounds (some p) (off.setWidth 64) 0) ∧
      (∃ t, exec (.bar2Write f off bytes ep) s = .next t ∧ t.reg modBarErrOff = s.reg modBarErrOff + 1 ∧
        SameRegsEv s t [modBarErrOff] ∧ OnlyEvents s t ∧ Announces s t evBarBounds (some p) (off.setWidth 64) 0))

/-- R417, R418: a function level reset closes the partition's job of a VF and resets the function's rings, mailboxes and event
ring; configuration writes put a function into D0 or D3hot, size BAR2 within 1 GiB to 1 TiB (one size for all VFs), enable the
VFs, and set MSI-X (its mask and enable are the model's reading of PCI Express, assumption 2). -/
def Obligations.FunctionsResetAndConfigured : Prop :=
  ∀ (s : State) (f : Func),
    (∃ t, exec (.functionLevelReset f) s = .next t ∧
      (∀ o, 0x1000000 + 0x100000 * f.val ≤ o → o < 0x1004000 + 0x100000 * f.val → t.reg o = regReset o) ∧
      (∀ p, partOf f = some p → t.jobState p.val = jClosed) ∧ SameMemory s t ∧
      (f = 0 → (∀ o, o < 0x1000000 → t.reg o = s.reg o) ∧ t.cmds = s.cmds ∧ t.jobs = s.jobs)) ∧
    (mStandby ≤ s.modState →
      let tgt := fun (w : CfgWrite) (r : State → Prop) => ∃ t, exec (.configurationRequest w) s = .next t ∧ r t
      tgt (.powerD0 f) (fun t => (t.func f.val).d3hot = false ∧ t = { s with funcs := t.funcs }) ∧
      tgt (.powerD3hot f) (fun t => (t.func f.val).d3hot = true ∧ t = { s with funcs := t.funcs } ∧ t.hostUp f = false) ∧
      (∀ n, tgt (.bar2Size f n) fun t => t = { s with funcs := t.funcs } ∧
        (∀ g, g < 5 → (t.func g).bar2 = if (g = 0 ↔ f = 0) then Nat.max 30 (Nat.min 40 n) else (s.func g).bar2)) ∧
      (∀ on, tgt (.sriovVfEnable on) fun t => t = { s with vfEnable := on }) ∧
      (∀ on, tgt (.msixEnable f on) fun t => (t.func f.val).msixEn = on ∧
        (on = false → t = { s with funcs := t.funcs })) ∧
      (∀ on, tgt (.msixFunctionMask f on) fun t => (t.func f.val).msixMask = on ∧
        (on = true → t = { s with funcs := t.funcs })))

/-! ## Time, power, reset and boot -/

/-- R458, R537, R362: on an empty queue a nanosecond passes (the model's tick, assumption 19). In OFF and RESET nothing happens; past
them MOD_TIME advances by 1 while nothing disciplines it, and from STANDBY on each partition's nanosecond is charged to exactly
one cause. No command, no byte of memory and no queue changes: beside the counters and the regulators' buckets, engines
that were yielded may go back to their commands (R356), and an error may strike what byte parity covers (assumption 115).
R537, R541, R542: every PPS edge is counted. The first edge after reset or after LOCK has cleared steps MOD_TIME forward to the
next multiple of 10^9 ns and sets LOCK; a later one records MOD_TIME minus the nearest multiple and steps nothing. LOCK clears
when no edge arrives. -/
def Obligations.TimePasses : Prop :=
  (∀ s : State, s.pending = [] → s.timeSub < 1000000 →
    (s.modState < mBoot → step s = .next s) ∧
    (mBoot ≤ s.modState → s.bit modPpsOff 0 = false →
      ∃ t, step s = .next t ∧ t.reg modTimeOff = s.reg modTimeOff + 1 ∧
        t = { s with regs := t.regs, buckets := t.buckets, meSub := t.meSub, holders := t.holders, yielded := t.yielded,
                     prot := t.prot, mem := t.mem, mes := t.mes, fabric := t.fabric } ∧
        t.mem = { s.mem with tags := t.mem.tags } ∧ (∀ e, (t.me e).queue = (s.me e).queue) ∧
        t.fabric = { s.fabric with send := t.fabric.send, recv := t.fabric.recv } ∧
        t.reg pwrCapNsOff = s.reg pwrCapNsOff + (if s.fld pwrLevelOff 8 0 = 0 then 0 else 1) ∧
        t.reg pwrThermNsOff = s.reg pwrThermNsOff + (if s.fld pwrLevelOff 24 16 = 0 then 0 else 1) ∧
        (mStandby ≤ s.modState → ∀ p, p < 4 →
          ∃ i, i < 16 ∧ ∀ j, j < 16 → t.reg (cmdWaitOff p j) = s.reg (cmdWaitOff p j) + if j = i then 1 else 0) ∧
        (s.modState < mStandby → s.yielded = [] → SameRegs s t [modTimeOff, pwrCapNsOff, pwrThermNsOff]))) ∧
  (∀ s : State, mBoot ≤ s.modState →
    let time := (s.reg modTimeOff).toNat
    (∃ t, exec .ppsEdge s = .next t ∧ t.reg modPpsEdgesOff = s.reg modPpsEdgesOff + 1 ∧ t.bit modPpsOff 16 = true ∧
      SameRegs s t [modPpsEdgesOff, modPpsOff, modTimeOff] ∧
      t = { s with regs := t.regs, timeSub := t.timeSub, ppsErr := t.ppsErr } ∧
      (s.bit modPpsOff 0 = false → t.reg modTimeOff = s.reg modTimeOff) ∧
      (s.bit modPpsOff 0 = true → s.bit modPpsOff 16 = false → time ≤ 2 ^ 64 - 10 ^ 9 →
        (t.reg modTimeOff).toNat % 10 ^ 9 = 0 ∧ time ≤ (t.reg modTimeOff).toNat ∧ (t.reg modTimeOff).toNat < time + 10 ^ 9) ∧
      (s.bit modPpsOff 0 = true → s.bit modPpsOff 16 = true → t.reg modTimeOff = s.reg modTimeOff ∧
        ∃ k e : Int, (time : Int) = k * 10 ^ 9 + e ∧ -(5 * 10 ^ 8) ≤ e ∧ e ≤ 5 * 10 ^ 8 ∧
          t.fld modPpsOff 63 32 = (BitVec.ofInt 32 e).toNat)) ∧
    (∃ t, exec .ppsLockLoss s = .next t ∧ t.bit modPpsOff 16 = false ∧ SameRegs s t [modPpsOff] ∧
      t = { s with regs := t.regs, ppsErr := 0 }))

/-- R475, R481, R482: the first droop of an island begins a stretch and is counted, and its end ends it; a change of the input range
raises EV_INPUT_RANGE; the tenth comparison in a row outside TOL, and the hundredth within it, change the calibration and raise
EV_ENERGY_CAL, and another comparison is counted.
R472, R480, R489: at the end of an interval the cap level follows the rule from the input power P of rail 35 and the mean of
the last up to 100 intervals; AVG, INPUT and the rails' samples are shown, and the energy counters grow by exactly the measured
input energy. -/
def Obligations.PowerIsRegulated : Prop :=
  (∀ (s : State) (isl : Island) (mv : Nat) (out : Bool) (est meas : Nat), mBoot ≤ s.modState →
    (isl ∉ s.power.stretched → ∃ t, exec (.droopDetect isl) s = .next t ∧ isl ∈ t.power.stretched ∧
      t.reg pwrDroopsOff = s.reg pwrDroopsOff + 1 ∧ SameRegs s t [pwrDroopsOff] ∧
      t = { s with regs := t.regs, power := t.power }) ∧
    (∃ t, exec (.droopEnd isl) s = .next t ∧ isl ∉ t.power.stretched ∧ t = { s with power := t.power } ∧
      ∀ k, k ≠ isl → (k ∈ t.power.stretched ↔ k ∈ s.power.stretched)) ∧
    (s.power.inRange = out → ∃ t, exec (.inputRangeChange mv out) s = .next t ∧ t.power.inRange = !out ∧
      SameRegsEv s t [] ∧ t.cmds = s.cmds ∧ SameMemory s t ∧
      Announces s t evInputRange none (BitVec.ofNat 64 mv) (if out then 1 else 0)) ∧
    (let cal := s.bit pwrCalOff 31
     let outside := decide (s.fld pwrCalOff 7 0 * meas < ((est : Int) - meas).natAbs * 1000)
     let run := if outside = cal then 0 else s.power.calRun + 1
     ∃ t, exec (.calibrationCheck est meas) s = .next t ∧ t.cmds = s.cmds ∧ SameMemory s t ∧
      SameRegsEv s t [pwrCalOff] ∧ t.fld pwrCalOff 7 0 = s.fld pwrCalOff 7 0 ∧
      (0 < meas → ∀ d : Int, d = (((est : Int) - meas) * 1000).tdiv meas → -32768 ≤ d → d ≤ 32767 →
        t.fld pwrCalOff 23 8 = (BitVec.ofInt 16 d).toNat) ∧
      (run = (if cal then 100 else 10) → t.bit pwrCalOff 31 = !cal ∧ t.power.calRun = 0 ∧
        (s.evOpen = false → s.heldEv.length < 8 → t.heldEv.length = s.heldEv.length + 1)) ∧
      (run ≠ (if cal then 100 else 10) → t.bit pwrCalOff 31 = cal ∧ t.power.calRun = run ∧ t.heldEv = s.heldEv))) ∧
  (∀ (s : State) (x : CapSample), mBoot ≤ s.modState → x.rails.length = 36 → x.estPart.length = 4 →
    s.bit pwrCalOff 31 = false →
    let p := ((x.rails.getD 35 ⟨0, 0, 0⟩).milliWatt)
    let ins : List Nat := (p :: s.power.inputs).take 100
    let sum : Nat := ins.foldl (· + ·) 0
    let n := ins.length
    let limit : Int := Nat.min 4000 (s.fld pwrCapOff 63 48)
    let target : Int := limit - Nat.max 100 (s.fld pwrCapOff 37 28)
    let l := s.fld pwrLevelOff 8 0
    ∃ t, exec (.capInterval x) s = .next t ∧ t.power.inputs = ins ∧ t.cmds = s.cmds ∧ SameMemory s t ∧
      ((limit - 25) * 1000 * n < sum → t.fld pwrLevelOff 8 0 = 256) ∧
      ((sum : Int) ≤ (limit - 25) * 1000 * n → target * 1000 < p →
        t.fld pwrLevelOff 8 0 = Nat.min 256 (l + Nat.max 1 (s.fld pwrCapOff 15 8))) ∧
      ((sum : Int) ≤ (limit - 25) * 1000 * n → (p : Int) ≤ target * 1000 →
        (p : Int) < (target - s.fld pwrCapOff 27 18) * 1000 → t.fld pwrLevelOff 8 0 = l - s.fld pwrCapOff 7 0) ∧
      ((sum : Int) ≤ (limit - 25) * 1000 * n → (p : Int) ≤ target * 1000 →
        (target - s.fld pwrCapOff 27 18) * 1000 ≤ p → t.fld pwrLevelOff 8 0 = l) ∧
      t.fld pwrLevelOff 47 32 = p / 1000 % 2 ^ 16 ∧ t.fld pwrLevelOff 63 48 = sum / (1000 * n) % 2 ^ 16 ∧
      t.fld pwrLevelOff 24 16 = s.fld pwrLevelOff 24 16 ∧
      t.reg pwrEInputOff = s.reg pwrEInputOff + BitVec.ofNat 64 x.inputUj ∧
      (∀ q, q < 4 → t.reg (pwrEPartOff q) = s.reg (pwrEPartOff q) + BitVec.ofNat 64
        (if x.estPart.foldl (· + ·) x.estStatic = 0 then 0
         else x.inputUj * x.estPart.getD q 0 / x.estPart.foldl (· + ·) x.estStatic)) ∧
      (t.reg (pwrEPartOff 0) - s.reg (pwrEPartOff 0)) + (t.reg (pwrEPartOff 1) - s.reg (pwrEPartOff 1)) +
        (t.reg (pwrEPartOff 2) - s.reg (pwrEPartOff 2)) + (t.reg (pwrEPartOff 3) - s.reg (pwrEPartOff 3)) +
        (t.reg pwrEUnattrOff - s.reg pwrEUnattrOff) = BitVec.ofNat 64 x.inputUj)

/-- R477 to R479, R441: a reading at TRIP asserts THERM_TRIP_N and stops the module; one at a throttle threshold raises the thermal
level by 4, up to 256; readings 3 °C below every threshold lower it by 1. The coolant stop sets both levels to 256, puts the module
into PROTECT and every open job into FAULT.
R8, R441, R457, R521, R523, R526: the supply, PERST_N and a write of MOD_CTRL.RESET put every register at its reset value, drop
everything in progress, and keep the flashes; the version tags are cleared, and the bytes of memory are lost with the supply alone
(R156). An internal fault puts the module into
FAULT, and every open job. -/
def Obligations.StopsResetsAndFaults : Prop :=
  (∀ (s : State) (temps : List Int),
    let stack := fun (i : Nat) => 32 ≤ i ∧ i < 48
    let trip : Nat → Int := fun i => if stack i then 10 * s.fld pwrThermOff 15 8 else 10 * s.fld pwrThermOff 31 24
    let hot : Nat → Int := fun i => if stack i then 10 * s.fld pwrThermOff 7 0 else 10 * s.fld pwrThermOff 23 16
    let at_ := fun (f : Int → Nat → Prop) => ∃ i, i < 54 ∧ i < temps.length ∧ f (temps.getD i 0) i
    let level := s.fld pwrLevelOff 24 16
    let up := s.modState = mStandby ∨ s.modState = mReady ∨ s.modState = mRun ∨ s.modState = mHeld
    let stops := fun (t : State) => t.modState = mProtect ∧
      (∀ p, p < 4 → t.jobState p = if s.jobState p = jClosed then jClosed else jFault) ∧ SameMemory s t
    (mBoot ≤ s.modState → (∀ i, i < 54 → i < temps.length → -32768 ≤ temps.getD i 0 ∧ temps.getD i 0 ≤ 32767) →
      ∃ t, exec (.thermalReading temps) s = .next t ∧
        (∀ i, i < 54 → i < temps.length → t.fld (pwrTempOff i) 15 0 = (BitVec.ofInt 16 (temps.getD i 0)).toNat) ∧
        (at_ (fun x i => trip i ≤ x) → t.bit modSidebandOff 17 = true ∧ (up → stops t)) ∧
        (¬ at_ (fun x i => trip i ≤ x) → at_ (fun x i => hot i ≤ x) →
          t.fld pwrLevelOff 24 16 = Nat.min 256 (level + 4) ∧ t.cmds = s.cmds ∧ SameMemory s t) ∧
        (¬ at_ (fun x i => trip i ≤ x) → ¬ at_ (fun x i => hot i ≤ x) → ¬ at_ (fun x i => hot i < x + 30) →
          t.fld pwrLevelOff 24 16 = level - 1 ∧ OnlyRegs s t) ∧
        (¬ at_ (fun x i => trip i ≤ x) → ¬ at_ (fun x i => hot i ≤ x) → at_ (fun x i => hot i < x + 30) →
          t.fld pwrLevelOff 24 16 = level ∧ OnlyRegs s t)) ∧
    (up → ∃ t, exec .coolantStop s = .next t ∧ t.fld pwrLevelOff 8 0 = 256 ∧ t.fld pwrLevelOff 24 16 = 256 ∧ stops t)) ∧
  (∀ (s : State) (v : W32),
    let cleared := fun (t : State) => t.cmds = [] ∧ t.jobs = [] ∧ t.changes = [] ∧ t.fabric = Fabric.reset ∧
      t.holders = [] ∧ t.exchs = [] ∧ t.boot.idFlash = s.boot.idFlash ∧ t.boot.records = s.boot.records ∧
      t.hostMem = s.hostMem ∧ t.pending = s.pending
    let warm := fun (i : Instr) => ∃ t, exec i s = .next t ∧ cleared t ∧ (∀ o, t.reg o = regReset o) ∧
      t.mem = { s.mem with tags := [] } ∧ t.modState = mReset ∧ t.boot.keyStore = s.boot.keyStore
    let off := fun (i : Instr) => ∃ t, exec i s = .next t ∧ cleared t ∧ (∀ o, o ≠ modStateOff → t.reg o = regReset o) ∧
      t.mem = Memory.reset ∧ t.modState = mOff ∧ t.pins.powered = false ∧ t.boot.keyStore = none
    (s.pins.powered = true → off .supplyLoss ∧ off .overvoltageShutdown) ∧
    (s.pins.powered = false → ∃ t, exec .supplyOn s = .next t ∧ cleared t ∧ (∀ o, t.reg o = regReset o) ∧
      t.mem = Memory.reset ∧ t.modState = mReset ∧ t.pins.powered = true) ∧
    (s.modState ≠ mOff → s.modState ≠ mReset → warm .perstAssert) ∧
    (s.hostUp 0 = true → v.getLsbD 0 = true → warm (.moduleResetWrite 0 v)) ∧
    (s.modState = mStandby ∨ s.modState = mReady ∨ s.modState = mRun ∨ s.modState = mHeld →
      ∃ t, exec .internalFault s = .next t ∧ t.modState = mFault ∧ SameMemory s t ∧
        ∀ p, p < 4 → t.jobState p = if s.jobState p = jClosed then jClosed else jFault))

/-- R493 to R495, R504, R525, R535: BOOT begins once PERST_N is deasserted and 100 ms have passed in RESET, with the straps latched;
a daymark that does not verify ends it in FAULT with cause 1, and one that does gives PWR_THERM its trip points (what the section
holds where is the model's free value, assumption 66). When a slot's image passes every check and HBM has trained, BOOT
ends in STANDBY with all of memory zero; without coolant it ends in PROTECT, without training in FAULT with cause 3, and where
neither slot passes in FAULT with cause 2. -/
def Obligations.BootEndsInStandbyOrStops : Prop :=
  ∀ (s : State) (fp : List Byte) (trained : Bool),
    let begins := fun (t : State) => t.fld modSidebandOff 5 0 = s.pins.trayId % 64 ∧
      t.fld modSidebandOff 11 8 = s.pins.slotId % 16 ∧ SameMemory s t ∧
      (s.dmOk = true → t.modState = mBoot ∧ t.fld bootStatusOff 31 28 = 2 ∧
        t.fld pwrThermOff 31 24 = s.dmTrip false false ∧ t.fld pwrThermOff 15 8 = s.dmTrip true false) ∧
      (s.dmOk = false → t.modState = mFault ∧ t.fld bootStatusOff 27 24 = 1)
    let a := s.bootRec.prefer % 2
    let boots := fun (t : State) (slot : Nat) => t.modState = mStandby ∧ t.mem = Memory.reset ∧
      t.fld bootStatusOff 31 28 = 4 ∧ t.fld bootStatusOff 5 5 = slot
    (s.modState = mReset → s.boot.minDone = true → ∃ t, exec (.perstDeassert fp) s = .next t ∧ begins t) ∧
    (s.modState = mReset → s.boot.minDone = false → ∃ t, exec (.perstDeassert fp) s = .next t ∧
      t.pins.perst = false ∧ OnlyRegs { s with pins := t.pins, boot := t.boot } t ∧ t.modState = mReset) ∧
    (s.modState = mReset → s.pins.perst = false → ∃ t, exec .resetMinimumElapsed s = .next t ∧ begins t) ∧
    (s.modState = mReset → s.pins.perst = true → ∃ t, exec .resetMinimumElapsed s = .next t ∧
      t = { s with boot := { s.boot with minDone := true } }) ∧
    (s.modState = mBoot → ∃ t, exec (.bootComplete trained) s = .next t ∧
      (s.slotCheck a = 0 → s.pins.coolantOk = true → trained = true → boots t a) ∧
      (s.slotCheck a ≠ 0 → s.slotCheck (1 - a) = 0 → s.pins.coolantOk = true → trained = true →
        boots t (1 - a) ∧ t.bit bootStatusOff 6 = true) ∧
      (s.slotCheck a = 0 ∨ s.slotCheck (1 - a) = 0 → s.pins.coolantOk = false → t.modState = mProtect) ∧
      (s.slotCheck a = 0 ∨ s.slotCheck (1 - a) = 0 → s.pins.coolantOk = true → trained = false →
        t.modState = mFault ∧ t.fld bootStatusOff 27 24 = 3) ∧
      (s.slotCheck a ≠ 0 → s.slotCheck (1 - a) ≠ 0 → t.modState = mFault ∧ t.fld bootStatusOff 27 24 = 2))

/-- R507, R508, R519: START outside STANDBY ends with RESULT STATE, a staging area that is not aligned with BOUNDS, and an image that
passes sets BUSY until the slot that did not boot has been written and preferred, or has failed; RAISE raises MIN_SVN to the
running image's SVN and adds the REVOKE bits but the running key's; a read of BOOT_DM_DATA gives eight bytes and advances OFFSET. -/
def Obligations.FirmwareUpdateRollbackAndDaymark : Prop :=
  ∀ (s : State) (v : W32), s.hostUp 0 = true →
    let slot := 1 - s.fld bootStatusOff 5 5
    let a := s.fld bootUpdAddrOff 47 0
    let n := s.fld bootUpdLenOff 24 0
    let image := fun o k => plain (s.readMem (a + o) k).1
    let ends := fun (i : Instr) (res : Nat) (w : Nat) => ∃ t, exec i s = .next t ∧ t.fld bootUpdCtrlOff 11 8 = res ∧
      t.bit bootUpdCtrlOff 1 = false ∧ t.bit bootUpdCtrlOff 2 = true ∧ t.boot.updSlot = none ∧
      Announces s t evFwUpdate none (BitVec.ofNat 64 res) (BitVec.ofNat 64 w) ∧ SameMemory s t ∧
      (res ≠ 0 → t.boot.records = s.boot.records)
    (s.bit bootUpdCtrlOff 1 = false → s.modState ≠ mStandby → ends (.fwUpdateStart 0) 8 slot) ∧
    (s.bit bootUpdCtrlOff 1 = false → s.modState = mStandby → a % 4096 ≠ 0 → ends (.fwUpdateStart 0) 10 slot) ∧
    (s.bit bootUpdCtrlOff 1 = true → ∃ t, exec (.fwUpdateStart 0) s = .next t ∧ t = s) ∧
    (s.bit bootUpdCtrlOff 1 = false → s.modState = mStandby → a % 4096 = 0 →
      (∀ x, a ≤ x → x < a + n → ∃ p, p < 4 ∧ s.owns p x = true) → s.cleanAt a n →
      (s.fwCheck image n ≠ 0 → ends (.fwUpdateStart 0) (s.fwCheck image n) slot) ∧
      (s.fwCheck image n = 0 → ∃ t, exec (.fwUpdateStart 0) s = .next t ∧ t.bit bootUpdCtrlOff 1 = true ∧
        t.boot.updSlot = some slot ∧ SameMemory s t ∧ SameRegs s t [bootUpdCtrlOff])) ∧
    (∀ k, s.boot.updSlot = some k → k < 2 → s.boot.updImage.length ≤ 0x2000000 →
      ends (.fwUpdateEnd true) 0 k ∧ ends (.fwUpdateEnd false) 9 k ∧
      ∃ t, exec (.fwUpdateEnd true) s = .next t ∧ t.bootRec.prefer = k ∧ t.bootRec.minSvn = s.bootRec.minSvn ∧
        t.bootRec.revoked = s.bootRec.revoked ∧
        (∀ i, i < s.boot.updImage.length → t.fwRead k i 1 = [s.boot.updImage.getD i 0]) ∧
        ∀ i, i < 0x2000000 → t.fwRead (1 - k) i 1 = s.fwRead (1 - k) i 1) ∧
    (s.modState ≠ mStandby ∨ s.bit bootUpdCtrlOff 1 = true → ∃ t, exec (.raise 0 v) s = .next t ∧
      t.fld bootUpdCtrlOff 11 8 = 8 ∧ OnlyRegs s t) ∧
    (s.modState = mStandby → s.bit bootUpdCtrlOff 1 = false → ∃ t, exec (.raise 0 v) s = .next t ∧
      t.bootRec.minSvn = Nat.max s.bootRec.minSvn (fwSvn s.boot.runHeader) ∧
      t.bootRec.revoked = (s.bootRec.revoked ||| setBits (bitsOf v.toNat 19 16) (fwKey s.boot.runHeader)
        (fwKey s.boot.runHeader) 0) ∧ t.bootRec.prefer = s.bootRec.prefer ∧ t.fld bootUpdCtrlOff 11 8 = 0) ∧
    (∃ t, exec (.daymarkDataRead 0) s = .next t ∧
      t.fld bootDmOffsetOff 16 3 = (s.fld bootDmOffsetOff 16 3 + 1) % 16384 ∧
      t.out = s.out ++ [.readData 0 ((List.range 8).map fun i => s.dmByte (s.fld bootDmOffsetOff 16 3 * 8 + i)) false] ∧
      SameRegs s t [bootDmOffsetOff])

/-! ## Registers, buffer pools, regions, regulators and stored data -/

/-- R5, R419, R422: a write of an ordinary register reaches it only in an access of its width, by the PF, or by a VF for a register
of its own partition or page. Its RW fields take the value written, bits written 1 clear in W1C and set in W1S fields, and every
other bit and register stays; a regulator's bucket is clamped to the depth written (R247). An access that reaches no register
changes nothing. -/
def Obligations.RegisterWritesFollowAccessCodes : Prop :=
  ∀ (s : State) (by_ : Func) (off : BitVec 26) (wide : Bool) (v : W64), s.hostUp by_ = true →
    let o := off.toNat
    let same := ∃ t, exec (.registerWrite by_ off wide v) s = .next t ∧ t = s
    let rg := [0x200, 0x240, 0x206000, 0x434000, 0x442000]
    let acts := [0x8, 0x400, 0x30020, 0x40028, 0x200028, 0x200050, 0x200310, 0x200318, 0x201000, 0x430000, 0x441000, 0x435008,
      0x435808, 0x435810, 0x435820, 0x436040, 0x443080, 0x444000, 0x1000000, 0x1000008, 0x1000018, 0x1000020, 0x1000100,
      0x1000108, 0x1000110, 0x1001000, 0x1003000, 0x100800c]
    (∀ h, regAt o = some h → wide = decide (h.desc.width = 64) → mayWrite by_ h = true → h.desc.base ∉ acts →
      (h.desc.width = 64 → o % 8 = 0) →
      ∃ t, exec (.registerWrite by_ off wide v) s = .next t ∧ t = { s with regs := t.regs, buckets := t.buckets } ∧
        (h.desc.base ∉ rg → t.buckets = s.buckets) ∧ SameRegs s t [o] ∧
        ∀ f ∈ h.desc.flds, f.lo ≤ f.hi → f.hi < h.desc.width →
          (∀ g ∈ h.desc.flds, g.lo ≤ g.hi ∧ (g = f ∨ g.hi < f.lo ∨ f.hi < g.lo)) → h.desc.flds.count f = 1 →
          let old := s.fld o f.hi f.lo
          let new := bitsOf v.toNat f.hi f.lo
          (f.acc = .rw → t.fld o f.hi f.lo = new) ∧ (f.acc = .w1s → t.fld o f.hi f.lo = old ||| new) ∧
          (f.acc = .w1c → t.fld o f.hi f.lo = old &&& (2 ^ (f.hi + 1 - f.lo) - 1 - new)) ∧
          (f.acc = .ro ∨ f.acc = .rc ∨ f.acc = .wo → t.fld o f.hi f.lo = old)) ∧
    (∀ h, regAt o = some h → wide = decide (h.desc.width = 64) → mayWrite by_ h = false → same) ∧
    (∀ h, regAt o = some h → wide = false → h.desc.width = 64 → same) ∧ (regAt o = none → wide = false → same) ∧
    (wide = true → o % 8 ≠ 0 → same)

/-- R235, R236, R241, R245: INIT disables the pool and sets BUSY; it ends with ERR where the layout failed, and else with EN set and
each class's list holding its COUNT buffers from the lowest up. A write of COUNT to a pool that is on waits, BUSY set, and is
then applied.
R236 to R239, R245, R246: a request of a class whose list is not empty takes its head, whose state bit clears; a request that
finds nothing fails and counts. A release links the buffer at the head of its class and sets its state bit; one of an address
that is no buffer's, or of a free buffer, is ignored and counted. Reading the grant clears it, and reading the free count lets
PEAK follow the number allocated. -/
def Obligations.PoolsInitialiseGrantAndFree : Prop :=
  (∀ (s : State) (by_ : Func) (p : Part) (q cls : Fin 4) (v : W64),
    let ctl := galPoolCtrlOff p.val q.val
    let size := galPoolSizeOff p.val q.val
    let free := galPoolFreeOff p.val q.val
    let head := galPoolHeadOff p.val q.val
    (s.mayPart by_ p = true → s.bit ctl 0 = false → ∃ t, exec (.poolInit by_ p q) s = .next t ∧ t.bit ctl 0 = true ∧
      t.bit ctl 2 = true ∧ t.bit ctl 1 = false ∧ (∀ c, c < 4 → t.fld (free c) 18 0 = 0 ∧ t.fld (head c) 47 0 = 0) ∧
      (t.pool p.val q.val).init = some (s.poolLayoutOk p.val q.val) ∧ t = { s with regs := t.regs, pools := t.pools }) ∧
    ((s.pool p.val q.val).init = some false → ∃ t, exec (.poolInitEnd p q) s = .next t ∧ t.bit ctl 0 = false ∧
      t.bit ctl 2 = false ∧ t.bit ctl 3 = true ∧ t.bit ctl 1 = s.bit ctl 1 ∧ SameRegs s t [ctl] ∧ SameMemory s t) ∧
    ((s.pool p.val q.val).init = some true → ∃ t, exec (.poolInitEnd p q) s = .next t ∧ t.bit ctl 0 = false ∧
      t.bit ctl 2 = false ∧ t.bit ctl 1 = true ∧ ∀ c, c < 4 →
        let n := Nat.min (s.fld (size c) 50 32) (s.fld (size c) 18 0)
        t.fld (free c) 18 0 = n ∧
        t.fld (head c) 47 0 = (if n = 0 then 0 else s.fld (galPoolBaseOff p.val q.val c) 47 0) ∧
        (t.pool p.val q.val).live.getD c 0 = n ∧ (t.pool p.val q.val).broken = []) ∧
    (s.mayPart by_ p = true → ∃ t, exec (.poolCountWrite by_ p q cls v) s = .next t ∧
      t.fld (size cls.val) 50 32 = bitsOf v.toNat 50 32 ∧ t.fld (size cls.val) 18 0 = bitsOf v.toNat 18 0 ∧
      SameRegs s t [size cls.val, ctl] ∧ SameMemory s t ∧
      (s.bit ctl 1 = true → t.poolCount p.val q.val cls.val ≠ s.poolCount p.val q.val cls.val →
        (t.pool p.val q.val).pend = true ∧ t.bit ctl 2 = true) ∧
      (s.bit ctl 1 = false ∨ t.poolCount p.val q.val cls.val = s.poolCount p.val q.val cls.val → OnlyRegs s t ∧
        t.reg ctl = s.reg ctl)) ∧
    ((s.pool p.val q.val).pend = true → (s.pool p.val q.val).live.length = 4 →
      ∃ t, exec (.poolCountApply p q) s = .next t ∧ (t.pool p.val q.val).pend = false ∧ t.bit ctl 2 = false ∧
        ∀ c, c < 4 → (t.pool p.val q.val).live.getD c 0 = s.poolCount p.val q.val c)) ∧
  (∀ (s : State) (by_ : Func) (p : Part) (q cls : Fin 4) (v : W64), s.mayPart by_ p = true →
    let grant := galPoolGrantOff p.val q.val
    let fails := galPoolFailsOff p.val q.val
    let dfree := galPoolDfreeOff p.val q.val
    let free := galPoolFreeOff p.val q.val
    let head := galPoolHeadOff p.val q.val
    let side := s.fld (galPoolSideOff p.val q.val) 47 0
    let base := fun c => s.fld (galPoolBaseOff p.val q.val c) 47 0
    let sizeOf := fun c => [256, 2048, 16384, 131072].getD c 256
    let on := s.bit (galPoolCtrlOff p.val q.val) 1
    let inGallery := 0x100000000000 ≤ side ∧ side + 131072 ≤ 0x1005FC000000
    (s.bit grant 63 = true → ∃ t, exec (.poolRequest by_ p q cls) s = .next t ∧ t.reg dfree = s.reg dfree + 1 ∧
      SameRegs s t [dfree] ∧ OnlyRegs s t) ∧
    (∀ i, s.bit grant 63 = false → on = true → inGallery → cls.val ∉ (s.pool p.val q.val).broken → i < 2 ^ 18 →
      let h := base cls.val + i * sizeOf cls.val
      s.fld (head cls.val) 47 0 = h → h ≠ 0 → s.peek h 8 = 0 → s.cleanAt h 8 →
      s.cleanAt (side + cls.val * 32768 + i / 8) 1 →
      ∃ t, exec (.poolRequest by_ p q cls) s = .next t ∧
        t.reg grant = BitVec.ofNat 64 (2 ^ 63 + cls.val * 2 ^ 60 + h) ∧ t.fld (head cls.val) 47 0 = 0 ∧
        t.fld (free cls.val) 18 0 = s.fld (free cls.val) 18 0 - 1 ∧
        bitOf (t.peek (side + cls.val * 32768 + i / 8) 1) (i % 8) = false ∧
        SameRegs s t [grant, head cls.val, free cls.val]) ∧
    (s.bit grant 63 = false → on = true → (∀ c, cls.val ≤ c → c < 4 → s.fld (head c) 47 0 = 0) →
      ∃ t, exec (.poolRequest by_ p q cls) s = .next t ∧ t.reg grant = BitVec.ofNat 64 (2 ^ 63 + 2 ^ 62) ∧
        t.reg fails = s.reg fails + 1 ∧ SameRegsEv s t [grant, fails] ∧ SameMemory s t ∧
        (q.val ∉ (s.job p.val).poolSeen →
          Announces s t evPoolExhausted (some p) (BitVec.ofNat 64 q.val) (BitVec.ofNat 64 cls.val))) ∧
    (s.bit grant 63 = false → on = false →
      ∃ t, exec (.poolRequest by_ p q cls) s = .next t ∧ t.reg grant = BitVec.ofNat 64 (2 ^ 63 + 2 ^ 62) ∧
        t.reg fails = s.reg fails + 1 ∧ SameRegsEv s t [grant, fails] ∧ SameMemory s t ∧
        (q.val + 4 ∉ (s.job p.val).poolSeen → Announces s t evPoolExhausted (some p) (BitVec.ofNat 64 q.val) 0xF)) ∧
    (∃ t, exec (.poolGrantRead by_ p q) s = .next t ∧ t.bit grant 63 = false ∧ t.bit grant 62 = false ∧
      t.fld grant 47 0 = 0 ∧ SameRegs s t [grant] ∧ t = { s with regs := t.regs, out := t.out } ∧
      t.out = s.out ++ [.readData by_ (natLe 8 (s.reg grant).toNat) false]) ∧
    (∃ t, exec (.poolFreeRead by_ p q cls) s = .next t ∧ t = { s with regs := t.regs, out := t.out } ∧
      t.out = s.out ++ [.readData by_ (natLe 8 (s.reg (free cls.val)).toNat) false] ∧
      t.fld (free cls.val) 18 0 = s.fld (free cls.val) 18 0 ∧ SameRegs s t [free cls.val] ∧
      t.fld (free cls.val) 50 32 =
        ((s.pool p.val q.val).live.getD cls.val 0 - s.fld (free cls.val) 18 0) % 2 ^ 19) ∧
    (let a := v.toNat % 2 ^ 48
     let ignored := fun (ev : Nat) => ∃ t, exec (.poolRelease by_ p q v) s = .next t ∧ t.reg dfree = s.reg dfree + 1 ∧
      SameRegsEv s t [dfree] ∧ SameMemory s t ∧ t.pools = s.pools ∧
      Announces s t ev (some p) (BitVec.ofNat 64 a) (BitVec.ofNat 64 q.val)
     (on = false → ignored evPoolBadFree) ∧ (on = true → s.poolFind p.val q.val a = none → ignored evPoolBadFree) ∧
     ∀ c i, on = true → s.poolFind p.val q.val a = some (c, i) → inGallery →
      let bit := fun (t : State) => bitOf (t.peek (side + c * 32768 + i / 8) 1) (i % 8)
      (bit s = true → ignored evPoolDoubleFree) ∧
      (bit s = false → c ∉ (s.pool p.val q.val).broken → i < (s.pool p.val q.val).live.getD c 0 →
        0x100000000000 ≤ a → a + 131072 ≤ 0x1005FC000000 → (a + 8 ≤ side ∨ side + 131072 ≤ a) →
        s.fld (free c) 18 0 + 1 < 2 ^ 19 →
        ∃ t, exec (.poolRelease by_ p q v) s = .next t ∧ bit t = true ∧ t.fld (head c) 47 0 = a ∧
          t.fld (free c) 18 0 = s.fld (free c) 18 0 + 1 ∧ t.peek a 8 = s.fld (head c) 47 0) ∧
      (bit s = false → c ∉ (s.pool p.val q.val).broken → (s.pool p.val q.val).live.getD c 0 ≤ i →
        s.cleanAt (side + c * 32768 + i / 8) 1 → ∃ t, exec (.poolRelease by_ p q v) s = .next t ∧ bit t = true ∧ SameRegs s t [])))

/-- R216, R242, R243: a write by the PF that changes a region's MODE or OWNER, or a granule's OWNER or VALID, sets BUSY and waits until
no command of the old or the new owner runs. Then the register holds the new fields, and the whole region reads zero with correct
check bits, whatever it held; every other byte of memory stays. -/
def Obligations.RegionsChangeOwner : Prop :=
  ∀ (s : State) (r : RegionId) (v : W32),
    let o := regionOff r
    let cur := (s.reg o).toNat
    let fields := fun (x : Nat) => match r with
      | .gallery _ _ => (bitsOf x 3 2, bitOf x 0)
      | .granule _ _ => (bitsOf x 1 0, bitOf x 2)
    let owner := fun (x : Nat) => match r with
      | .gallery _ _ => some (bitsOf x 3 2)
      | .granule _ _ => if bitOf x 2 then some (bitsOf x 1 0) else none
    let range := match r with
      | .gallery n i => (0x100000000000 + n.val * 0xC0000000 + i.val * 0x10000000, 0x10000000)
      | .granule n g => (n.val * 0x1800000000 + g.val * 0x40000000, 0x40000000)
    let fixed := match r with
      | .gallery _ _ => bitOf cur 6 && v.getLsbD 0
      | .granule _ _ => false
    let running := fun p => s.partRunning p = true
    (s.mayMod 0 = true → (s.changes.find? fun c => c.1 == r) = none →
      (fixed = false → fields v.toNat ≠ fields cur →
        ∃ t, exec (.regionOwnershipWrite 0 r v) s = .next t ∧ t.changes = s.changes.filter (fun c => c.1 != r) ++ [(r, v)] ∧
          t.bit o 7 = true ∧ SameRegs s t [o] ∧ t = { s with regs := t.regs, changes := t.changes } ∧
          ∀ p, (owner cur = some p ∨ owner v.toNat = some p) → t.issueStopped p = true) ∧
      (fixed = true ∨ fields v.toNat = fields cur → ∃ t, exec (.regionOwnershipWrite 0 r v) s = .next t ∧ t = s)) ∧
    ((s.changes.find? fun c => c.1 == r) = some (r, v) →
      ((∃ p, (owner cur = some p ∨ owner v.toNat = some p) ∧ running p) →
        ∃ t, exec (.regionChangeApply r) s = .next t ∧ t = s) ∧
      ((∀ p, owner cur = some p ∨ owner v.toNat = some p → ¬ running p) →
        ∃ t, exec (.regionChangeApply r) s = .next t ∧ fields (t.reg o).toNat = fields v.toNat ∧ t.bit o 7 = false ∧
          SameRegs s t [o] ∧ t.cmds = s.cmds ∧ (∀ c ∈ t.changes, c.1 ≠ r) ∧
          (∀ x, range.1 ≤ x → x < range.1 + range.2 → t.byteRead x = [(0, false)]) ∧
          (∀ x, x < 2 ^ 48 → (x < range.1 ∨ range.1 + range.2 ≤ x) → t.byteRead x = s.byteRead x)))

/-- R231, R232: a grant opportunity with one pending request. A request of a partition that is not regulated, or whose bucket holds its
bytes, is granted and debited when EN is 1; one with too little is granted without a debit when BORROW is 1, and waits when it
is 0. Of two that may be granted, the one of higher PRIO is. Granted bytes are counted, and nothing else changes. -/
def Obligations.RegulatorsGrantByClass : Prop :=
  ∀ (s : State) (r : Resource) (p : Part) (n : Nat),
    let cfg := fun (x : Part) => (resRegs r x.val).1
    let cnt := fun (x : Part) => (resRegs r x.val).2
    let granted := fun (t : State) (x : Part) (k : Nat) => t.reg (cnt x) = s.reg (cnt x) + BitVec.ofNat 64 k ∧
      SameRegs s t [cnt x] ∧ t = { s with regs := t.regs, rgLast := t.rgLast, buckets := t.buckets }
    (s.bit (cfg p) 16 = false → ∃ t, exec (.regulatorGrant r [(p, n)]) s = .next t ∧ granted t p n ∧
      t.buckets = s.buckets) ∧
    (s.bit (cfg p) 16 = true → n * 3072 ≤ s.bucket r p.val → ∃ t, exec (.regulatorGrant r [(p, n)]) s = .next t ∧
      granted t p n ∧ t.bucket r p.val = s.bucket r p.val - n * 3072) ∧
    (s.bit (cfg p) 16 = true → s.bucket r p.val < n * 3072 → s.bit (cfg p) 17 = true →
      ∃ t, exec (.regulatorGrant r [(p, n)]) s = .next t ∧ granted t p n ∧ t.buckets = s.buckets) ∧
    (s.bit (cfg p) 16 = true → s.bucket r p.val < n * 3072 → s.bit (cfg p) 17 = false →
      ∃ t, exec (.regulatorGrant r [(p, n)]) s = .next t ∧ t = s) ∧
    (∀ (p' : Part) (n' : Nat), p ≠ p' → s.bit (cfg p) 16 = false → s.bit (cfg p') 16 = false →
      s.fld (cfg p') 19 18 < s.fld (cfg p) 19 18 →
      (∃ t, exec (.regulatorGrant r [(p, n), (p', n')]) s = .next t ∧ granted t p n) ∧
      (∃ t, exec (.regulatorGrant r [(p', n'), (p, n)]) s = .next t ∧ granted t p n))

/-- R251, R260, R263: WRITE_RAW stores the given data and check bits of one sector with no encoding, READ_RAW gives them back without
decoding or counting, and a target that is refused ends with ERR and touches nothing. A patrol read counts a corrected codeword,
rewrites no data of HBM, and moves the patrol on. -/
def Obligations.TestPortAndPatrol : Prop :=
  ∀ (s : State) (v : W32), s.mayMod 0 = true → v.getLsbD 7 = true →
    let a := s.fld modChkAddrOff 47 0
    let k := s.physSector (a / 32)
    let data := (List.range 4).flatMap fun i => natLe 8 (s.reg (modChkDataOff i)).toNat
    let check : W32 := (s.reg modChkCheckOff).setWidth 32
    let code := fun (d : List Byte) => if a < 0xC000000000 then eccCheck d else parityBits d
    let ended := fun (t : State) => t.bit modChkCtrlOff 0 = true ∧ t.bit modChkCtrlOff 7 = true
    (s.chkTarget a = true → v.getLsbD 6 = false → ∃ t, exec (.writeRaw 0 v) s = .next t ∧ ended t ∧
      t.mem.data k = data ∧ t.mem.meta k = ⟨check ^^^ code data, 0⟩ ∧ SameRegs s t [modChkCtrlOff] ∧
      ∀ j, j ≠ k → t.mem.data j = s.mem.data j ∧ t.mem.meta j = s.mem.meta j) ∧
    (s.chkTarget a = true → v.getLsbD 6 = true → ∃ t, exec (.writeRaw 0 v) s = .next t ∧ t.mem.data k = data ∧
      (t.readSector (a / 32)).1 = (data, true) ∧ SameRegs s t [modChkCtrlOff]) ∧
    (s.chkTarget a = true → ∃ t, exec (.readRaw 0 v) s = .next t ∧ ended t ∧ SameMemory s t ∧
      SameRegs s t [modChkCtrlOff, modChkDataOff 0, modChkDataOff 1, modChkDataOff 2, modChkDataOff 3, modChkCheckOff] ∧
      ((List.range 4).flatMap fun i => natLe 8 (t.reg (modChkDataOff i)).toNat) = s.mem.data k ∧
      t.reg modChkCheckOff = (code (s.mem.data k) ^^^ (s.mem.meta k).delta).setWidth 64 ∧
      (0xC000000000 ≤ a → t.bit modChkCtrlOff 8 = decide ((s.mem.meta k).poison ≠ 0))) ∧
    (s.chkTarget a = false →
      (∃ t, exec (.writeRaw 0 v) s = .next t ∧ t.bit modChkCtrlOff 9 = true ∧ OnlyRegs s t ∧ SameRegs s t [modChkCtrlOff]) ∧
      (∃ t, exec (.readRaw 0 v) s = .next t ∧ t.bit modChkCtrlOff 9 = true ∧ OnlyRegs s t ∧ SameRegs s t [modChkCtrlOff])) ∧
    (∀ (n : Lan) (c : Fin 2), s.fld (hbmScrubOff n.val c.val) 7 0 ≠ 0 →
      let pos := s.patrolPos (.hbm n c)
      let sec := (n.val * 0x1800000000 + (pos / 4 / 64 * 128 + c.val * 64 + pos / 4 % 64) * 128 + pos % 4 * 32) / 32
      pos < 0x60000000 →
      ∃ t, exec (.patrolRead (.hbm n c)) s = .next t ∧ t.patrolPos (.hbm n c) = (pos + 1) % 0x60000000 ∧
        t.bit (hbmScrubOff n.val c.val) 31 = decide ((pos + 1) % 0x60000000 ≠ 0) ∧
        (∀ x, x < 2 ^ 48 → t.byteAt x = s.byteAt x) ∧
        (eccClass (s.mem.meta (s.physSector sec)).delta = .clean → SameMemory s t ∧
          SameRegs s t [hbmScrubOff n.val c.val]) ∧
        (∀ i e, eccClass (s.mem.meta (s.physSector sec)).delta = .corrected i e →
          t.reg (hbmCePatrolOff n.val c.val) = s.reg (hbmCePatrolOff n.val c.val) + 1)) ∧
    (∀ n : Lan, s.fld (galScrubOff n.val) 7 0 ≠ 0 → s.patrolPos (.gallery n) < 0x1800000 →
      let pos := s.patrolPos (.gallery n)
      let a := 0x100000000000 + n.val * 0xC0000000 + pos * 128
      ∃ t, exec (.patrolRead (.gallery n)) s = .next t ∧ t.patrolPos (.gallery n) = (pos + 1) % 0x1800000 ∧
        (∀ x, t.byteAt x = s.byteAt x) ∧
        (s.bit (galRegionOff n.val (galRegion a)) 0 = false → ∀ i, i < 4 → (s.mem.meta (a / 32 + i)).delta ≠ 0 →
          (t.mem.meta (a / 32 + i)).poison = 3))

/-! ## Fabric ports and the router -/

/-- R319, R320, R324, R346: an enabled DOWN port of a module with a node number trains, its hop charge of at least 1 is measured,
and it comes UP when its peer is ready and its second was clean. Loss of signal, 6,144 frames without a LINK frame, 32 frames
beyond correction and clearing EN take it out of UP at the next slot boundary, with the first cause of them. No other port
changes.
R290, R338, R340, R353, R388: SWAP, in DRAIN mode alone, flips the active bank at the next slot boundary; a new node number, in
STANDBY alone, takes every UP port out of UP there; FAB_REOPEN reopens a LOST half with nothing outstanding, from its next
sequence on; a takeover's entry is written into both banks once classes 0 to 2 have drained (its row stands at a slot boundary,
assumption 70). -/
def Obligations.PortsAndRoutes : Prop :=
  (∀ (s : State) (p : Port) (v : W32) (charge : BitVec 8),
    let st := fabPortStatusOff p.val
    let ctl := fabPortCtrlOff p.val
    let only := fun (t : State) (rs : List Nat) => SameRegs s t rs ∧
      t = { s with regs := t.regs, fabric := t.fabric } ∧
      t.fabric = { s.fabric with ports := t.fabric.ports } ∧ ∀ q, q ≠ p.val → t.portAt q = s.portAt q
    let leaves := fun (i : Instr) (cause : Nat) => ∃ t, exec i s = .next t ∧ only t [ctl] ∧
      t.portAt p.val = { s.portAt p.val with leaving := some ((s.portAt p.val).leaving.getD cause) }
    (s.mayMod 0 = true →
      (∃ t, exec (.portEnable 0 p v) s = .next t ∧ only t [ctl] ∧ t.bit ctl 0 = true ∧ t.bit ctl 1 = v.getLsbD 1 ∧
        t.bit ctl 3 = (if s.fld st 1 0 = 0 then v.getLsbD 3 else s.bit ctl 3)) ∧
      (s.fld st 1 0 = 2 → leaves (.portDisable 0 p v) 5) ∧
      (s.fld st 1 0 < 2 → ∃ t, exec (.portDisable 0 p v) s = .next t ∧ only t [st, ctl] ∧ t.fld st 1 0 = 0 ∧
        t.bit ctl 0 = false)) ∧
    (s.fld st 1 0 = 0 → s.bit ctl 0 = true → s.fld fabNodeOff 15 0 ≠ 0xFFFF → mStandby ≤ s.modState →
      s.fld pwrStateOff 3 0 ≠ 9 → ∃ t, exec (.portTrainAttempt p) s = .next t ∧ only t [st] ∧ t.fld st 1 0 = 1 ∧
        t.portAt p.val = PortState.down) ∧
    (s.fld st 1 0 = 1 → (s.portAt p.val).trained = false → ∃ t, exec (.portTrainingDone p charge) s = .next t ∧
      only t [st] ∧ t.fld st 15 8 = Nat.max 1 charge.toNat ∧ t.fld st 1 0 = 1 ∧ (t.portAt p.val).trained = true) ∧
    (s.fld st 1 0 = 1 → (s.portAt p.val).trained = true → (s.portAt p.val).dirty = false →
      ((s.portAt p.val).peerReady = true →
        ∃ t, exec (.portEnterUp p) s = .next t ∧ only t [st] ∧ t.fld st 1 0 = 2 ∧ t.fld st 15 8 = s.fld st 15 8) ∧
      ((s.portAt p.val).peerReady = false → ∃ t, exec (.portEnterUp p) s = .next t ∧ t = s)) ∧
    (s.fld st 1 0 = 1 → (s.portAt p.val).trained = true → (s.portAt p.val).dirty = true →
      ∃ t, exec (.portEnterUp p) s = .next t ∧ only t [] ∧ t.portAt p.val = { s.portAt p.val with dirty := false }) ∧
    (s.fld st 1 0 = 2 → leaves (.portLossOfSignal p) 1 ∧ (6144 ≤ (s.portAt p.val).sinceLink → leaves (.portAlignLost p) 2) ∧
      (32 ≤ (s.portAt p.val).errors.length → leaves (.portErrorLimit p) 3)) ∧
    ((s.portAt p.val).sinceLink < 6144 → ∃ t, exec (.portAlignLost p) s = .next t ∧ t = s) ∧
    ((s.portAt p.val).errors.length < 32 → ∃ t, exec (.portErrorLimit p) s = .next t ∧ t = s)) ∧
  (∀ (s : State), mStandby ≤ s.modState → s.nothingWaits → ∃ t, exec (.routerSlot []) s = .next t ∧
    t.bit fabLlCtrlOff 0 = (s.bit fabLlCtrlOff 0 ^^ s.bit fabLlCtrlOff 1) ∧ t.bit fabLlCtrlOff 1 = false ∧
    (∀ p c, p < 64 → s.fld (fabPortStatusOff p) 1 0 = 2 → (s.portAt p).leaving = some c → c < 8 →
      t.fld (fabPortStatusOff p) 1 0 = 0 ∧ t.fld (fabPortStatusOff p) 7 5 = c ∧ t.portAt p = PortState.down) ∧
    (∀ p, p < 64 → (s.portAt p).leaving = none → t.fld (fabPortStatusOff p) 1 0 = s.fld (fabPortStatusOff p) 1 0)) ∧
  (∀ (s : State) (v : W32) (p : Part), s.mayMod 0 = true →
    (∃ t, exec (.lightListSwap 0) s = .next t ∧ SameRegs s t [fabLlCtrlOff] ∧ OnlyRegs s t ∧
      (s.bit fabLlCtrlOff 3 = true → t = s) ∧
      (s.bit fabLlCtrlOff 3 = false → t.bit fabLlCtrlOff 1 = true ∧ t.bit fabLlCtrlOff 0 = s.bit fabLlCtrlOff 0 ∧
        t.fld fabLlCtrlOff 63 2 = s.fld fabLlCtrlOff 63 2)) ∧
    (∃ t, exec (.nodeNumberWrite 0 v) s = .next t ∧ SameRegs s t (fabNodeOff :: (List.range 64).map fabPortStatusOff) ∧
      (s.modState ≠ mStandby ∨ bitsOf v.toNat 15 0 = s.fld fabNodeOff 15 0 → t = s) ∧
      (s.modState = mStandby → bitsOf v.toNat 15 0 ≠ s.fld fabNodeOff 15 0 → t.fld fabNodeOff 15 0 = bitsOf v.toNat 15 0 ∧
        (∀ q, q < 64 → s.fld (fabPortStatusOff q) 1 0 = 2 →
          (t.portAt q).leaving = some ((s.portAt q).leaving.getD 6) ∧ t.fld (fabPortStatusOff q) 1 0 = 2) ∧
        (bitsOf v.toNat 15 0 = 0xFFFF → ∀ q, q < 64 → s.fld (fabPortStatusOff q) 1 0 = 1 →
          t.fld (fabPortStatusOff q) 1 0 = 0))) ∧
    (s.fabric.waiting = [] → s.bit (kprCtrlOff (bitsOf v.toNat 17 16)) 0 = false →
      ∃ t, exec (.fabReopen 0 v) s = .next t ∧ SameRegs s t [] ∧ SameMemory s t ∧
        ∀ c h, s.fabric.send = [(c, h)] → h.node = v.setWidth 16 → h.part.val = bitsOf v.toNat 17 16 → h.tc.val ≤ 2 →
          h.life = .lost → ∃ h', t.fabric.send = [(c, h')] ∧
            (h.out = 0 → h'.life = .open_ ∧ h'.oldest = h.next ∧ h'.next = h.next ∧ h'.rpend = 0) ∧
            (h.out ≠ 0 → h'.life = .reopening)) ∧
    (∀ x, (s.kpart p.val).takeovers.find? (·.route.isSome) = some x → x.mine = false → s.fabric.waiting = [] →
      s.fabric.mcRuns = [] →
      let k := x.lost.toNat % 32
      let entry := s.reg (if x.route = some true then kprTakeSpareEntryOff k else kprTakePartnerEntryOff k)
      (s.bit fabLlCtrlOff 3 = false → s.drained % 8 = 7 → ∃ t, exec (.takeoverLightListSwap p) s = .next t ∧
        t.reg (fabLlLocalOff 0 k) = entry ∧ t.reg (fabLlLocalOff 1 k) = entry ∧
        t.bit fabLlCtrlOff 0 = (!s.bit fabLlCtrlOff 0) ∧ t.fld fabLlCtrlOff 14 12 = 0 ∧ SameMemory s t) ∧
      (s.bit fabLlCtrlOff 3 = false → s.drained % 8 ≠ 7 → ∃ t, exec (.takeoverLightListSwap p) s = .next t ∧ t = s) ∧
      (s.bit fabLlCtrlOff 3 = true → ∃ t, exec (.takeoverLightListSwap p) s = .next t ∧
        t.reg (fabLlLocalOff (1 - s.fld fabLlCtrlOff 2 2) k) = entry)))

/-- R315, R322 to R328, R330: one packet in a slot without injections, no port leaving UP and no SWAP due. A frame that decodes and passes its checks adds its corrected
bytes to the port's count, and its packet gains the hop charge in AGE and 1 in HOPS. It leaves on the first free port of its
entry in rank order; where none is free, fog-marked, on the first free port, the slot's number first, of role 0 and then of
role 1; one for this module is ejected into its home's queue, marked at THRESH. Every other port sends IDLE.
R318, R345: a port in the last slot of its run of frames has its LINK frame forced; a multicast packet that has waited 16 slots at
the head of its injection port, no other packet waiting, leaves on the outputs that are free, and the copies of the others are
counted as dropped. -/
def Obligations.RouterMovesPackets : Prop :=
  (∀ (s : State) (a : Arrival) (bs : List Byte) (n : Nat) (pk : Packet), mStandby ≤ s.modState →
    s.fld (fabPortStatusOff a.port.val) 1 0 = 2 → s.bit (fabPortCtrlOff a.port.val) 3 = false → a.hdrParity ≠ 3 →
    a.secParity = 0 → linkDecode a.bytes = some (bs, n) →
    packetOf (bs.take 160) = (pk, checkOf pk ((bs.drop 32).take 128)) → pk.op ≠ 0x3E →
    pk.op ≠ 0x3F → isMcast pk = false → (∀ q, s.linkDue q = false) → s.nothingWaits →
    s.bit fabLlCtrlOff 1 = false → (∀ q, (s.portAt q).leaving = none) →
    let charge := Nat.max 1 (s.fld (fabPortStatusOff a.port.val) 15 8)
    let moved : Packet := { pk with age := BitVec.ofNat 10 (pk.age.toNat + charge), hops := BitVec.ofNat 5 (pk.hops.toNat + 1) }
    let marked : Packet := { moved with fog := true }
    let ports := (s.llPorts (s.bankFor pk) pk.dst.toNat).filter s.portCarries
    let turn := ((List.range 64).map fun i => (s.fabric.slot % 64 + i) % 64).filter s.portCarries
    let roles := (turn.filter fun q => !s.bit (fabPortCtrlOff q) 1) ++ turn.filter fun q => s.bit (fabPortCtrlOff q) 1
    let idle : Packet := { Packet.zero with op := 0x3F }
    let sent := fun (t : State) (q : Port) (x : Packet) => Output.frame q (frameOf x) ∈ t.out
    let corr := fabPortCorrOff a.port.val
    pk.age.toNat + charge < 1023 → pk.hops.toNat + 1 < 31 →
    ∃ t, exec (.routerSlot [a]) s = .next t ∧ t.fabric.slot = s.fabric.slot + 1 ∧ SameMemory s t ∧ t.cmds = s.cmds ∧
      t.reg corr = s.reg corr + BitVec.ofNat 64 n ∧
      (s.here pk.dst.toNat = false →
        (∀ q : Port, s.portCarries q.val = true → some q.val ≠ (ports.head?).or roles.head? → sent t q idle) ∧
        t.fabric.ejq = s.fabric.ejq) ∧
      (s.here pk.dst.toNat = false → ∀ q : Port, ports.head? = some q.val → sent t q moved ∧ SameRegs s t [corr]) ∧
      (s.here pk.dst.toNat = false → ports = [] → ∀ q : Port, roles.head? = some q.val → sent t q marked ∧
        t.reg fabDeflectionsOff = s.reg fabDeflectionsOff + 1 ∧ SameRegs s t [corr, fabDeflectionsOff, fabFogMarksOff]) ∧
      (s.here pk.dst.toNat = true → s.ejects = true → (s.ejQueue (s.pkHome moved)).length < 64 →
        t.ejQueue (s.pkHome moved) = s.ejQueue (s.pkHome moved) ++
          [if Nat.min 64 (s.fld fabEjCtrlOff 6 0) ≤ (s.ejQueue (s.pkHome moved)).length then marked else moved])) ∧
  (∀ (s : State) (p : Port) (lan : Lan) (x : InjPkt),
    (s.portIs p.val = 2 → 2047 ≤ (s.portAt p.val).run → ∃ t, exec (.forcedLinkFrame p) s = .next t ∧
      (t.portAt p.val).forced = true ∧ (∀ k, k ≠ p.val → t.portAt k = s.portAt k) ∧ SameRegs s t [] ∧ t.out = s.out) ∧
    (s.injQueue lan.val = [x] → (∀ l, l ≠ lan.val → s.injQueue l = []) → s.fabric.waiting = [] → x.pk.dst = 0xFFFF →
      16 ≤ x.wait → s.injClear lan [] x.pk = true → (∀ q, s.linkDue q = false) → s.bit fabLlCtrlOff 1 = false →
      (∀ q, (s.portAt q).leaving = none) →
      let cs := s.copies x.pk.mcg.toNat
      let free := cs.filter (s.copyFree ⟨[], List.replicate 8 0, none⟩ x.pk)
      free ≠ [] → ∃ t, exec (.multicastForcedInject lan) s = .next t ∧ t.injQueue lan.val = [] ∧
        (∀ k : Port, Copy.port k.val ∈ free → Output.frame k (frameOf (s.stamped x.pk)) ∈ t.out) ∧
        SameRegs s t [fabMcDropsOff, fabInjRgCntOff lan.val x.pk.part.val] ∧
        t.reg fabMcDropsOff = s.reg fabMcDropsOff + BitVec.ofNat 64 (cs.length - free.length) ∧ SameMemory s t))

/-! ## Fabric operations -/

/-- R281, R285, R286, R157, R119: new requests at their target. LOAD and LOADT return the bytes, LOADT with the version tag of
their granule; STORE and VSTORE write the payload and its poison and leave every other byte, VSTORE with the fill state of its
granule; each is answered DONE and recorded. A store into a slot that is present already changes nothing and is answered DONE. -/
def Obligations.RequestsReadAndWrite : Prop :=
  ∀ (s : State) (pk : Packet), NewRequest s pk → pk.rsvd = 0 →
    s.refused pk.part.val pk.offset.toNat pk.len.toNat = none → pk.payload.length = pk.len.toNat ∨ pk.op.toNat ≤ 1 →
    let p := pk.part.val
    let a := pk.offset.toNat
    let n := pk.len.toNat
    let within := 1 ≤ n ∧ a % 128 + n ≤ 128
    let done := fun (t : State) (op : BitVec 6) (bs : List PByte) (v : BitVec 16) =>
      Answers s t pk op 0 pk.offset bs v ∧ Recorded t pk
    (Arrives s pk 0x00 → within → ∃ t, exec (.fabLoad pk) s = .next t ∧ done t 0x02 (s.load p a n).1 0 ∧
      (s.cleanAt a n → s.linesGood p a n → SameMemory s t ∧ OnlyServed s t)) ∧
    (Arrives s pk 0x01 → within → ∃ t, exec (.fabLoadt pk) s = .next t ∧ done t 0x02 (s.load p a n).1 (s.tagAt a).tag ∧
      (s.cleanAt a n → s.linesGood p a n → SameMemory s t ∧ OnlyServed s t)) ∧
    (Arrives s pk 0x03 → within → s.splitDup pk.part a = none → s.cleanAt a n → s.linesGood p a n →
      ∃ t, exec (.fabStore pk) s = .next t ∧ done t 0x10 [] 0 ∧ OnlyServed s t ∧ SameBytesBut s t a n ∧
        (∀ i, i < n → ∃ m, t.byteRead (a + i) = [(pk.payload.getD i 0, m)] ∧
          (pk.poison.getLsbD (i / 32) = true → m = true) ∧ (pk.poison = 0 → m = false)) ∧
        (t.tagAt a).tag = 0xFFFF) ∧
    (∀ i, Arrives s pk 0x03 → within → s.splitDup pk.part a = some (i, false) →
      ∃ t, exec (.fabStore pk) s = .next t ∧ done t 0x10 [] 0 ∧ SameMemory s t ∧ OnlyServed s t) ∧
    (Arrives s pk 0x04 → n = 128 → a % 128 = 0 → pk.ver.toNat ≤ 0xFFFB →
      ∃ t, exec (.vstore pk) s = .next t ∧ done t 0x10 [] 0 ∧ OnlyServed s t ∧ SameBytesBut s t a n ∧
        (∀ i, i < n → t.byteRead (a + i) = [(pk.payload.getD i 0, pk.poison.getLsbD (i / 32))]) ∧
        let lines := (if (s.tagAt a).filling = pk.ver then (s.tagAt a).lines else 0) ||| (1#256 <<< (a % 32768 / 128))
        (t.tagAt a).filling = pk.ver ∧ (t.tagAt a).lines = lines ∧
        (lines = BitVec.allOnes 256 → (t.tagAt a).tag = pk.ver) ∧
        (lines ≠ BitVec.allOnes 256 → (t.tagAt a).tag = if (s.tagAt a).filling = pk.ver then (s.tagAt a).tag else 0xFFFF))

/-- R225 to R230, R279, R296, R544: new requests that act at their home. RED and FETCH combine each element with the operand, FETCH
returning what stood there; for UINT64 the operations are sum, maximum, minimum, or, and, exclusive or. XALLOC allocates in
pool 0 and answers with the buffer, or with a NO_BUFFER bounce; XCOMMIT hands the buffer over as a parcel; GCOMMIT reaches the
gradient channels; CLOSE frees the half. -/
def Obligations.RequestsActAtHome : Prop :=
  ∀ (s : State) (pk : Packet), NewRequest s pk → pk.rsvd = 0 → pk.payload.length = pk.len.toNat →
    let p := pk.part
    let a := pk.offset.toNat
    let n := pk.len.toNat
    let w := pkWord pk
    let done := fun (t : State) (op : BitVec 6) (off : BitVec 48) (bs : List PByte) => Answers s t pk op 0 off bs 0 ∧ Recorded t pk
    (∀ f, redType pk.rtype.toNat = some f → redAllowed pk.rop.toNat (some f) a n = true → s.refused p.val a n = none →
      s.cleanAt a n → s.linesGood p.val a n → pk.poison = 0 →
      let combined := fun (t : State) => t.bytesRead a n = redBytes pk.rop.toNat f n (s.bytesRead a n) (clean pk.payload) ∧
        SameBytesBut s t a n ∧ OnlyServed s t
      (Arrives s pk 0x05 → ∃ t, exec (.red pk) s = .next t ∧ combined t ∧ done t 0x10 pk.offset []) ∧
      (Arrives s pk 0x06 → a % n = 0 → n = 4 ∨ n = 8 → ∃ t, exec (.fetch pk) s = .next t ∧ combined t ∧
        done t 0x07 pk.offset (s.bytesRead a n)) ∧
      (Arrives s pk 0x06 → f = .uint64 → n = 8 → a % 8 = 0 → ∃ t, exec (.fetch pk) s = .next t ∧
        let old : W64 := BitVec.ofNat 64 (leNat (plain (s.bytesRead a 8)))
        let x : W64 := BitVec.ofNat 64 (leNat pk.payload)
        let new : W64 := BitVec.ofNat 64 (leNat (plain (t.bytesRead a 8)))
        (pk.rop = 0 → new = old + x) ∧ (pk.rop = 1 → new = if old.ult x then x else old) ∧
        (pk.rop = 2 → new = if old.ult x then old else x) ∧ (pk.rop = 3 → new = old ||| x) ∧
        (pk.rop = 4 → new = old &&& x) ∧ (pk.rop = 5 → new = old ^^^ x))) ∧
    (Arrives s pk 0x0C → n = 8 → a = 0 → w 0 < 4 →
      (∀ c b, (s.poolAlloc p 0 (w 0)).2 = some (c, b) → ∃ t, exec (.xalloc pk) s = .next t ∧
        done t 0x0D 0 (clean (natLe 8 (b + c * 2 ^ 48))) ∧ keyGet t.xallocs b = some p.val) ∧
      ((s.poolAlloc p 0 (w 0)).2 = none → ∃ t, exec (.xalloc pk) s = .next t ∧ Answers s t pk 0x0D 4 0 [] 0 ∧ Recorded t pk ∧
        t.reg fabBouncesSentOff = s.reg fabBouncesSentOff + 1 ∧ t.xallocs = s.xallocs)) ∧
    (Arrives s pk 0x0E → n = 16 → w 0 = a → (s.halfFor pk).commitReady pk.seq = true → s.refused p.val a 1 = none →
      keyGet s.xallocs a = some p.val → (∀ x ∈ s.exchDone, x.2.1 ≠ BitVec.ofNat 32 (w 1)) → s.cleanAt (a + 4) 12 →
      ∃ t, exec (.xcommit pk) s = .next t ∧ done t 0x10 pk.offset [] ∧ keyGet t.xallocs a = none ∧ SameMemory s t ∧
        t.parcels = s.parcels ++ [⟨p, BitVec.ofNat 32 (w 1), a, w 1 / 2 ^ 32⟩]) ∧
    (Arrives s pk 0x0F → n = 32 → w 2 < 2 ^ 34 → w 3 = 0 → (s.halfFor pk).commitReady pk.seq = true →
      s.refused p.val a 1 = none →
      ∃ t, exec (.gcommit pk) s = .next t ∧ done t 0x10 pk.offset [] ∧ SameMemory s t ∧
        t.gcIn = s.gcIn ++ [{
          part := p, shard := BitVec.ofNat 32 (w 0), step := BitVec.ofNat 32 (w 0 / 2 ^ 32), chunk := w 1 % 2 ^ 32,
          count := w 1 / 2 ^ 32, tokens := w 2 % 2 ^ 32, last := bitOf (w 2) 32, tpoison := bitOf (w 2) 33 }]) ∧
    (Arrives s pk 0x12 → n = 0 → a = 0 → ∃ t, exec (.close pk) s = .next t ∧ Answers s t pk 0x10 0 0 [] 0 ∧
      keyGet t.fabric.recv (recvKey pk) = none ∧ SameMemory s t ∧
      ∀ k, k ≠ recvKey pk → keyGet t.fabric.recv k = keyGet s.fabric.recv k)

/-- R276, R281, R282, R291: a request outside its partition's regions is answered BOUNDS and a malformed one MALFORMED, each with
its error bit and no other effect; a duplicate is counted and answered as R282 says, with no second effect; one older than the
window is counted and dropped; a broken half answers DATAPATH, and one whose entry fails parity becomes broken, with FAB_ERR[4],
EV_CTX_PARITY and a notice to the Keeper controller. An operation code that R274 does not define is counted in FAB_STALE
and gets no answer. -/
def Obligations.RequestsRefusedOrRepeated : Prop :=
  ∀ (s : State) (pk : Packet),
    let a := pk.offset.toNat
    let n := pk.len.toNat
    let gal := galErrOff (homeLan a)
    let within := 1 ≤ n ∧ a % 128 + n ≤ 128
    let answered := fun (i : Instr) (op : BitVec 6) (code : BitVec 4) (rs : List Nat) =>
      ∃ t, exec i s = .next t ∧ Answers s t pk op code pk.offset [] 0 ∧ SameMemory s t ∧ SameRegs s t rs ∧
        t.cmds = s.cmds ∧ Recorded t pk
    (NewRequest s pk → pk.rsvd = 0 → within → (∃ x, s.refused pk.part.val a n = some x) →
      (Arrives s pk 0x00 → answered (.fabLoad pk) 0x02 1 [fabErrOff, gal]) ∧
      (Arrives s pk 0x01 → answered (.fabLoadt pk) 0x02 1 [fabErrOff, gal]) ∧
      (Arrives s pk 0x03 → answered (.fabStore pk) 0x10 1 [fabErrOff, gal]) ∧
      (Arrives s pk 0x04 → n = 128 → pk.ver.toNat ≤ 0xFFFB → answered (.vstore pk) 0x10 1 [fabErrOff, gal])) ∧
    (NewRequest s pk → pk.rsvd ≠ 0 ∨ ¬ within →
      (Arrives s pk 0x00 → answered (.fabLoad pk) 0x02 2 [fabErrOff]) ∧
      (Arrives s pk 0x01 → answered (.fabLoadt pk) 0x02 2 [fabErrOff]) ∧
      (Arrives s pk 0x03 → answered (.fabStore pk) 0x10 2 [fabErrOff]) ∧
      (Arrives s pk 0x05 → answered (.red pk) 0x10 2 [fabErrOff, gal]) ∧
      (Arrives s pk 0x06 → answered (.fetch pk) 0x07 2 [fabErrOff, gal])) ∧
    (∀ h, RepeatedRequest s pk h →
      let dup := fun (t : State) => t.reg fabDuplicatesOff = s.reg fabDuplicatesOff + 1 ∧
        SameRegs s t [fabDuplicatesOff] ∧ SameMemory s t ∧ t.fabric.recv = s.fabric.recv
      (∀ r, h.codes.find? (fun x => x.seq == pk.seq) = some r →
        (Arrives s pk 0x03 → ∃ t, exec (.fabStore pk) s = .next t ∧ dup t ∧ Answers s t pk 0x10 r.code pk.offset r.data 0) ∧
        (Arrives s pk 0x05 → ∃ t, exec (.red pk) s = .next t ∧ dup t ∧ Answers s t pk 0x10 r.code pk.offset r.data 0)) ∧
      (∀ r, h.replies.find? (fun x => x.seq == pk.seq) = some r → Arrives s pk 0x06 →
        ∃ t, exec (.fetch pk) s = .next t ∧ dup t ∧ Answers s t pk 0x07 r.code pk.offset r.data 0) ∧
      (h.replies.find? (fun x => x.seq == pk.seq) = none → Arrives s pk 0x06 →
        ∃ t, exec (.fetch pk) s = .next t ∧ dup t ∧ NoAnswer s t) ∧
      (Arrives s pk 0x00 → pk.rsvd = 0 → within → s.refused pk.part.val a n = none → s.cleanAt a n →
        s.linesGood pk.part.val a n →
        ∃ t, exec (.fabLoad pk) s = .next t ∧ dup t ∧ Answers s t pk 0x02 0 pk.offset (s.load pk.part.val a n).1 0)) ∧
    (∀ h, keyGet s.fabric.recv (recvKey pk) = some h → h.broken = false → h.bad = false → 64 ≤ (h.top - pk.seq).toNat →
      2 ^ 23 ≤ (pk.seq - h.top).toNat → Arrives s pk 0x03 → ∃ t, exec (.fabStore pk) s = .next t ∧
        t.reg fabStaleOff = s.reg fabStaleOff + 1 ∧ SameRegs s t [fabStaleOff] ∧ SameMemory s t ∧ NoAnswer s t) ∧
    (∀ h, keyGet s.fabric.recv (recvKey pk) = some h → h.broken = true → h.bad = false → Arrives s pk 0x03 →
      ∃ t, exec (.fabStore pk) s = .next t ∧ Answers s t pk 0x10 6 pk.offset [] 0 ∧ SameMemory s t ∧ SameRegs s t []) ∧
    (∀ h, keyGet s.fabric.recv (recvKey pk) = some h → h.bad = true → Arrives s pk 0x03 →
      ∃ t, exec (.fabStore pk) s = .next t ∧ Answers s t pk 0x10 6 pk.offset [] 0 ∧ SameMemory s t ∧
        keyGet t.fabric.recv (recvKey pk) = some { h with broken := true, bad := false } ∧ t.bit fabErrOff 4 = true ∧
        SameRegsEv s t [fabErrOff] ∧ Announces s t evCtxParity (some pk.part) 0 0 ∧
        (t.kpart pk.part.val).notices = (s.kpart pk.part.val).notices ++ [.datapath]) ∧
    (pk.op.toNat ∉ [0x00, 0x01, 0x02, 0x03, 0x04, 0x05, 0x06, 0x07, 0x08, 0x09, 0x0A, 0x0C, 0x0D, 0x0E, 0x0F, 0x10, 0x12,
      0x14, 0x3E, 0x3F] → s.ejects = true → s.here pk.dst.toNat = true →
      ∃ t, exec (.reservedOpArrival pk) s = .next t ∧ t.reg fabStaleOff = s.reg fabStaleOff + 1 ∧
        SameRegs s t [fabStaleOff] ∧ SameMemory s t ∧ NoAnswer s t ∧ t.fabric.recv = s.fabric.recv)

/-- R274: a packet whose operation code is none of the eighteen of the table, IDLE and LINK of R314 apart, is reserved: a module
that it reaches and that ejects packets discards it and counts it in FAB_STALE, answers nothing and changes nothing else but the
queue that the packet leaves. A module that does not eject it leaves it where it is. -/
def Obligations.ReservedOperationCodesAreCounted : Prop :=
  ∀ (s : State) (pk : Packet),
    pk.op.toNat ∉ [0x00, 0x01, 0x02, 0x03, 0x04, 0x05, 0x06, 0x07, 0x08, 0x09, 0x0A, 0x0C, 0x0D, 0x0E, 0x0F, 0x10, 0x12, 0x14,
      0x3E, 0x3F] →
    let forHere := s.here pk.dst.toNat = true ∨ pk.dst = 0xFFFF
    (s.ejects = true → forHere → ∃ t, exec (.reservedOpArrival pk) s = .next t ∧
      t.reg fabStaleOff = s.reg fabStaleOff + 1 ∧ SameRegs s t [fabStaleOff] ∧ NoAnswer s t ∧
      t = { s with regs := t.regs, fabric := { s.fabric with ejq := t.fabric.ejq } } ∧
      ∀ e ∈ t.fabric.ejq, ∃ e' ∈ s.fabric.ejq, e.1 = e'.1 ∧ e.2 = e'.2.erase pk) ∧
    (s.ejects = false ∨ ¬ forHere → ∃ t, exec (.reservedOpArrival pk) s = .next t ∧ t = s)

/-- R293, R294: a multicast store that a member accepts writes its bytes, counts in the half of its source and group, and gets no
answer. MFLUSH of a run that has wholly arrived is answered DONE with the count, and a new count starts; otherwise it waits, and
is answered SHORT with the count at its timeout. A duplicate MFLUSH gets the retained answer. -/
def Obligations.MulticastAtMembers : Prop :=
  ∀ (s : State) (pk : Packet) (m : McRecv), s.ejects = true → pk.rsvd = 0 → pk.payload.length = pk.len.toNat →
    (s.mcHalfOf pk.src (pkGroup pk) pk.part).getD (McRecv.fresh pk (pkGroup pk)) = m → s.here pk.src.toNat = false → s.calm →
    let a := pk.offset.toNat
    let n := pk.len.toNat
    let half := fun (t : State) => t.mcHalfOf pk.src (pkGroup pk) pk.part
    let counted := fun (t : State) => half t = some { m with count := m.count + 1 } ∧ NoAnswer s t ∧ SameRegs s t [] ∧
      SameBytesBut s t a n
    let data := fun (short n : Nat) => clean (natLe 8 (short + n * 2 ^ 32))
    (pk.dst = 0xFFFF → pk.op = 0x08 → 1 ≤ n → a % 128 + n ≤ 128 → s.refused pk.part.val a n = none →
      s.splitDup pk.part a = none → s.cleanAt a n → s.linesGood pk.part.val a n → m.flush = none →
      ∃ t, exec (.mstore pk) s = .next t ∧ counted t ∧
        ∀ i, i < n → plain (t.byteRead (a + i)) = [pk.payload.getD i 0]) ∧
    (pk.dst = 0xFFFF → pk.op = 0x09 → n = 128 → a % 128 = 0 → pk.ver.toNat ≤ 0xFFFB →
      s.refused pk.part.val a n = none → m.flush = none →
      ∃ t, exec (.mvstore pk) s = .next t ∧ counted t ∧ (t.tagAt a).filling = pk.ver ∧
        ∀ i, i < n → t.byteRead (a + i) = [(pk.payload.getD i 0, pk.poison.getLsbD (i / 32))]) ∧
    (pk.dst = 0xFFFF ∨ s.here pk.dst.toNat = true → pk.op = 0x0A → n = 8 → pkWord pk 0 < 2 ^ 32 →
      (∀ x, m.answer = some x → x.1 ≠ pk.seq) →
      (pkWord pk 0 ≤ m.count → ∃ t, exec (.mflush pk) s = .next t ∧ Answers s t pk 0x10 0 0 (data 0 m.count) 0 ∧
        half t = some { m with count := 0, answer := some (pk.seq, false, m.count), flush := none } ∧ SameMemory s t ∧
        SameRegs s t []) ∧
      (m.count < pkWord pk 0 → ∃ t, exec (.mflush pk) s = .next t ∧ NoAnswer s t ∧
        half t = some { m with flush := some pk } ∧ SameMemory s t ∧ SameRegs s t [])) ∧
    (∀ short k, pk.dst = 0xFFFF ∨ s.here pk.dst.toNat = true → pk.op = 0x0A → n = 8 → pkWord pk 0 < 2 ^ 32 →
      m.answer = some (pk.seq, short, k) → ∃ t, exec (.mflush pk) s = .next t ∧
        Answers s t pk 0x10 0 0 (data (if short then 1 else 0) k) 0 ∧ t.fabric.mcRecv = s.fabric.mcRecv ∧
        SameRegs s t [fabDuplicatesOff] ∧ t.reg fabDuplicatesOff = s.reg fabDuplicatesOff + 1 ∧ SameMemory s t) ∧
    (half s = some m → m.src = pk.src → m.grp = pkGroup pk → m.part = pk.part → m.flush = some pk → pk.op = 0x0A →
      ∃ t, exec (.mflushShortTimeout pk.src (pkGroup pk) pk.part) s = .next t ∧
        Answers s t pk 0x10 0 0 (data 1 m.count) 0 ∧
        half t = some { m with count := 0, answer := some (pk.seq, true, m.count), flush := none } ∧ SameMemory s t ∧
        SameRegs s t [])

/-- R282, R286, R296, R295: a reply that an outstanding request waits for ends that request; any other reply changes nothing. The data
of a LOAD copied into this module is written with its poison, the reply to an XALLOC names the buffer of its send, whose XCOMMIT
follows, and the last member's answer ends its run. With the last piece of its command, the command ends. -/
def Obligations.RepliesEndRequests : Prop :=
  ∀ (s : State) (pk : Packet) (r : Req) (c : CmdId), r.cmd = some c →
    let ends := fun (i : Instr) => ∃ t, exec i s = .next t ∧ Ended t c stOk 0 ∧ SameCmds s t c ∧ NotFlying t r ∧
      t.fabric.waiting = [] ∧ SameMemory s t ∧ SameRegs s t []
    (∀ a, ReplyMeets s pk 0x02 r → r.cont = .toLocal a → OnePieceLeft s c → s.noPull → pk.payload ≠ [] → pk.poison = 0 →
      s.cleanAt a pk.payload.length → s.linesGood r.pk.part.val a pk.payload.length → a + pk.payload.length ≤ 2 ^ 48 →
      ∃ t, exec (.loadReply pk) s = .next t ∧ Ended t c stOk 0 ∧ SameCmds s t c ∧ NotFlying t r ∧
        t.bytesRead a pk.payload.length = clean pk.payload ∧ SameBytesBut s t a pk.payload.length ∧ SameRegs s t []) ∧
    (ReplyMeets s pk 0x07 r → r.cont = .none → OnePieceLeft s c → ends (.fetchReply pk)) ∧
    (ReplyMeets s pk 0x10 r → r.pk.op ≠ 0x14 → r.cont = .none → OnePieceLeft s c → ends (.ack pk)) ∧
    (∀ id x, ReplyMeets s pk 0x0D r → r.cont = .xalloc id → keyGet s.xsends id = some x →
      x.poison.length = x.data.length → x.data.length < 2 ^ 32 → s.here x.node.toNat = false → s.lostTo x.node r.pk.part = false → s.llPorts s.injBank x.node.toNat ≠ [] →
      let buf := leNat pk.payload % 2 ^ 48
      ∃ t, exec (.xallocReply pk) s = .next t ∧ keyGet t.xsends id = some { x with buf := some buf } ∧ t.cmds = s.cmds ∧
        (∃ q ∈ t.fabric.waiting ++ t.fabric.flying, q.cont = .xcommit id ∧ q.pk.op = 0x0E ∧ q.pk.dst = x.node ∧
          q.pk.offset.toNat = buf ∧ pkWord q.pk 0 = buf ∧ pkWord q.pk 1 = x.exchId.toNat + x.data.length * 2 ^ 32) ∧
        SameMemory s t ∧ SameRegs s t []) ∧
    (∀ q, s.ejects = true → s.here pk.dst.toNat = true → pk.op = 0x10 → s.flushRun pk = some q.id → s.fabric.mcRuns = [q] →
      q.sent = true → q.members = [pk.src] → q.repairs = 0 → q.lost = [] → q.cmd = some c → pkWord pk 0 % 2 = 0 →
      s.fabric.waiting = [] → s.halvesGood → OnePieceLeft s c →
      ∃ t, exec (.mflushReply pk) s = .next t ∧ Ended t c stOk 0 ∧ SameCmds s t c ∧ t.fabric.mcRuns = [] ∧
        (∀ x ∈ t.fabric.flying, x.cont ≠ .mflush q.id) ∧ SameMemory s t ∧ SameRegs s t []) ∧
    (s.answering pk = none → s.noPull → ∀ i ∈ [Instr.loadReply pk, .fetchReply pk, .ack pk, .xallocReply pk],
      ∃ t, exec i s = .next t ∧ t.cmds = s.cmds ∧ SameMemory s t ∧ SameRegs s t [] ∧ t.fabric.flying = s.fabric.flying)

/-- R287, R288, R279, R292, R296, R544: a request without a reply is sent again at most three times, unchanged, and then declared
lost, with the Keeper controller told, its halves LOST and its read's bytes poisoned; a bounce is issued again as a new request, until the limit
ends it; an idle half closes; a chunk that no entry has opened for and a granted buffer that no commit names are dropped and
counted. -/
def Obligations.FabricTimeouts : Prop :=
  ∀ (s : State) (rq : ReqId) (r : Req) (c : CmdId), r.cmd = some c →
    let lostLast := BitVec.ofNat 64 (r.pk.dst.toNat * 2 ^ 16 + r.pk.part.val * 2 ^ 14 + r.pk.tc.val * 2 ^ 12)
    (s.flyingReq rq = some r → (∀ x, r.cont ≠ .mflush x) → r.resends < 3 → s.halvesGood →
      ∃ t, exec (.resendTimeout rq) s = .next t ∧ t.reg fabResendsOff = s.reg fabResendsOff + 1 ∧
        SameRegs s t [fabResendsOff] ∧ SameMemory s t ∧ t.cmds = s.cmds ∧
        t.flyingReq rq = some { r with resends := r.resends + 1 } ∧ t.injQueue r.lantern.val = s.injQueue r.lantern.val ++
          [⟨{ r.pk with age := 0, hops := 0, fog := false }, 0⟩]) ∧
    (s.flyingReq rq = some r → 3 ≤ r.resends → ∃ t, exec (.resendTimeout rq) s = .next t ∧ t = s) ∧
    (s.flyingReq rq = some r → r.resends < 3 → ∃ t, exec (.targetLostTimeout rq) s = .next t ∧ t = s) ∧
    (s.flyingReq rq = some r → r.cont = .none → 3 ≤ r.resends → s.fabric.waiting = [] → s.noPull → OnePieceLeft s c →
      ∃ t, exec (.targetLostTimeout rq) s = .next t ∧ NotFlying t r ∧
        Ended t c stTargetLost (BitVec.ofNat 64 (r.pk.dst.toNat * 2 ^ 48 + r.pk.offset.toNat)) ∧ SameCmds s t c ∧
        t.bit fabErrOff 3 = true ∧ t.reg fabLostOff = s.reg fabLostOff + 1 ∧ t.reg fabLostLastOff = lostLast ∧
        SameRegsEv s t [fabErrOff, fabLostOff, fabLostLastOff] ∧ SameMemory s t ∧
        (t.kpart r.pk.part.val).notices = (s.kpart r.pk.part.val).notices ++ [.lost r.pk.dst] ∧
        Announces s t evTargetLost (some r.pk.part) (BitVec.ofNat 64 r.pk.dst.toNat) (BitVec.ofNat 64 r.pk.tc.val) ∧
        ∀ k h, keyGet t.fabric.send k = some h → h.node = r.pk.dst → h.part = r.pk.part → h.tc.val ≤ 2 → h.life = .lost) ∧
    (∀ a, s.flyingReq rq = some r → r.cont = .toLocal a → 3 ≤ r.resends → r.pk.op = 0x00 → r.pk.len ≠ 0 →
      s.fabric.waiting = [] → s.noPull → s.calm → s.cleanAt a r.pk.len.toNat → s.linesGood r.pk.part.val a r.pk.len.toNat →
      ∃ t, exec (.targetLostTimeout rq) s = .next t ∧ NotFlying t r ∧
        ∀ i, i < r.pk.len.toNat → a + r.pk.len.toNat ≤ 2 ^ 48 → ∃ b, t.byteRead (a + i) = [(b, true)]) ∧
    (∀ k h, s.fabric.waiting = [r] → r.backoff = true → r.pk.ctx = rq.ctx → r.pk.seq = rq.seq →
      CanLaunch s { r with backoff := false } k h →
      ∃ t, exec (.bounceBackoffExpiry rq) s = .next t ∧ Launched s t { r with backoff := false } k h ∧ t.cmds = s.cmds ∧
        SameRegs s t [] ∧ SameMemory s t) ∧
    (s.fabric.waiting = [r] → r.backoff = true → r.pk.ctx = rq.ctx → r.pk.seq = rq.seq → r.cont = .none →
      s.fld fabOpCtrlOff 15 0 ≠ 0 → OnePieceLeft s c →
      ∀ q ∈ [(4, stNoBuffer), (5, stNoContext)], r.pk.code.toNat = q.1 →
        ∃ t, exec (.bounceLimitExpiry rq) s = .next t ∧ t.fabric.waiting = [] ∧ SameCmds s t c ∧ SameRegs s t [] ∧
          Ended t c q.2 (BitVec.ofNat 64 (r.pk.dst.toNat * 2 ^ 48 + r.pk.offset.toNat))) ∧
    (∀ h, keyGet s.fabric.send rq.ctx.toNat = some h → h.idleFor s.now s.idleNs = false →
      ∃ t, exec (.sendHalfIdleClose rq.ctx) s = .next t ∧ t = s) ∧
    (∀ h, keyGet s.fabric.send rq.ctx.toNat = some h → h.idleFor s.now s.idleNs = true → h.room 0x12 = true →
      s.fabric.waiting = [] → s.halvesGood → s.llPorts s.injBank h.node.toNat ≠ [] → s.draining 2 = false → ∃ t, exec (.sendHalfIdleClose rq.ctx) s = .next t ∧ SameRegs s t [] ∧ t.cmds = s.cmds ∧
        (∃ h', keyGet t.fabric.send rq.ctx.toNat = some h' ∧ h'.life = .closing ∧ h'.next = h.next + 1) ∧
        ∃ x, t.fabric.flying = s.fabric.flying ++ [x] ∧ x.pk.op = 0x12 ∧ x.pk.dst = h.node ∧ x.pk.ctx = rq.ctx ∧
          x.pk.seq = h.next ∧ x.pk.tc = 2) ∧
    (∀ (p : Part) (shard step chunk : W32), s.gcOpen p shard step = false → s.fld fabGcCtrlOff 15 0 ≠ 0 →
      let mine := fun (g : GArrival) => g.part == p && g.shard == shard && g.step == step && decide (g.chunk = chunk.toNat)
      ∃ t, exec (.gcommitHoldTimeout p shard step chunk) s = .next t ∧ t.gcIn = s.gcIn.filter (fun g => !mine g) ∧
        t.reg fabStaleOff = s.reg fabStaleOff + BitVec.ofNat 64 (s.gcIn.filter mine).length ∧
        SameRegs s t [fabStaleOff] ∧ SameMemory s t ∧ t.cmds = s.cmds) ∧
    (∀ (p : Part) (buf : BitVec 48), keyGet s.xallocs buf.toNat = some p.val → s.fld (suExchTmoOff 0 p.val) 15 0 ≠ 0 →
      ∃ t, exec (.xallocBufferTimeout p buf) s = .next t ∧ keyGet t.xallocs buf.toNat = none ∧
        t.reg (suLateOff 0) = s.reg (suLateOff 0) + 1 ∧ t.cmds = s.cmds ∧
        ∀ b, b ≠ buf.toNat → keyGet t.xallocs b = keyGet s.xallocs b)

/-! ## Flags, copies and conversions -/

/-- R437, R257: WAIT_FLAG and each later test of its flag end the command when the condition holds, keep it waiting when it does
not, and end it with ST_POISON and the flag's address when the flag is poisoned; the timeout ends it with the value read last.
SIGNAL stores its word or adds it to the flag: at once in this module, by a request to another. -/
def Obligations.FlagsAreTestedAndSignalled : Prop :=
  ∀ (s : State) (c : CmdId) (x : Cmd), Fresh x → x.par 0 % 8 = 0 →
    let a := x.par 0 % 2 ^ 48
    let own := x.par 0 / 2 ^ 48 = 0 ∨ x.par 0 / 2 ^ 48 = s.ownNode c.p
    let v := leNat (plain (s.bytesRead a 8))
    let holds := (x.par 2 = 0 ∧ v = x.par 1) ∨ (x.par 2 = 1 ∧ x.par 1 ≤ v) ∨ (x.par 2 = 2 ∧ v ≠ x.par 1)
    let tests := fun (i : Instr) =>
      (s.cleanAt a 8 → s.linesGood c.p a 8 → holds → ∃ t, exec i s = .next t ∧ Ended t c stOk 0 ∧ SameCmds s t c ∧ SameMemory s t ∧ SameRegs s t []) ∧
      (s.cleanAt a 8 → s.linesGood c.p a 8 → ¬ holds → ∃ t, exec i s = .next t ∧ Waits t c 1 ∧ SameCmds s t c ∧ SameMemory s t ∧
        SameRegs s t [] ∧ ∀ y, t.cmd c = some y → y.detail = BitVec.ofNat 64 v) ∧
      (∀ b, s.byteRead a = [(b, true)] → ∃ t, exec i s = .next t ∧ Ended t c stPoison (s.globalOf c.p a) ∧ SameCmds s t c)
    (own → Begun s c 0x11 x → ZeroFrom x 4 → x.par 2 < 3 → x.par 3 < 2 ^ 32 → s.refusedGal c.p a 8 = none →
      tests (.waitFlag c)) ∧
    (own → s.calm → s.cmd c = some { x with phase := .issued, pending := 1 } → x.opcode = 0x11 → x.par 2 < 3 →
      tests (.waitFlagTest c)) ∧
    (∀ d, own → s.calm → s.cmd c = some { x with phase := .issued, pending := 1, detail := d } → x.opcode = 0x11 →
      (x.par 3 ≠ 0 → ∃ t, exec (.flagTimeout c) s = .next t ∧ Ended t c stFlagTimeout d ∧ SameCmds s t c ∧ OnlyCmds s t) ∧
      (x.par 3 = 0 → ∃ t, exec (.flagTimeout c) s = .next t ∧ t = s)) ∧
    (Begun s c 0x12 x → ZeroFrom x 3 → x.par 2 ∈ [0, 1, 4, 5] → s.here (x.par 0 / 2 ^ 48) = true → x.par 0 / 2 ^ 48 ≠ 0xFFFF →
      s.refused c.part.val a 8 = none → s.splitDup c.part a = none → s.cleanAt a 8 → s.linesGood c.part.val a 8 →
      s.fabric.waiting = [] → s.fabric.flying = [] → s.halvesGood →
      ∃ t, exec (.signal c) s = .next t ∧ Ended t c stOk 0 ∧ SameCmds s t c ∧ SameBytesBut s t a 8 ∧ SameRegs s t [] ∧
        leNat (plain (t.bytesRead a 8)) = (if x.par 2 % 2 = 1 then (v + x.par 1) % 2 ^ 64 else x.par 1)) ∧
    (∀ k h (tc : Fin 4), Begun s c 0x12 x → ZeroFrom x 3 → x.par 2 = 2 * tc.val → tc = 0 ∨ tc = 2 →
      x.par 0 / 2 ^ 48 ≠ 0xFFFF → s.fabric.waiting = [] →
      let r := cmdReq c 0 0 .none (pkWith (pkTo 0x03 tc c.part (x.par 0)) (clean (natLe 8 (x.par 1))))
      CanLaunch s r k h → ∃ t, exec (.signal c) s = .next t ∧ Waits t c 1 ∧ Launched s t r k h ∧ SameCmds s t c ∧
        SameMemory s t ∧ SameRegs s t [])

/-- R438, R439, R256: DMA_COPY copies its bytes with their poison, within the module at once, by STORE requests to another module,
and to and from host memory; both host flags together are malformed. DMA_CONVERT stores each source element converted by R28
into the destination's format. -/
def Obligations.CopiesAndConversions : Prop :=
  ∀ (s : State) (c : CmdId) (x : Cmd), Fresh x → s.fabric.waiting = [] → s.hasYielded c = false →
    let src := x.par 0
    let dst := x.par 1
    let a := src % 2 ^ 48
    let b := dst % 2 ^ 48
    let n := x.par 2
    let whole := 1 ≤ n ∧ src % 128 + n ≤ 128 ∧ dst % 128 + n ≤ 128
    let srcHere := s.here (src / 2 ^ 48) = true ∧ src / 2 ^ 48 ≠ 0xFFFF ∧ s.refused c.p a n = none ∧ s.cleanAt a n ∧
      s.linesGood c.p a n
    let dstHere := s.here (dst / 2 ^ 48) = true ∧ dst / 2 ^ 48 ≠ 0xFFFF ∧ s.refused c.p b n = none ∧ s.cleanAt b n ∧
      s.linesGood c.p b n ∧ b + n ≤ 2 ^ 48
    let ends := fun (t : State) => Ended t c stOk 0 ∧ SameCmds s t c ∧ SameRegs s t []
    (Begun s c 0x13 x → ZeroFrom x 4 → whole →
      (x.par 3 = 0 → srcHere → dstHere → ∃ t, exec (.dmaCopy c) s = .next t ∧ ends t ∧
        t.bytesRead b n = s.bytesRead a n ∧ SameBytesBut s t b n) ∧
      (x.par 3 = 1 → dstHere → ∃ t, exec (.dmaCopy c) s = .next t ∧ ends t ∧ t.bytesRead b n = clean (s.hostRead src n) ∧
        SameBytesBut s t b n) ∧
      (x.par 3 = 2 → x.got = [] → srcHere → dst + n ≤ 2 ^ 64 → ∃ t, exec (.dmaCopy c) s = .next t ∧ ends t ∧ SameMemory s t ∧
        t.hostRead dst n = plain (s.bytesRead a n)) ∧
      (x.par 3 = 0 → srcHere → dst / 2 ^ 48 ≠ 0xFFFF → ∀ k h,
        let r := cmdReq c 0 (s.dmaLan c) .none (pkWith (pkTo 0x03 0 c.part dst) (s.bytesRead a n))
        CanLaunch s r k h → ∃ t, exec (.dmaCopy c) s = .next t ∧ Waits t c 1 ∧ Launched s t r k h ∧ SameMemory s t)) ∧
    (Begun s c 0x13 x → x.par 3 % 4 = 3 → ∃ t, exec (.dmaCopy c) s = .next t ∧
      Ended t c stMalformed (BitVec.allOnes 64) ∧ SameCmds s t c ∧ OnlyCmds s t) ∧
    (∀ (a : Nat), Begun s c 0x14 x → ZeroFrom x 2 → s.localPtr c.p src = some a → a % 64 = 0 → dst < 2 ^ 32 → dst ≠ 0 →
      s.refusedGal c.p a 64 = none → s.cleanAt a 64 →
      let d := ConvDesc.ofRaw (s.peek a 64)
      let from_ := d.src % 2 ^ 48
      let tgt := d.dst % 2 ^ 48
      let w := d.fmt.bytes
      d.ok (s.ownNode c.p) = true → d.comp = false → d.blk = false → d.df ≠ 6 → d.fmt.isInt = false → d.ssl = 0xFFFF →
      d.dsl = 0xFFFF → d.rows = 1 → d.cols = 1 → s.refused c.p from_ d.sfmt.bytes = none → s.refused c.p tgt w = none →
      s.cleanAt from_ d.sfmt.bytes → s.cleanAt tgt w → tgt + w ≤ 2 ^ 48 →
      s.linesGood c.p from_ d.sfmt.bytes → s.linesGood c.p tgt w →
      ∃ t, exec (.dmaConvert c) s = .next t ∧ Ended t c stOk 0 ∧ SameCmds s t c ∧
        SameRegs s t [galDmaSparseOff (x.convEngine / 4) (x.convEngine % 4)] ∧ SameBytesBut s t tgt w ∧
        t.bytesRead tgt w = clean (natLe w (convert (d.value 0 (leNat (plain (s.bytesRead from_ d.sfmt.bytes))))
          d.fmt d.round 0 0 d.inf 0).code))

/-! ## Steps, scale slots and the update gate -/

/-- R129, R365, R436: a STEP_PLAN with no plan in force is accepted at once; with one in force it waits for the step's close, which
waits for the step's commands. The close gives every valid slot its new σ and clears its counters (R128), records the step's
plan, gate and times, and puts the waiting plan in force. R131: once a tripped LAYER slot's partition runs nothing, the commands
since the replay mark are issued again, before those that follow.
R136, R137, R139, R133: the gate on S with limits A and T. S that is NaN, infinite or below zero gives NONFINITE; with
g = rn(√S), g > A gives ABSURD, g ≤ T gives PASS with factor 1, and T < g ≤ A gives CLIP with factor rn(T ÷ g); a tripped STEP
slot gives SCALE_REPLAY. Outcome, step, norm and factor stand in CMD_GATE_STATUS and CMD_GATE_NORM, and a skipped step is
counted. -/
def Obligations.StepPlansGatesAndClose : Prop :=
  ((∀ (s : State) (c : CmdId) (x : Cmd) (a : Nat) (counts : List Nat) (versions : List (Nat × BitVec 16)), c.func ≠ 0 →
     Begun s c 0x10 x → Fresh x → x.replay = false → ZeroFrom x 5 → s.localPtr c.p (x.par 3) = some a → a % 128 = 0 →
     s.cleanAt a (x.par 4) → 64 ≤ x.par 4 → x.par 4 ≤ 1048576 → limitsOk (x.par 2 % 2 ^ 32) (x.par 2 / 2 ^ 32) = true →
     s.refusedGal c.p a (x.par 4) = none → s.planBlock a (x.par 4) = .ok (counts, versions) →
     let pl : Plan :=
       { step := BitVec.ofNat 32 (x.par 0), planId := BitVec.ofNat 32 (x.par 0 / 2 ^ 32), seed := BitVec.ofNat 64 (x.par 1),
         absurd := BitVec.ofNat 32 (x.par 2), clip := BitVec.ofNat 32 (x.par 2 / 2 ^ 32), ptr := a, bytes := x.par 4,
         versions := versions }
     ((s.job c.p).plan = none → s.keeperOn c.p = false →
       ∃ t, exec (.stepPlan c) s = .next t ∧ Ended t c stOk 0 ∧ (t.job c.p).plan = some pl ∧ (t.job c.p).gate = none ∧
         (t.job c.p).closing = none ∧ t.planOn c.p = true ∧ ∀ q, q ≠ c.p → t.job q = s.job q) ∧
     ((s.job c.p).plan ≠ none → ∃ t, exec (.stepPlan c) s = .next t ∧ Waits t c 1 ∧ SameCmds s t c ∧ SameMemory s t ∧
       SameRegs s t [] ∧ t.job c.p = { s.job c.p with closing := some ⟨false, pl, counts, c⟩ })) ∧
  (∀ (s : State) (p : Part) (cl : Closing) (pl : Plan), (s.job p.val).closing = some cl → (s.job p.val).plan = some pl →
     let runs := fun (x : Cmd) => x.id.func = funcOf p ∧ x.id.ring = 0 ∧ x.id ≠ cl.cmd ∧ x.phase ≠ .consumed
     ((∃ x ∈ s.cmds, runs x) → ∃ t, exec (.stepClose p) s = .next t ∧ t = s) ∧
     ((∀ x ∈ s.cmds, ¬ runs x) → (∃ x, s.cmd cl.cmd = some x) → s.keeperOn p.val = false → s.calm →
       ∃ t, exec (.stepClose p) s = .next t ∧ Ended t cl.cmd stOk 0 ∧ (t.job p.val).plan = some cl.plan ∧
         (t.job p.val).lastPlan = some pl ∧ (t.job p.val).closing = none ∧ (t.job p.val).gate = none ∧
         t.reg (cmdStepTimeWallOff p.val) = BitVec.ofNat 64 ((s.reg modTimeOff).toNat - (s.job p.val).stepStart) ∧
         (t.job p.val).stepStart = (s.reg modTimeOff).toNat)) ∧
  (∀ (r : SlotRaw) (failed : Bool), slotValid r = true → r < 2 ^ 1024 →
     let r' := closeSlot r failed
     slSatCount r' = 0 ∧ slOvfCount r' = 0 ∧ slExcess r' = 0 ∧ slReplays r' = 0 ∧ slHead r' = (slHead r + 1) % slHlen r ∧
       slHist r' (slHead r') = 0 ∧ (slKind r = 0 → slSigma r' = closeSigma r failed) ∧
       (slKind r = 1 → slPend r' = closeSigma r failed ∧ slSigma r' = slSigma r) ∧
       (2 ≤ slKind r → slSigma r' = slSigma r ∧ slPend r' = slPend r)) ∧
  (∀ (s : State) (p : Part) (last : W32) (i : Nat), (s.job p.val).tripSeq = some last →
     ((∃ x ∈ s.cmds, x.id.func = funcOf p ∧ x.id.ring = 0 ∧ x.phase ≠ .consumed) →
       ∃ t, exec (.layerReplay p) s = .next t ∧ t = s) ∧
     ((∀ x ∈ s.cmds, x.id.func = funcOf p → x.id.ring = 0 → x.phase = .consumed) → (s.job p.val).drain = [i] →
       s.cleanAt (s.slotAddr p.val i) 128 → s.slotAddr p.val i + 128 ≤ 2 ^ 48 → s.slotAddr p.val i % 128 = 0 →
       ∃ t, exec (.layerReplay p) s = .next t ∧
         (∃ again, t.cmds = again ++ s.cmds ∧ again.map (·.words) = unitOf p (s.job p.val).marked last ∧
           ∀ x ∈ again, x.phase = .consumed ∧ x.replay = true ∧ x.layer = true) ∧
         (t.job p.val).drain = [] ∧ (t.job p.val).tripSeq = none ∧ (t.job p.val).marked = (s.job p.val).marked ∧
         (t.job p.val).tripped = (s.job p.val).tripped.filter (· != i) ∧
         Announces s t evScaleReplay (some p) (BitVec.ofNat 64 i) 0 ∧
         t.reg (cmdScaleReplaysOff p.val) = s.reg (cmdScaleReplaysOff p.val) + 1 ∧
         slSigma (t.slot p.val i) = max (-120) (slSigma (s.slot p.val i) - (slExcess (s.slot p.val i) + 1)) ∧
         slSatCount (t.slot p.val i) = 0 ∧ slOvfCount (t.slot p.val i) = 0 ∧ slExcess (t.slot p.val i) = 0 ∧
         slReplays (t.slot p.val i) = Nat.min 15 (slReplays (s.slot p.val i) + 1)))) ∧
  (∀ (s : State) (c : CmdId) (x : Cmd) (a : Nat) (pl : Plan), c.func ≠ 0 → Begun s c 0x26 x → Fresh x → x.replay = false →
    ZeroFrom x 1 → s.localPtr c.p (x.par 0) = some a → a % 4 = 0 → s.refusedGal c.p a 4 = none → s.cleanAt a 4 →
    s.linesGood c.p a 4 → (s.job c.p).plan = some pl → (s.job c.p).gate = none → s.keeperOn c.p = false →
    let sq := leNat (plain (s.bytesRead a 4))
    let v := Fmt.fp32.decode sq
    let g := (rnTo .fp32 (fvSqrt v).1).1
    let limA := (Fmt.fp32.decode pl.absurd.toNat).rat
    let limT := (Fmt.fp32.decode pl.clip.toNat).rat
    let gr := (Fmt.fp32.decode g).rat
    let trip := (s.job c.p).stepTrip
    let gives := fun (outcome norm factor : Nat) => ∃ t, exec (.updateGate c) s = .next t ∧
      Ended t c (if outcome ≤ 2 then stOk else stGateFail) (BitVec.ofNat 64 (outcome * 2 ^ 32 + norm)) ∧
      t.reg (cmdGateStatusOff c.p) = BitVec.ofNat 64 (pl.step.toNat * 2 ^ 32 + outcome) ∧
      t.reg (cmdGateNormOff c.p) = BitVec.ofNat 64 (factor * 2 ^ 32 + norm) ∧ SameMemory s t ∧
      t.reg (cmdSkippedOff c.p) = s.reg (cmdSkippedOff c.p) + (if 3 ≤ outcome then 1 else 0) ∧
      (t.job c.p).gate = some ⟨outcome, BitVec.ofNat 32 norm, BitVec.ofNat 32 factor, BitVec.ofNat 32 sq, c.seq⟩ ∧
      SameCmds s t c
    (trip = false → (v.isNan ∨ (∃ p, v = .inf p) ∨ ∃ m, v = .fin true m ∧ m ≠ 0) → gives 3 sq 0) ∧
    (∀ p m, trip = false → v = .fin p m → p = false ∨ m = 0 →
      (limA < gr → gives 4 g 0) ∧
      (gr ≤ limA → gr ≤ limT → gives 1 g 0x3F800000) ∧
      (gr ≤ limA → limT < gr →
        gives 2 g (rnTo .fp32 (fvDiv (Fmt.fp32.decode pl.clip.toNat) (Fmt.fp32.decode g)).1).1)) ∧
    (∀ p m, trip = true → (s.job c.p).replayTry = false → v = .fin p m → p = false ∨ m = 0 → gives 5 g 0))

/-! ## Engine commands -/

/-- R60, R69, R76, R91, R92, R158, R356: RUN_GROUPED divides the entries' rows into chunks within the engines' capacity and queues them
on its engines; a pass that enters shows its partition, entry and number in ME_STATUS; a version wait that outlasts its timeout
ends the command; a row block's last piece joins it; at a yield point an engine goes from TENDER work to the PRIMARY work that
waits. -/
def Obligations.MatrixCommandsRun : Prop :=
  (∀ m h : Nat, 0 < h → ((chunkRows m h).map (·.2)).sum = m ∧ ∀ x ∈ chunkRows m h, x.2 ≤ h ∧ x.1 + x.2 ≤ m) ∧
  (∀ (s : State) (c : CmdId) (x : Cmd) (a : Nat), Begun s c 0x20 x → Fresh x → ZeroFrom x 4 →
     s.localPtr c.p (x.par 0) = some a → a % 128 = 0 → 1 ≤ x.par 1 → x.par 1 ≤ 4096 → x.par 3 < 2 ^ 32 → x.meMask ≠ [] →
     s.refusedGal c.p a (128 * x.par 1) = none → s.cleanAt a (128 * x.par 1) →
     let es := (List.range (x.par 1)).map fun i => let r := s.peek (a + 128 * i) 128; (GE.ofRaw i r, r)
     (∀ i ∈ es.flatMap fun e => e.1.slots, s.cleanAt (s.slotAddr c.p i) 128) →
     s.checkSlots c.p (es.flatMap fun e => e.1.slots) = .ok →
     (∀ e ∈ es, s.entryOk c.p (x.par 1 == 1) e.1 = true ∧ e.1.sparse ≠ 2) →
     let items := assignItems x.meMask (tableItems c (es.filter fun e => decide (0 < e.1.m)))
     ∃ t, exec (.runGrouped c) s = .next t ∧ (items = [] → Ended t c stOk 0) ∧ (items ≠ [] → Waits t c items.length) ∧
       (∀ i ∈ items, i.2 ∈ (t.me i.1).queue) ∧ SameCmds s t c ∧ SameMemory s t ∧ SameRegs s t []) ∧
  (∀ (s : State) (e : MeIx) (it : Item) (rest : List Item) (x : Cmd), (s.me e.val).queue = it :: rest →
     s.cmd it.cmd = some x → keyGet s.holders e.val = some it.cmd → (s.me e.val).asked = 0 →
     let st := meStatusOff (e.val / 12) (e.val % 12)
     let left := (it.steps.getD (s.me e.val).pass []).zipIdx.filter fun j => !(s.me e.val).ended.contains j.2
     let job := left.head?.map (·.1)
     let enters := fun (i : Instr) => ∃ t, exec i s = .next t ∧ t.fld st 29 28 = it.cmd.p ∧
       t.fld st 27 16 = ((job.map (·.e.ix)).getD 0) % 4096 ∧ t.fld st 11 0 = ((job.map (·.pass)).getD 0) % 4096
     ((s.me e.val).waiting = none → enters (.passStart e)) ∧
     (∀ d, (s.me e.val).waiting = some d → enters (.versionRecheck e) ∧
       ((s.me e.val).lines = [] → (s.me e.val).fail = none → ∃ t, exec (.passStart e) s = .next t ∧ t = s))) ∧
  (∀ (s : State) (e : MeIx) (it : Item) (m : MeState) (x : Cmd) (d : Nat), s.mes = [(e.val, m)] → m.queue = [it] →
     m.waiting = some d → s.cmd it.cmd = some x → OnePieceLeft s it.cmd → x.joins = [] →
     (s.fld (meVersionTmoOff (e.val / 12) it.cmd.p) 15 0 ≠ 0 → ∃ t, exec (.versionTimeout e) s = .next t ∧
       Ended t it.cmd stVersionTimeout (BitVec.ofNat 64 d) ∧ t.bit (meErrOff (e.val / 12) (e.val % 12)) 2 = true ∧
       t.fld (meStatusOff (e.val / 12) (e.val % 12)) 31 30 = 3 ∧ (t.me e.val).queue = [] ∧ SameMemory s t) ∧
     (s.fld (meVersionTmoOff (e.val / 12) it.cmd.p) 15 0 = 0 → ∃ t, exec (.versionTimeout e) s = .next t ∧ t = s)) ∧
  (∀ (s : State) (c : CmdId) (x : Cmd) (j : Join), s.cmd c = some x → x.joins = [j] → OnePieceLeft s c →
     (s.pieceLeft c j.rb = false → s.joinReady x j.lan = true → ∃ t, exec (.tilelistJoin c j.rb) s = .next t ∧ SameCmds s t c ∧
       ∃ y, t.cmd c = some y ∧ y.phase = .ended ∧ y.joins = []) ∧
     (s.pieceLeft c j.rb = true ∨ s.joinReady x j.lan = false → ∃ t, exec (.tilelistJoin c j.rb) s = .next t ∧ t = s)) ∧
  (∀ (s : State) (v : VeIx) (d : Fin 32) (n : Lan) (c : CmdId) (q : EngineId × Nat),
     q ∈ [(EngineId.vector v, 96 + v.val), (.sector n, 112 + n.val), (.dma d, 120 + d.val)] →
     let tender := s.bit (cmdPartRoleOff c.p) 0
     let primary := s.cmds.any fun y => isWork y && s.ready y && !s.bit (cmdPartRoleOff y.id.p) 0 && (s.needs y).contains q.2
     let others := fun (t : State) => ∀ k, k ≠ q.2 → keyGet t.holders k = keyGet s.holders k
     (keyGet s.holders q.2 = some c →
       (tender = true → primary = true → s.engineFaulted q.2 = false → ∃ t, exec (.yieldPoint q.1) s = .next t ∧
         keyGet t.holders q.2 = none ∧ t = { s with holders := t.holders, yielded := s.yielded ++ [(q.2, c)] } ∧ others t) ∧
       (tender = false ∨ primary = false ∨ s.engineFaulted q.2 = true →
         ∃ t, exec (.yieldPoint q.1) s = .next t ∧ t = s)) ∧
     (keyGet s.holders q.2 = none → s.yielded = [(q.2, c)] → (∃ x, s.cmd c = some x) →
       (primary = false → ∃ t, exec (.yieldPoint q.1) s = .next t ∧ keyGet t.holders q.2 = some c ∧
         t = { s with holders := t.holders, yielded := [], regs := t.regs } ∧ others t) ∧
       (primary = true → ∃ t, exec (.yieldPoint q.1) s = .next t ∧ t = s))) ∧
  (∀ (s : State) (e : MeIx) (it : Item) (rest : List Item), (s.me e.val).queue = it :: rest →
     keyGet s.holders e.val = some it.cmd → (s.me e.val).acc = [] → (s.me e.val).ended = [] → (s.me e.val).asked = 0 →
     (s.me e.val).waiting = none → (s.me e.val).fail = none → s.engineFaulted e.val = false →
     let tender := fun (i : Item) => s.bit (cmdPartRoleOff i.cmd.p) 0
     (tender it = true → (∃ i ∈ rest, tender i = false) → ∃ t, exec (.yieldPoint (.matrix e)) s = .next t ∧
       (t.me e.val).queue = { it with start := (s.me e.val).pass } :: rest ∧ keyGet t.holders e.val = none ∧
       SameRegs s t [meStatusOff (e.val / 12) (e.val % 12)] ∧ t.fld (meStatusOff (e.val / 12) (e.val % 12)) 31 30 = 0 ∧
       t.cmds = s.cmds) ∧
     (tender it = false ∨ (∀ i ∈ rest, tender i = true) →
       ∃ t, exec (.yieldPoint (.matrix e)) s = .next t ∧ t = s)) ∧
  (∀ (s : State) (ch : Fin 4) (es : List GcEntry), s.gc ch.val = es →
     let tender := fun (e : GcEntry) => s.bit (cmdPartRoleOff e.cmd.p) 0
     ∃ t, exec (.yieldPoint (.channel ch)) s = .next t ∧ t.gc ch.val = es.filter (fun e => !tender e) ++ es.filter tender ∧
       t.cmds = s.cmds ∧ SameMemory s t)

/-- R99, R112, R138, R165: RUN_VECTOR runs its list on its engines and ends with the fault that decides, or ST_OK; an update program
waits for its gate, runs with the gate's factor and norm, and is skipped by a skipping gate. UPDATE_SHARDS ends so too; with no
shard it ends at once; a shard whose queue is not full takes this step's factor and norm into its queue and does no more. -/
def Obligations.VectorAndUpdateCommandsRun : Prop :=
  ∀ (s : State) (c : CmdId) (x : Cmd), c.func ≠ 0 → Fresh x → s.mayIssue x = true →
    let runs := fun (i : Instr) (u : State) (l : VList) (engines : List Nat) =>
      let r := u.runList c.part l engines
      ∃ t, exec i s = .next t ∧ t.mem = r.1.mem ∧ (r.2.2 = none → Ended t c stOk 0) ∧
        ∀ st a, r.2.2 = some (st, a) → ∃ d, Ended t c st d ∧ d.toNat % 2 ^ 48 = a % 2 ^ 48
    (∀ l engines, Begun s c 0x21 x → s.vectorArgs x = .ok (l, engines) →
      let seen := s.lookList c.p (x.par 0 % 2 ^ 48) l
      (l.hdr.update = false → seen.checkList c.p l = .ok → runs (.runVector c) seen l engines) ∧
      (l.hdr.update = true → s.gatePending c = true →
        (∃ t, exec (.runVector c) s = .next t ∧ t.cmds = s.cmds ∧ t.mem = seen.mem ∧
          ∀ v ∈ engines, t.fld (veStatusOff (v / 2) (v % 2)) 31 30 = 2) ∧
        ∃ t, exec (.updateProgramStart c) s = .next t ∧ t = s) ∧
      (l.hdr.update = true → s.gatePending c = false → ∀ i ∈ [(Instr.runVector c, seen), (.updateProgramStart c, s)],
        (∀ st, s.gateFor c.p = .error st →
          ∃ t, exec i.1 s = .next t ∧ Ended t c st 0 ∧ SameCmds s t c ∧ OnlyCmds i.2 t) ∧
        (∀ f g, s.gateFor c.p = .ok (f, g) → i.2.checkList c.p (l.withGate f g) = .ok →
          runs i.1 i.2 (l.withGate f g) engines))) ∧
    (Begun s c 0x27 x → x.par 0 < 2 ^ 16 → ZeroFrom x 1 → s.gatePending c = false → s.keeperOn c.p = false →
      (∀ st, s.gateFor c.p = .error st → ∃ t, exec (.updateShards c) s = .next t ∧ Ended t c st 0 ∧ SameCmds s t c ∧
        OnlyCmds s t) ∧
      (∀ f g pl, s.gateFor c.p = .ok (f, g) → (s.job c.p).plan = some pl → s.shardCount c.p = 0 →
        ∃ t, exec (.updateShards c) s = .next t ∧ Ended t c stOk 0 ∧ SameCmds s t c ∧ SameMemory s t ∧ SameRegs s t []) ∧
      (∀ f g pl i, s.gateFor c.p = .ok (f, g) → (s.job c.p).plan = some pl →
        s.ownedShards c.p = [i] → (s.checkShards c.p).1 = .ok →
        let a := s.shardAddr c.p i
        let r := s.shard c.p i
        let l := s.shardList c.p i (shQhead r)
        let j := (shQhead r + shQlen r) % (shDelay r + 1)
        shQlen r < shDelay r → s.cleanAt a 128 → a + 128 ≤ 2 ^ 48 → keyGet (s.kpart c.p).recDone (shId r) = none →
        (∀ k ∈ shMslot r :: shWslot r :: l.slots, s.cleanAt (s.slotAddr c.p k) 128) →
        s.cleanAt (shList r % 2 ^ 48) (0x140 + 8 * l.hdr.ops) →
        ∃ t, exec (.updateShards c) s = .next t ∧ Ended t c stOk 0 ∧ SameCmds s t c ∧ SameBytesBut s t a 128 ∧
          shQlen (t.shard c.p i) = shQlen r + 1 ∧ shQfactor (t.shard c.p i) j = f.toNat ∧
          shQnorm (t.shard c.p i) j = g.toNat ∧ shVersion (t.shard c.p i) = shVersion r ∧
          shQhead (t.shard c.p i) = shQhead r))

/-! ## Split reductions and weights -/

/-- R113 to R116, R119: AUTO takes PARTIALS while NCON is at most CROSS, and CHAIN above it. A contributor sends its records and, under
PARTIALS, its presence bit; the collector folds the slots once every bit is set and writes the result; a chain's contributor
combines what arrives with its own records and sends it on, and holds what arrives before its command; a record set that does
not come ends the command with the contributor it lacks. -/
def Obligations.SplitReductionsRun : Prop :=
  ∀ (s : State) (c : CmdId) (d : SplitDesc) (recs : Nat), c.func ≠ 0 →
    d.collect % 2 ^ 48 + d.slotBytes + 32 * d.nrec + d.ncon ≤ 2 ^ 48 → d.result % 2 ^ 48 + 32 * d.nrec ≤ 2 ^ 48 →
    let lan : Lan := Fin.ofNat 8 d.lan
    let cross := if d.cross = 0 then s.fld (veSplitOff d.lan c.p) 31 16 else d.cross
    let here := s.here (d.collect / 2 ^ 48)
    let tgt := fun (i : Nat) => s.splitNode d i * 2 ^ 48 + d.collect % 2 ^ 48
    let hop := fun (i : Nat) => Reachable s (s.splitNode d i) c.part ∧ s.splitNode d i < 2 ^ 16
    let node := fun (i : Nat) => d.table % 2 ^ 48 + 2 * i
    let split := fun (x : Cmd) (n : Nat) => s.calm ∧ s.splitCmd c = some (d, recs) ∧ s.cmd c = some x ∧ x.left = 0 ∧
      x.pending = n ∧ x.fails = [] ∧ x.status = 0 ∧ x.detail = 0
    (d.method = 1 → s.splitChain c.p d = false) ∧ (d.method = 2 → s.splitChain c.p d = true) ∧
    (d.method = 0 → s.splitChain c.p d = decide (cross < d.ncon)) ∧
    (∀ x a, Begun s c 0x22 x → Fresh x → ZeroFrom x 2 → s.localPtr c.p (x.par 0) = some a →
      s.localPtr c.p (x.par 1) = some recs → a % 64 = 0 → s.refusedGal c.p a 64 = none → s.cleanAt a 64 →
      SplitDesc.ofRaw (s.peek a 64) = d → s.splitOk c.p d = true → s.refusedGal c.p recs (32 * d.nrec) = none →
      s.cleanAt recs (32 * d.nrec) → s.linesGood c.p recs (32 * d.nrec) →
      let bs := s.bytesRead recs (32 * d.nrec)
      (s.splitChain c.p d = true → d.index = 0 → s.refusedGal c.p (d.table % 2 ^ 48) (2 * d.ncon) = none → hop 1 →
        s.cleanAt (node 1) 2 →
        ∃ t, exec (.splitReduce c) s = .next t ∧ Waits t c (recStores c lan (tgt 1) bs).length ∧
          Asks t (recStores c lan (tgt 1) bs) ∧ SameCmds s t c ∧ SameMemory s t ∧ SameRegs s t []) ∧
      (s.splitChain c.p d = true → d.index ≠ 0 → s.refusedGal c.p (d.table % 2 ^ 48) (2 * d.ncon) = none →
        s.chainHeld c = none → ∃ t, exec (.splitReduce c) s = .next t ∧ Waits t c 1 ∧ SameCmds s t c ∧ SameMemory s t ∧
          SameRegs s t [veStatusOff d.lan 0] ∧
          (keyGet s.holders (96 + 2 * d.lan) = none → t.fld (veStatusOff d.lan 0) 31 30 = 2)) ∧
      (s.splitChain c.p d = false → Reachable s (d.collect / 2 ^ 48) c.part →
        ∃ t, exec (.splitReduce c) s = .next t ∧ Waits t c (s.partialReqs c d recs bs).length ∧
          Asks t (s.partialReqs c d recs bs) ∧ SameCmds s t c ∧ SameMemory s t ∧ SameRegs s t [])) ∧
    (∀ x, split x 1 → s.splitChain c.p d = false → here = true → d.cast = false →
      ((∃ i, i < d.ncon ∧ s.splitPresent d i = false) → ∃ t, exec (.splitCollect c) s = .next t ∧ t = s) ∧
      (∀ bs fl, s.mayIssue x = true → (∀ i, i < d.ncon → s.splitPresent d i = true) → (s.collectAll c d recs).1 = .ok (bs, fl) →
        Reachable s (d.result / 2 ^ 48) c.part → d.nrec ≠ 0 → bs.length = 32 * d.nrec →
        ∃ t, exec (.splitCollect c) s = .next t ∧ Asks t (recStores c lan d.result bs) ∧ SameCmds s t c ∧
          ∃ y, t.cmd c = some y ∧ y.left = 1 ∧ y.flags = x.flags ||| fl ∧
            y.pending = (recStores c lan d.result bs).length)) ∧
    (∀ x (run : List Byte), split x 1 → s.splitChain c.p d = true → 0 < d.index → d.index + 1 < d.ncon → d.nrec = 1 →
      run.length = 32 → hop (d.index + 1) → s.cleanAt recs 32 → s.linesGood c.p recs 32 → s.cleanAt (node (d.index + 1)) 2 →
      let o := s.recordOf recs
      let out := (comb o.1 o.2 (Red.ofBytes run) (Red.ofBytes (plain (s.bytesRead recs 32)))).1.bytes
      ∃ t, exec (.chainRecordArrival c (d.index - 1) [(run, false)]) s = .next t ∧
        Asks t (recStores c lan (tgt (d.index + 1)) (clean out)) ∧ SameCmds s t c ∧ SameMemory s t) ∧
    (∀ index rs, s.cmd c = none → (∀ e ∈ s.chainIn, e.1 ≠ c) →
      ∃ t, exec (.chainRecordArrival c index rs) s = .next t ∧ t.cmds = s.cmds ∧ SameMemory s t ∧ SameRegs s t [] ∧
        ∃ h, t.chainIn = s.chainIn ++ [h] ∧ h.1 = c ∧ h.2.1 = index) ∧
    (∀ x, split x 1 →
      let tmo := s.fld (veSplitOff d.lan c.p) 15 0
      (tmo = 0 → ∃ t, exec (.splitTimeout c) s = .next t ∧ t = s) ∧
      (tmo ≠ 0 → s.splitChain c.p d = true → 0 < d.index → ∃ t, exec (.splitTimeout c) s = .next t ∧
        Ended t c stReduceTimeout (BitVec.ofNat 64 (s.splitNode d (d.index - 1))) ∧ SameCmds s t c ∧
        t.bit (veErrOff d.lan 0) 3 = true ∧ SameMemory s t ∧
        Announces s t evReduceTimeout (some c.part) (BitVec.ofNat 64 (d.index - 1)) 0) ∧
      (∀ i, tmo ≠ 0 → s.splitChain c.p d = false → here = true → i < d.ncon → s.splitPresent d i = false →
        (∀ k, k < i → s.splitPresent d k = true) → ∃ t, exec (.splitTimeout c) s = .next t ∧
          Ended t c stReduceTimeout (BitVec.ofNat 64 i) ∧ SameCmds s t c ∧ t.bit (veErrOff d.lan 0) 3 = true))

/-- R162, R163, R155: LOAD_WEIGHTS asks the source for every line of the shard's ring slot with its tags; DERIVE_WORKING derives the
working copy of an owned shard at its version, writes it with versioned stores, and publishes it to the shard's group, but in
the replay of REPLAY_STEP, which publishes nothing (R404). Versions run from 0 to 0xFFFB and wrap. -/
def Obligations.WeightsLoadedAndDerived : Prop :=
  (∀ v, v ≤ 0xFFFB → verNext v ≤ 0xFFFB ∧ verDist v (verNext v) = 1 ∧ verDist v v = 0 ∧ verNewer v v = false) ∧
  ∀ (s : State) (c : CmdId) (x : Cmd), c.func ≠ 0 → Fresh x → ZeroFrom x 1 →
    let clean := fun (i : Nat) => s.cleanAt (s.shardAddr c.p i) 128 ∧
      ∀ k ∈ [shMslot (s.shard c.p i), shWslot (s.shard c.p i)], s.cleanAt (s.slotAddr c.p k) 128
    (Begun s c 0x23 x → x.par 0 < 2 ^ 48 → clean (x.par 0 % 2 ^ 16) →
      let i := x.par 0 % 2 ^ 16
      let v := x.par 0 / 2 ^ 16 % 2 ^ 16
      let src := x.par 0 / 2 ^ 32
      let r := s.shard c.p i
      let rs := loadReqs c i v src r
      v ≤ 0xFFFB → src ≠ 0xFFFF → s.checkShard c.p i = .ok → s.refused c.p (ringSlot r v) (shWcBytes r) = none →
      Reachable s src c.part → rs ≠ [] →
      ∃ t, exec (.loadWeights c) s = .next t ∧ Waits t c rs.length ∧ Asks t rs ∧ SameCmds s t c ∧ SameMemory s t ∧
        SameRegs s t []) ∧
    (Begun s c 0x24 x → x.par 0 < 2 ^ 16 → clean (x.par 0) → s.checkShard c.p (x.par 0) = .ok →
      let r := s.shard c.p (x.par 0)
      let v := shVersion r
      let d := s.derive c.part (x.par 0) v
      let r' := d.2.shard c.p (x.par 0)
      let run := s.fabric.nextRun
      let members := Config.groupMembers (BitVec.ofNat 14 (shMcast r')).toNat run
      let cast := d.2.mayCast (shMcast r')
      let diag := (d.2.kpart c.p).diag
      shOwned r = true → s.fabric.mcRuns = [] → s.draining 0 = false →
      (∀ st a, d.1 = .error (st, a) → ∃ t, exec (.deriveWorking c) s = .next t ∧ SameCmds s t c ∧
        ∃ e, Ended t c st e ∧ e.toNat % 2 ^ 48 = a % 2 ^ 48) ∧
      (∀ bytes, d.1 = .ok bytes → diag = true → ∃ t, exec (.deriveWorking c) s = .next t ∧ Ended t c stOk 0 ∧
        SameCmds s t c ∧ t.mem = d.2.mem ∧ t.fabric.mcRuns = []) ∧
      (∀ bytes, d.1 = .ok bytes → diag = false → cast = false → ∃ t, exec (.deriveWorking c) s = .next t ∧
        Ended t c stMalformed (BitVec.ofNat 64 (x.par 0)) ∧ SameCmds s t c ∧ t.mem = d.2.mem) ∧
      (∀ bytes, d.1 = .ok bytes → diag = false → cast = true → members = [] →
        ∃ t, exec (.deriveWorking c) s = .next t ∧ Ended t c stOk 0 ∧ SameCmds s t c ∧ t.mem = d.2.mem) ∧
      (∀ bytes, d.1 = .ok bytes → diag = false → cast = true → members ≠ [] →
        ∃ t, exec (.deriveWorking c) s = .next t ∧ Waits t c 1 ∧ SameCmds s t c ∧ t.mem = d.2.mem ∧
          ∃ m, t.fabric.mcRuns = [m] ∧ m.id = run ∧ m.sent = true ∧ m.cmd = some c ∧
            m.members = members ∧ m.data.length = shWcBytes r' / 128))

/-! ## Gradient channels, the mirror, and the Keeper's commands -/

/-- R297 to R300: REDUCE_SCATTER gives its entries to the channels, each to the one with the fewest elements; a chunk adds the
received BF16 values to the FP32 accumulator and rounds each sum to BF16, and the chain's first module forwards its rounded
accumulator with a GCOMMIT behind it, its owner writes it into the incoming gradient slot; a chunk that does not come ends the
command with its predecessor's node. -/
def Obligations.GradientChannelsRun : Prop :=
  (∀ (e : GcEntry) (seed : W64) (k0 : Nat) (ins acc : List (Nat × Bool)), e.sr = false →
     (chunkSum e seed k0 ins acc).els = (ins.zip acc).map fun x =>
       (rnCode .bf16 (fvAdd (Fmt.bf16.decode x.1.1) (Fmt.fp32.decode x.2.1) 0).1, x.1.2 || x.2.2)) ∧
  (∀ (s : State) (c : CmdId) (x : Cmd), Begun s c 0x25 x → Fresh x → ZeroFrom x 1 →
     let a := x.par 0 % 2 ^ 48
     let h := s.peek a 64
     let n := h % 2 ^ 32
     let es := (List.range n).map fun i => s.gcEntry c i (decide (h / 2 ^ 32 = 2)) (s.peek (a + 64 + 64 * i) 64)
     exPtrOk (s.ownNode c.p) (x.par 0) = true → s.refusedGal c.p a 64 = none → 1 ≤ n → n ≤ 65536 →
     h / 2 ^ 32 = 0 ∨ h / 2 ^ 32 = 2 → s.refusedGal c.p (a + 64) (64 * n) = none → s.cleanAt a (64 + 64 * n) →
     (∀ e ∈ es, ∃ y, e = some y ∧ s.cleanAt y.chain (2 * y.len)) →
     let per := assignChannels (es.filterMap id)
     ∃ t, exec (.reduceScatter c) s = .next t ∧ Waits t c n ∧ SameCmds s t c ∧ SameMemory s t ∧
       SameRegs s t ((List.range 4).map fabGcStatusOff) ∧ ∀ ch, ch < 4 → t.gc ch = s.gc ch ++ per.getD ch []) ∧
  (∀ (s : State) (ch : Fin 4), (∃ c, keyGet s.holders (152 + ch.val) = some c) →
     ∀ i ∈ [Instr.gradientChunk ch, .gcChunkTimeout ch], ∃ t, exec i s = .next t ∧ t = s) ∧
  (∀ (s : State) (ch : Fin 4) (e : GcEntry) (rest : List GcEntry) (x : Cmd), s.gc ch.val = e :: rest → s.cmd e.cmd = some x →
     keyGet s.holders (152 + ch.val) = none → (∀ y ∈ rest, y.cmd = e.cmd) → s.calm →
     (e.pos ≠ 0 → s.gcArrival e = none → ∃ t, exec (.gradientChunk ch) s = .next t ∧ t.gc ch.val = e :: rest ∧
       t.cmds = s.cmds ∧ SameMemory s t ∧ SameRegs s t []) ∧
     (e.pos = 0 → 1 < e.len → e.elements ≤ 16384 → e.next = 0 → e.count = none → e.poisoned = false →
       s.cleanAt e.acc (4 * e.elements) → s.linesGood e.cmd.p e.acc (4 * e.elements) → e.stage + 32768 ≤ 2 ^ 48 →
       Reachable s (s.chainNode e 1) e.cmd.part →
       let acc := rowElems .fp32 e.elements (s.load e.cmd.p e.acc (4 * e.elements)).1
       let seed := ((s.job e.cmd.p).plan.map (·.seed)).getD 0
       let els := (chunkSum e seed 0 (List.replicate e.elements (0, false)) acc).els
       let rs := chunkReqs e ch.val (s.chainNode e 1) els true false 0
       ∃ t, exec (.gradientChunk ch) s = .next t ∧ t.gc ch.val = rest ∧ Asks t rs ∧ SameCmds s t e.cmd ∧ SameMemory s t ∧
         ∃ y, t.cmd e.cmd = some y ∧ y.pending = x.pending + rs.length - 1) ∧
     (e.pos = 0 → e.len = 1 → 16384 < e.elements → e.next = 0 → s.cleanAt e.acc 65536 → s.linesGood e.cmd.p e.acc 65536 →
       e.out.2 % 128 = 0 → e.out.2 + 32768 ≤ 2 ^ 48 →
       let acc := rowElems .fp32 16384 (s.load e.cmd.p e.acc 65536).1
       let seed := ((s.job e.cmd.p).plan.map (·.seed)).getD 0
       let els := (chunkSum e seed 0 (List.replicate 16384 (0, false)) acc).els
       ∃ t, exec (.gradientChunk ch) s = .next t ∧ t.bytesRead e.out.2 32768 = bf16Bytes els ∧
         SameBytesBut s t e.out.2 32768 ∧ t.cmds = s.cmds ∧ ∃ e', t.gc ch.val = e' :: rest ∧ e'.next = 1) ∧
     (rest = [] → e.pos ≠ 0 → s.gcArrival e = none → OnePieceLeft s e.cmd →
       (s.fld fabGcCtrlOff 15 0 = 0 → ∃ t, exec (.gcChunkTimeout ch) s = .next t ∧ t = s) ∧
       (s.fld fabGcCtrlOff 15 0 ≠ 0 → ∃ t, exec (.gcChunkTimeout ch) s = .next t ∧ t.gc ch.val = [] ∧
         Ended t e.cmd stReduceTimeout (BitVec.ofNat 64 (s.chainNode e (e.pos - 1))) ∧ SameCmds s t e.cmd ∧
         keyGet t.holders (152 + ch.val) = some e.cmd ∧ t.bit fabErrOff 5 = true ∧
         t.fld (fabGcStatusOff ch.val) 31 30 = 3 ∧ SameMemory s t ∧ SameRegsEv s t [fabErrOff, fabGcStatusOff ch.val])))

/-- R381, R392, R404: MIRROR_CONFIG copies the shard table, the slot table and the lists to the partner, and ends at once
in the replay of REPLAY_STEP and where the
Keeper is off; KEEPER_RESUME, in a HELD job that waits for it, tells the coordinator; REPLAY_STEP, in a HELD job, starts the
replay of a journaled step; each is refused in any other state. -/
def Obligations.KeeperCommandsRun : Prop :=
  ∀ (s : State) (c : CmdId) (x : Cmd), c.func ≠ 0 → Fresh x →
    let refused := fun (i : Instr) => ∃ t, exec i s = .next t ∧ Ended t c stState 0 ∧ SameCmds s t c ∧ OnlyCmds s t
    (Begun s c 0x28 x → ZeroFrom x 0 →
      let rs := (s.configRanges c.p).filter fun r => decide (0 < r.2)
      (∀ i ∈ s.ownedShards c.p, s.cleanAt (shList (s.shard c.p i) % 2 ^ 48 + 8) 8) →
      (∀ r ∈ rs, s.refused c.p r.1 r.2 = none ∧ s.cleanAt r.1 r.2) →
      ((s.kpart c.p).diag = true → ∃ t, exec (.mirrorConfig c) s = .next t ∧ Ended t c stOk 0 ∧ SameCmds s t c ∧
        OnlyCmds s t) ∧
      (s.keeperOn c.p = false → ∃ t, exec (.mirrorConfig c) s = .next t ∧ Ended t c stOk 0 ∧ SameCmds s t c ∧
        SameMemory s t ∧ SameRegs s t []) ∧
      (∀ n, (s.kpart c.p).diag = false → s.keeperOn c.p = true → s.mirrorNode c.p = some n → n < 2 ^ 16 →
        Reachable s n c.part →
        let pks := rs.flatMap fun r => storeLines n 3 c.part (r.2 / 128 + 2) r.1 (s.readMem r.1 r.2).1
        let reqs := pks.mapIdx fun i pk => ({ plainReq pk with cmd := some c, ix := i } : Req)
        ∃ t, exec (.mirrorConfig c) s = .next t ∧ Waits t c reqs.length ∧ Asks t reqs ∧ SameCmds s t c ∧ SameMemory s t ∧
          SameRegs s t [] ∧ (t.kpart c.p).mirrorLost = false)) ∧
    (Begun s c 0x07 x → ZeroFrom x 0 →
      (s.jobState c.p ≠ jHeld ∨ s.phase c.p ≠ 5 → refused (.keeperResume c)) ∧
      (∀ k, s.jobState c.p = jHeld → s.phase c.p = 5 → (s.kpart c.p).takeovers.find? (fun t => t.spare) = some k →
        k.mine = false → Reachable s k.coord.toNat c.part →
        ∃ t, exec (.keeperResume c) s = .next t ∧ Ended t c stOk 0 ∧ SameCmds s t c ∧ SameMemory s t ∧ t.phase c.p = 6 ∧
          SameRegs s t [kprStatusOff c.p] ∧ ∃ q ∈ t.fabric.waiting ++ t.fabric.flying, q.cont = .kctl ∧ q.pk.op = 0x14 ∧
            q.pk.dst = k.coord ∧ q.pk.tc = 3 ∧ kcKind q.pk = 0x0A ∧ kcPart q.pk = c.part ∧ kcSubject q.pk = k.lost.toNat)) ∧
    (Begun s c 0x08 x → ZeroFrom x 1 → x.par 0 < 2 ^ 32 →
      let r : W32 := BitVec.ofNat 32 (x.par 0)
      let recs := (s.jrFrom c.p r).map fun y => s.jrRead c.p y.1 y.2
      s.jrFrom c.p r ≠ [] →
      (s.jobState c.p ≠ jHeld ∨ s.phase c.p ≠ 0 ∨ s.bit (kprStatusOff c.p) 6 = true → refused (.replayStep c)) ∧
      (s.jobState c.p = jHeld → s.phase c.p = 0 → s.bit (kprStatusOff c.p) 6 = false → s.slotCount c.p = 0 →
        r ∉ (s.kpart c.p).jLost →
        (∃ y ∈ recs, y.ty = jrSlots ∧ y.step = r) → (∃ y ∈ recs, y.ty = jrPlan ∧ y.step = r) →
        ∃ t, exec (.replayStep c) s = .next t ∧ Ended t c stOk 0 ∧ t.bit (kprStatusOff c.p) 6 = true ∧
          (t.kpart c.p).diag = true ∧ (t.kpart c.p).replayStep = some r ∧ (t.job c.p).gate = none ∧
          t.reg kprReplaysOff = s.reg kprReplaysOff + 1))

/-! ## The token exchange -/

/-- R191 to R195, R197, R206, R176: an exchange command whose descriptor and tables pass R190 opens its direction of the exchange,
which waits for every lantern of every module of the domain on the way out and for every module on the way back, shows it in
SU_STATUS of every lantern, and is issued. The quotas of an expert's capacity over the source lanterns add up to it. A stream's
rows go out in order in parcels, each of which fits its buffer class. -/
def Obligations.ExchangeCommandsStart : Prop :=
  (∀ c n, 0 < n → ((List.range n).map fun i => quota c i n).sum = c) ∧
  (∀ c n i, i < n → quota c i n = c / n ∨ quota c i n = c / n + 1) ∧
  (∀ stride (rows : List SendRow), 0 < stride → stride ≤ 130816 →
     (parcels stride rows).flatMap (·.2) = rows ∧ parcels stride rows ≠ [] ∧
     (∀ q ∈ parcels stride rows, q.1 < 4 ∧ q.2.length ≤ classRows q.1 stride) ∧
     (∀ q ∈ (parcels stride rows).dropLast, q.1 = 3 ∧ q.2.length = classRows 3 stride) ∧
     ∀ q ∈ parcels stride rows, ∀ k, k < q.1 → classRows k stride < q.2.length) ∧
  ∀ (s : State) (c : CmdId) (x : Cmd) (d : ExDesc) (xt : ExTables) (a : Nat), c.func ≠ 0 → Fresh x →
    (s.exLook c.p (x.par 0 % 2 ^ 48)).exArgs x = .ok (d, xt, a) → s.hasYielded c = false → s.fabric.waiting = [] →
    (∀ e ∈ s.xsends, e.2.cmd ≠ c) →
    let opens := fun (t : State) (dir : Fin 4) =>
      t.exchs = s.exchs ++ [{
        part := c.part, exchId := BitVec.ofNat 32 d.exchId, plan := BitVec.ofNat 32 d.planId, dir := dir, cmd := c, desc := a,
        missing := streamsOf dir xt.dom, arrived := [], rows := [], fill := List.replicate d.nslots 0 }] ∧
      (∀ n, n < 8 → keyGet t.holders (112 + n) = none → ∃ e, t.exchs.head? = some e ∧ t.reg (suStatusOff n) =
        BitVec.ofNat 64 (2 * 2 ^ 30 + e.part.val * 2 ^ 28 + e.dir.val * 2 ^ 26 + e.exchId.toNat % 2 ^ 16)) ∧
      (∀ n, n < 8 → keyGet t.holders (112 + n) = some c → t.fld (suStatusOff n) 31 30 = 3) ∧
      (∃ y, t.cmd c = some y ∧ y.phase = .issued ∧ 1 ≤ y.pending) ∧ SameCmds s t c ∧
      t = { s with mem := t.mem, prot := t.prot, regs := t.regs, cmds := t.cmds, jobs := t.jobs, fabric := t.fabric,
                   holders := t.holders, xsends := t.xsends, exchs := t.exchs, parcels := t.parcels, xallocs := t.xallocs, pools := t.pools,
                   hostMem := t.hostMem, out := t.out, funcs := t.funcs, heldEv := t.heldEv, heldLost := t.heldLost,
                   keeper := t.keeper, recTypes := t.recTypes }
    (Begun s c 0x30 x → ∃ t, exec (.routeTokens c) s = .next t ∧ opens t 0) ∧
    (Begun s c 0x31 x → ∃ t, exec (.returnResults c) s = .next t ∧ opens t 1) ∧
    (Begun s c 0x32 x → ∃ t, exec (.routeGradients c) s = .next t ∧ opens t 2) ∧
    (Begun s c 0x33 x → ∃ t, exec (.returnGradients c) s = .next t ∧ opens t 3)

/-- R193, R194, R197, R199, R202, R203: a stream is packed once its last parcel and every lower one have arrived, and in
deterministic mode the forward pack waits for every stream; a stream that no command waits for is a plan mismatch. The results
of a token, or its gradients, are combined once every stream has come back, and each combined row is stored; the command's
exchange then ends. A stream that does not come ends the command with the lowest missing node. -/
def Obligations.ExchangesPackAndCombine : Prop :=
  ∀ (s : State) (c : CmdId) (e : Exch) (x : Cmd), s.exchOf c = some e → s.cmd c = some x →
    let closed := fun (t : State) => t.exchOf c = none ∧ t.exchDone = s.exchDone ++ [(e.part, e.exchId, e.plan, e.dir)] ∧
      (s.exchs = [e] → ∀ n, n < 8 → keyGet t.holders (112 + n) = none → t.fld (suStatusOff n) 31 30 = 0)
    (∀ st, st.dir ≠ e.dir ∨ st ∈ e.arrived ∨ s.streamIn e.part e.exchId st = none →
      ∃ t, exec (.exchangePack c st) s = .next t ∧ t = s) ∧
    (∀ st ps, st.dir = e.dir → st ∉ e.arrived → s.streamIn e.part e.exchId st = some ps →
      (st ∉ e.missing → ∃ t, exec (.exchangePack c st) s = .next t ∧ t.bit (suErrOff 0) 4 = true ∧ SameCmds s t c ∧
        t.parcels = s.parcels.filter (fun q => !ps.contains q) ∧ t.exchs = s.exchs ∧
        ∃ y, t.cmd c = some y ∧
          y.fails = x.fails ++ [⟨failRank 0x30 stPlanMismatch, 0, stPlanMismatch, BitVec.ofNat 64 st.node.toNat, false⟩]) ∧
      (st ∈ e.missing → e.missing.length ≠ 1 → e.dir = 0 → s.determ e.part.val = true →
        ∃ t, exec (.exchangePack c st) s = .next t ∧ t = { s with exchs := t.exchs } ∧
          t.exchOf c = some { e with missing := e.missing.filter (fun y => y != st), arrived := e.arrived ++ [st] }) ∧
      (st ∈ e.missing → e.missing.length ≠ 1 → e.dir ≠ 0 ∨ s.determ e.part.val = false → (∀ q ∈ ps, q.buf + 32 ≤ 2 ^ 48) →
        ∃ t e', exec (.exchangePack c st) s = .next t ∧ t.exchOf c = some e' ∧
          e'.missing = e.missing.filter (fun y => y != st) ∧ e'.arrived = e.arrived ++ [st] ∧ SameCmds s t c ∧
          t.parcels = s.parcels.filter (fun q => !ps.contains q)) ∧
      (e.missing = [st] → e.dir = 0 ∨ e.dir = 2 → ∃ t, exec (.exchangePack c st) s = .next t ∧ closed t ∧ SameCmds s t c)) ∧
    (let waits := fun (i : Instr) (dir : Fin 4) => e.dir ≠ dir ∨ e.missing ≠ [] → ∃ t, exec i s = .next t ∧ t = s
     let o := fun (d : ExDesc) (k : Nat) => d.tensor k
     let combines := fun (i : Instr) (dir : Fin 4) (k : Nat) (gated : Bool) =>
       let d := ExDesc.ofRaw (s.peek e.desc 256)
       let words := (List.range 8).map fun r => s.peek (d.ptr 6 + r * 4) 4
       let n := d.rowBytes (o d k).fmt
       let row := (o d k).row 0
       e.dir = dir → e.missing = [] →
       (∃ t, exec i s = .next t ∧ closed t ∧ SameCmds s t c) ∧
       (∀ acc, d.t = 1 → combineTok d e gated words 0 = .sum acc → (o d k).slot = 0xFFFF → s.parcels = [] →
         row + n ≤ 2 ^ 48 → s.cleanAt row n → s.linesGood e.part.val row n → s.cleanAt (d.ptr 6) 32 → OnePieceLeft s c →
         ∃ t, exec i s = .next t ∧ Ended t c stOk 0 ∧ SameBytesBut s t row n ∧
           t.bytesRead row n = clean (acc.flatMap fun v => natLe (rowFmt (o d k).fmt).bytes (rnCode (rowFmt (o d k).fmt) v)))
     waits (.combineResults c) 1 ∧ waits (.sumGradients c) 3 ∧ combines (.combineResults c) 1 2 true ∧
     combines (.sumGradients c) 3 4 false) ∧
    (let tmo := s.fld (suExchTmoOff 0 e.part.val) 15 0
     let low := e.missing.foldl (fun m st => Nat.min m st.node.toNat) 0xFFFF
     (e.missing = [] ∨ tmo = 0 → ∃ t, exec (.exchangeTimeout c) s = .next t ∧ t = s) ∧
     (e.missing ≠ [] → tmo ≠ 0 → s.calm → ∃ t, exec (.exchangeTimeout c) s = .next t ∧ closed t ∧ SameCmds s t c ∧
       Ended t c stExchTimeout (BitVec.ofNat 64 low) ∧ t.bit (suErrOff 0) 3 = true ∧
       (∃ st ∈ e.missing, st.node.toNat = low) ∧ ∀ st ∈ e.missing, low ≤ st.node.toNat))

/-! ## The Keeper -/

/-- R382 to R392, R407, R408: what the Keeper's messages do. A partition that the Keeper does not act for does nothing with one. A
heartbeat is recorded, and a partner in the same tray is noted; a suspicion of a mirrored node is probed; a probe is answered with
the module state; a relayed probe goes to the suspect; a hold holds the job and joins the recovery; a hold's answer is counted,
and after the last the coordinator sends TAKE; the taker takes the number, a spare opens the job held and pulls from the
coordinator; a group-mate drains its classes; RING_RESET closes the lost node's receive halves, reopens the send halves to it at 0
and drops newer version tags; the spare's readiness is told to the host. -/
def Obligations.KeeperMessagesHoldAndTake : Prop :=
  ∀ (s : State) (pk : Packet),
    let p := kcPart pk
    let sub := kcSubject pk
    let node : Node := BitVec.ofNat 16 sub
    let kept := s.keeperOn p.val = true
    let ok := fun (t : State) => KReplies t pk 0
    let reached := s.here sub = false ∧ s.llPorts s.injBank sub ≠ []
    let from_ := s.here pk.src.toNat = false ∧ s.llPorts s.injBank pk.src.toNat ≠ []
    (∀ e ∈ ([(.suspect pk, 0x02), (.hold pk, 0x05), (.heldAck pk, 0x06), (.take pk, 0x07), (.ringReset pk, 0x08),
        (.spareReady pk, 0x09), (.replay pk, 0x0A), (.retire pk, 0x0F), (.abort pk, 0x10)] : List (Instr × Nat)),
      KMessage s pk e.2 → s.keeperOn p.val = false →
        ∃ t, exec e.1 s = .next t ∧ ok t ∧ Recorded t pk ∧ SameMemory s t ∧ OnlyServed s t) ∧
    (KMessage s pk 0x01 → s.watches pk.src.toNat = true → ∃ t, exec (.heartbeat pk) s = .next t ∧ ok t ∧
      t.keeper.watched = s.keeper.watched.filter (fun x => x.node != pk.src) ++ [watchedOf pk] ∧ SameMemory s t ∧
      SameRegsEv s t [] ∧ t.cmds = s.cmds ∧ ∀ q : Part, s.keeperOn q.val = true → s.mirrorNode q.val = some pk.src.toNat →
        (watchedOf pk).tray = s.pins.trayId → (t.kpart q.val).sameTray = true) ∧
    (KMessage s pk 0x01 → s.watches pk.src.toNat = false →
      ∃ t, exec (.heartbeat pk) s = .next t ∧ ok t ∧ SameMemory s t ∧ OnlyServed s t) ∧
    (∀ q, KMessage s pk 0x02 → kept → reached → node ∉ s.keeper.gone → s.kept.find? (fun q => s.mirrors q.val sub) = some q →
      (∀ x ∈ s.keeper.probes, x.node ≠ node ∨ x.relayFor ≠ none) →
      ∃ t, exec (.suspect pk) s = .next t ∧ ok t ∧ t.reg kprLastOff = BitVec.ofNat 64 (sub * 2 ^ 16 + 2) ∧
        ⟨node, none, []⟩ ∈ t.keeper.probes ∧ KAsks t node 0x03 sub ∧ SameMemory s t ∧ t.cmds = s.cmds) ∧
    (KMessage s pk 0x03 → ∃ t, exec (.probe pk) s = .next t ∧ KReplies t pk s.modState ∧ Recorded t pk ∧ SameMemory s t ∧
      OnlyServed s t) ∧
    (KMessage s pk 0x04 → s.here sub = true → ∃ t, exec (.probeRelay pk) s = .next t ∧ KReplies t pk s.modState ∧
      SameMemory s t ∧ OnlyServed s t) ∧
    (KMessage s pk 0x04 → reached → (∀ x ∈ s.keeper.probes, x.relayFor ≠ some pk) →
      ∃ t, exec (.probeRelay pk) s = .next t ∧ t.keeper.probes = s.keeper.probes ++ [⟨node, some pk, []⟩] ∧
        KAsks t node 0x03 sub ∧ keyGet t.fabric.recv (recvKey pk) = some (s.halfFor pk) ∧ SameMemory s t ∧ SameRegs s t []) ∧
    (KMessage s pk 0x05 → kept → s.jobState p.val = jRun → node ≠ noLoss → node ∉ s.keeper.gone →
      (∀ x ∈ (s.kpart p.val).takeovers, x.lost ≠ node ∨ x.coord ≠ pk.src) →
      ∃ t, exec (.hold pk) s = .next t ∧ ok t ∧ t.jobState p.val = jHeld ∧ t.phase p.val = 2 ∧ AllEnded t p ∧
        node ∈ t.keeper.gone ∧
        (t.kpart p.val).takeovers = (s.kpart p.val).takeovers ++ [Takeover.fresh node pk.src false 0 none pk.src false]) ∧
    (KMessage s pk 0x05 → kept → s.jobState p.val = jClosed → node ≠ noLoss → s.isSpareOf sub = true →
      (s.kpart p.val).pull = none → from_ → ∃ t, exec (.hold pk) s = .next t ∧ ok t ∧ t.phase p.val = 3 ∧ t.cmds = s.cmds ∧
        ∃ u, (t.kpart p.val).pull = some u ∧ u.lost = node ∧ u.src = pk.src ∧ u.step = none ∧ u.stage = 0) ∧
    (∀ k, KMessage s pk 0x06 → kept → s.leads p.val node = some k →
      let acks := if k.acks.contains pk.src then k.acks else k.acks ++ [pk.src]
      let all := (s.members p.val).all fun n => acks.contains (BitVec.ofNat 16 n)
      let newest : W32 := BitVec.ofNat 32 (leNat ((kcBody pk).take 4))
      let k' : Takeover := { k with acks := acks, low := stepMin k.low (lowestAfter (newest :: s.journaled p.val) (kcStep pk)),
                                    gates := k.gates ++ gatesOf ((kcBody pk).drop 4) }
      (all = false → ∃ t, exec (.heldAck pk) s = .next t ∧ ok t ∧ t.leads p.val node = some k' ∧ SameMemory s t ∧
        SameRegs s t [] ∧ t.cmds = s.cmds) ∧
      (all = true → k.sent = false → node ≠ noLoss → s.jobState p.val = jHeld → s.bit fabLlCtrlOff 3 = false → s.bit fabAliasOff 16 = false →
        k.taker.toNat ≠ s.fabNode → k.coord.toNat = s.fabNode → s.here k.taker.toNat = false →
        s.llPorts s.injBank k.taker.toNat ≠ [] →
        ∃ t, exec (.heldAck pk) s = .next t ∧ ok t ∧ t.phase p.val = 4 ∧ KAsks t k.taker 0x07 sub ∧ SameMemory s t)) ∧
    (KMessage s pk 0x07 → kept →
      let taker := leNat ((kcBody pk).take 2)
      let held := s.jobState p.val = jHeld
      let alone := (s.kpart p.val).pull = none
      (taker = s.fabNode → pk.src.toNat ≠ taker → pk.src ≠ node →
        (∃ t, exec (.take pk) s = .next t ∧ ok t ∧ t.reg fabAliasOff = BitVec.ofNat 64 (sub + 2 ^ 16) ∧
          t.fld (kprStatusOff p.val) 31 16 = sub ∧ t.jobState p.val = jHeld ∧
          t.reg kprTakeoversOff = s.reg kprTakeoversOff + 1) ∧
        (alone → from_ → 0 < s.shardCount p.val → ∃ t, exec (.take pk) s = .next t ∧ t.phase p.val = 3 ∧
          ∃ u, (t.kpart p.val).pull = some u ∧ u.lost = node ∧ u.src = pk.src ∧ u.step = some (kcStep pk) ∧ u.stage = 0) ∧
        (∀ u, (s.kpart p.val).pull = some u → u.lost = node → u.left ≠ 0 → ∃ t, exec (.take pk) s = .next t ∧
          t.phase p.val = 3 ∧ (t.kpart p.val).pull = some { u with step := some (kcStep pk) })) ∧
      (taker ≠ s.fabNode → s.bit fabAliasOff 16 = false → alone → sameGroup sub s.fabNode = false →
        ∃ t, exec (.take pk) s = .next t ∧ ok t ∧ (held → t.phase p.val = 4) ∧ (¬ held → t.phase p.val = s.phase p.val) ∧
          SameRegs s t [kprStatusOff p.val] ∧ SameMemory s t ∧ t.cmds = s.cmds) ∧
      (taker ≠ s.fabNode → s.bit fabAliasOff 16 = false → alone → sameGroup sub s.fabNode = true →
        s.bit fabLlCtrlOff 3 = false →
        ∃ t, exec (.take pk) s = .next t ∧ ok t ∧ (held → t.phase p.val = 4) ∧ t.fld fabLlCtrlOff 14 12 = 7 ∧
          SameRegs s t [kprStatusOff p.val, fabLlCtrlOff] ∧ SameMemory s t ∧
          ∃ k, (t.kpart p.val).takeovers.find? (fun k => k.lost == node) = some k ∧
            k.route = some (decide (BitVec.ofNat 16 taker ≠ pk.src)))) ∧
    (KMessage s pk 0x08 → kept → BitVec.ofNat 16 (leNat ((kcBody pk).take 8)) ≠ pk.src → pk.src ≠ node →
      let joins := fun (k : Takeover) => !k.mine && k.spare && k.lost == node
      (∀ k, (s.kpart p.val).takeovers.find? joins = some k → s.here pk.src.toNat = false → s.phase p.val = 3 →
        k.spareDone = true → ∃ t, exec (.ringReset pk) s = .next t ∧ ok t ∧ t.phase p.val = 5 ∧
          Announces s t evKeeperTakeover (some p) (BitVec.ofNat 64 sub)
            (BitVec.ofNat 64 ((k.low.getD 0).toNat + k.seq.toNat * 2 ^ 32))) ∧
      ∃ t, exec (.ringReset pk) s = .next t ∧ ok t ∧ t.keeper.gone = s.keeper.gone.filter (fun n => n != node) ∧
        t.mem.cells = s.mem.cells ∧ ((s.kpart p.val).takeovers.find? joins = none → SameRegs s t []) ∧ t.cmds = s.cmds ∧
        (∀ key, key / 2 ^ 20 = sub → keyGet t.fabric.recv key = none) ∧
        (∀ e ∈ s.fabric.send, e.2.node = node → e.2.life = .lost →
          ∃ h, (e.1, h) ∈ t.fabric.send ∧ h.life = .open_ ∧ h.next = 0 ∧ h.oldest = 0 ∧ h.out = 0) ∧
        ∀ e ∈ pairsOf ((kcBody pk).drop 8), ∀ i ∈ s.entriesOf p.val e.1, ∀ v, v < 4 →
          ∀ g ∈ granules (ringSlot (s.shard p.val i) v) (shWcBytes (s.shard p.val i)),
            let tag := (s.tagAt (g * 32768)).tag.toNat
            tag ≤ 0xFFFB → verNewer e.2 tag = true → (t.tagAt (g * 32768)).tag = 0xFFFF) ∧
    (∀ k, KMessage s pk 0x09 → kept → s.leads p.val node = some k → k.spare = true → k.spareDone = false → k.swapDone = true →
      let seq : W32 := BitVec.ofNat 32 (leNat ((kcBody pk).take 8))
      ∃ t, exec (.spareReady pk) s = .next t ∧ ok t ∧ t.phase p.val = 5 ∧ SameMemory s t ∧ t.cmds = s.cmds ∧
        t.leads p.val node = some { k with spareDone := true, seq := seq } ∧
        Announces s t evKeeperTakeover (some p) (BitVec.ofNat 64 sub)
          (BitVec.ofNat 64 ((k.low.getD 0).toNat + seq.toNat * 2 ^ 32)))

/-- R379, R380, R394, R398, R405 to R407, R366, R367, R384: REPLAY, when no other recovery is under way, releases the held job, into
the replay of the step where the journal holds it; MIR_COMMIT checks the record's CRC and copies its items from the staging area,
or answers 1; MIR_STEP is noted; MIR_RESTORE sends the record's items back before its answer; a step time is kept, and two members'
times are scored against their lower median; RETIRE from a mirrored owner confirms its loss at once; ABORT puts the job into FAULT;
REG_READ and REG_WRITE serve watched nodes alone. -/
def Obligations.KeeperMessagesMirrorAndReplay : Prop :=
  ∀ (s : State) (pk : Packet),
    let p := kcPart pk
    let sub := kcSubject pk
    let node : Node := BitVec.ofNat 16 sub
    let body := kcBody pk
    let step := kcStep pk
    let kept := s.keeperOn p.val = true
    let ok := fun (t : State) => KReplies t pk 0
    let quiet := fun (i : Instr) (r : Nat) => ∃ t, exec i s = .next t ∧ KReplies t pk r ∧ SameMemory s t ∧ OnlyServed s t
    (KMessage s pk 0x0A → kept → s.leads p.val node = none → s.jobState p.val = jHeld → (s.job p.val).holdByHost = false →
      (∀ k ∈ (s.kpart p.val).takeovers, k.lost = node ∧ k.coord = pk.src) → (s.kpart p.val).release = none →
      (s.kpart p.val).replan = false →
      let recs := (s.jrFrom p.val step).map fun y => s.jrRead p.val y.1 y.2
      let full := ∀ st ∈ (s.kpart p.val).jLost, 2 ^ 31 ≤ (st - step).toNat
      (full → (∀ e ∈ (s.kpart p.val).jSteps, 2 ^ 31 ≤ (e.1 - step).toNat) →
        ∃ t, exec (.replay pk) s = .next t ∧ ok t ∧ t.jobState p.val = jRun ∧ t.phase p.val = 0 ∧ SameMemory s t ∧
          (t.kpart p.val).takeovers = []) ∧
      (full → (∃ y ∈ recs, y.ty = jrSlots ∧ y.step = step) → (∃ y ∈ recs, y.ty = jrPlan ∧ y.step = step) →
        ∃ t, exec (.replay pk) s = .next t ∧ ok t ∧ t.jobState p.val = jRun ∧ t.phase p.val = 0 ∧
          t.bit (kprStatusOff p.val) 6 = true ∧ (t.kpart p.val).replayStep = some step ∧
          t.reg kprReplaysOff = s.reg kprReplaysOff + 1)) ∧
    (KMessage s pk 0x0B → s.stageFor p.val pk.src.toNat = none → quiet (.mirCommit pk) 1) ∧
    (∀ base room, KMessage s pk 0x0B → s.stageFor p.val pk.src.toNat = some (base, room) →
      let n := leNat ((body.drop 8).take 8)
      let bs := fun (h : Nat) => (s.readMem (stageHalf base room h) n).1
      let fits := fun (h : Nat) => h < 2 ∧ 64 ≤ n ∧ stageHalf 0 room h + n ≤ room
      let good := fun (h : Nat) => fits h ∧
        s.recordOk p.val (leNat (body.take 4)) step.toNat (leNat ((body.drop 4).take 4)) (plain (bs h)) = true
      (∀ h, fits h → s.cleanAt (stageHalf base room h) n) →
      ((∀ h, ¬ good h) → quiet (.mirCommit pk) 1) ∧
      (∀ h a len at_, good h → (∀ h', h' < h → ¬ good h') → mirParse (plain (bs h)) = [(a, len, at_)] →
        s.cleanAt a len → a + len ≤ 2 ^ 48 →
        ∃ t, exec (.mirCommit pk) s = .next t ∧ ok t ∧ plain (t.bytesRead a len) = plain (((bs h).drop at_).take len) ∧
          SameBytesBut s t a len ∧ SameRegs s t [] ∧ t.cmds = s.cmds ∧
          (t.kpart p.val).mirrored = MirRec.join (s.kpart p.val).mirrored
            ⟨pk.src, leNat (body.take 4), step, BitVec.ofNat 16 (leNat (((plain (bs h)).drop 8).take 2)), [(a, len)]⟩)) ∧
    (KMessage s pk 0x0C → ∃ t, exec (.mirStep pk) s = .next t ∧ ok t ∧ Recorded t pk ∧ SameMemory s t ∧ SameRegs s t [] ∧
      t.cmds = s.cmds ∧ keyGet (t.kpart p.val).ownerSteps pk.src.toNat = some step) ∧
    (KMessage s pk 0x0D →
      let shard := leNat (body.take 4)
      let found := (s.kpart p.val).mirrored.find? fun m => m.owner == node && m.shard == shard
      let may := node = pk.src ∨ ∃ k, s.leads p.val node = some k ∧ k.spare = true ∧ k.taker = pk.src
      (found = none ∨ ¬ may → quiet (.mirRestore pk) 2) ∧
      (∀ m, found = some m → may → Reachable s pk.src.toNat p → (∀ x ∈ s.keeper.restores, x.2.1 ≠ pk) →
        (∀ y ∈ m.items, s.cleanAt y.1 y.2) →
        let rs := fun (id : Nat) => m.items.flatMap fun y =>
          (storeLines pk.src.toNat 3 p (y.2 / 128 + 2) y.1 (s.readMem y.1 y.2).1).map fun q =>
            ({ plainReq q with cont := .restore id } : Req)
        rs 0 ≠ [] → ∃ t id, exec (.mirRestore pk) s = .next t ∧ Asks t (rs id) ∧ SameMemory s t ∧ SameRegs s t [] ∧
          t.keeper.restores = s.keeper.restores ++ [(id, pk, (rs id).length, m.step.toNat * 2 ^ 32)])) ∧
    (KMessage s pk 0x0E →
      let on := s.bit (kprSlowCtrlOff p.val) 0
      let u := leNat (body.take 8)
      let k := s.kpart p.val
      let own : Node := BitVec.ofNat 16 (s.ownNode p.val)
      let ps := maskPositions (s.slowMask p.val)
      (on = false ∨ sub ≠ 0 → quiet (.slowTime pk) 0) ∧
      (on = true → sub = 0 → pk.src ≠ own → (∀ r ∈ k.slow, r.1 = step → r.2.1 ≠ own ∧ r.2.1 ≠ pk.src) →
        ∃ t, exec (.slowTime pk) s = .next t ∧ ok t ∧ SameMemory s t ∧ SameRegs s t [] ∧
          t.kpart p.val = { k with slow := k.slow ++ [(step, pk.src, u)] }) ∧
      (∀ v i, on = true → sub = 0 → pk.src ≠ own → k.slow.filter (fun r => r.1 == step) = [(step, own, v)] → ps.length = 2 →
        s.position p.val ∈ ps → i ∈ ps → s.groupNode p.val i = pk.src.toNat → (∀ e ∈ k.slowOwn, e.1 = step → e.2 = false) →
        let o := kprSlowStatusOff p.val
        let med := Nat.min u v
        let slow := med * (100 + s.fld (kprSlowCtrlOff p.val) 23 16) < v * 100
        ∃ t, exec (.slowTime pk) s = .next t ∧ ok t ∧ SameMemory s t ∧ SameRegsEv s t [o, fabErrOff] ∧
          t.fld o 63 32 = med % 2 ^ 32 ∧ t.fld o 23 18 = 2 ∧
          (slow → t.fld o 31 24 = Nat.min 255 (k.slowRun + 1)) ∧ (¬ slow → t.fld o 31 24 = 0 ∧ t.bit o 0 = false) ∧
          ∀ r ∈ (t.kpart p.val).slow, r.1 ≠ step)) ∧
    (KMessage s pk 0x0F → kept → (∃ q ∈ s.kept, s.mirrors q.val pk.src.toNat = true) → pk.src ∉ s.keeper.gone →
      ∃ t, exec (.retire pk) s = .next t ∧ ok t ∧ pk.src ∈ t.keeper.gone ∧
        t.reg kprLastOff = BitVec.ofNat 64 (pk.src.toNat * 2 ^ 16 + 3)) ∧
    (KMessage s pk 0x10 → kept → s.jobState p.val ≠ jClosed →
      ∃ t, exec (.abort pk) s = .next t ∧ ok t ∧ t.jobState p.val = jFault ∧ t.phase p.val = 0 ∧ AllEnded t p ∧
        (t.kpart p.val).takeovers = [] ∧ SameMemory s t) ∧
    (let off := leNat (body.take 8)
     let val := leNat ((body.drop 8).take 8)
     let refused := fun (i : Instr) => ∃ t, exec i s = .next t ∧ Answers s t pk 0x10 1 pk.offset [] 0 ∧ SameMemory s t ∧
       SameRegs s t [fabErrOff]
     (KMessage s pk 0x11 → s.watches pk.src.toNat = false → refused (.regRead pk)) ∧
     (KMessage s pk 0x12 → s.watches pk.src.toNat = false → refused (.regWrite pk)) ∧
     (KMessage s pk 0x11 → s.watches pk.src.toNat = true → 16 ≤ pk.payload.length → off < 2 ^ 26 → off % 8 = 0 →
       PlainReg 0 off → off ≠ fabCtxStatusOff → off ≠ fabLlCtrlOff → quiet (.regRead pk) (s.regView off).toNat) ∧
     (∀ h f, KMessage s pk 0x12 → s.watches pk.src.toNat = true → 24 ≤ pk.payload.length → off < 2 ^ 26 → off % 8 = 0 →
       regAt off = some h → h.desc.width = 64 → off ≠ modStateOff →
       h.desc.base ∉ [0x8, 0x400, 0x30020, 0x40028, 0x200028, 0x200050, 0x200310, 0x200318, 0x201000, 0x430000, 0x441000,
         0x435008, 0x435808, 0x435810, 0x435820, 0x436040, 0x443080, 0x444000, 0x1000000, 0x1000008, 0x1000018, 0x1000020,
         0x1000100, 0x1000108, 0x1000110, 0x1001000, 0x1003000, 0x100800c] →
       f ∈ h.desc.flds → f.acc = .rw → f.lo ≤ f.hi → f.hi < 64 → h.desc.flds.count f = 1 →
       (∀ g ∈ h.desc.flds, g.lo ≤ g.hi ∧ (g = f ∨ g.hi < f.lo ∨ f.hi < g.lo)) →
       ∃ t, exec (.regWrite pk) s = .next t ∧ ok t ∧ SameMemory s t ∧ SameRegs s t [off] ∧
         t.fld off f.hi f.lo = bitsOf val f.hi f.lo))

/-- R382 to R384, R386, R388, R391, R392, R405 to R407, R380: what the Keeper does by itself. Heartbeats go to the watched nodes; a
silent mirrored node is probed, another's partner is told; a probe without an answer confirms the loss; a lost target outside the
group is recorded alone; a fault in a running partition holds the job, the second bite of one sector in one step is fatal; a
completed hold is answered with COMMITTED; a spare that does not join is replaced by the coordinator; a takeover that the host
does not resume is fatal; a flagged module whose mirror has acknowledged its step retires into FAULT. A reply takes effect once. -/
def Obligations.KeeperActsByItself : Prop :=
  ∀ (s : State) (p : Part), s.fabric.waiting = [] →
    let k := s.kpart p.val
    let reached := fun (n : Nat) => s.here n = false ∧ s.llPorts s.injBank n ≠ []
    let same := fun (i : Instr) => ∃ t, exec i s = .next t ∧ t = s
    let drops := fun (i : Instr) (n : Notice) => ∃ t, exec i s = .next t ∧ t = { s with keeper := t.keeper } ∧
      n ∉ (t.kpart p.val).notices
    let suspects := fun (i : Instr) (n : Node) =>
      (∀ q, reached n.toNat → n ∉ s.keeper.gone → s.kept.find? (fun q => s.mirrors q.val n.toNat) = some q →
        (∀ x ∈ s.keeper.probes, x.node ≠ n ∨ x.relayFor ≠ none) →
        ∃ t, exec i s = .next t ∧ t.reg kprLastOff = BitVec.ofNat 64 (n.toNat * 2 ^ 16 + 2) ∧ SameMemory s t ∧
          t.cmds = s.cmds ∧ ⟨n, none, []⟩ ∈ t.keeper.probes ∧ KAsks t n 0x03 n.toNat) ∧
      (reached (s.partnerOf n.toNat) → s.here n.toNat = false → n ∉ s.keeper.gone → sameGroup n.toNat s.fabNode = true →
        (∀ q ∈ s.kept, s.mirrors q.val n.toNat = false ∧ s.mirrorNode q.val ≠ some n.toNat) →
        ∃ t, exec i s = .next t ∧ t.reg kprLastOff = BitVec.ofNat 64 (n.toNat * 2 ^ 16 + 2) ∧ SameMemory s t ∧
          t.cmds = s.cmds ∧ KAsks t (BitVec.ofNat 16 (s.partnerOf n.toNat)) 0x02 n.toNat)
    let fatal := fun (t : State) => t.jobState p.val = jFault ∧ t.phase p.val = 0 ∧ AllEnded t p ∧
      (t.kpart p.val).takeovers = []
    (s.kept = [] ∨ s.ejects = false → same .heartbeatSend) ∧
    (∀ q rest w n, s.kept = q :: rest → s.ejects = true → w < 8 → s.wordNode (kprWatchOff w) = some n → reached n →
      ∃ t, exec .heartbeatSend s = .next t ∧ t.cmds = s.cmds ∧ SameMemory s t ∧
        ∃ x ∈ t.fabric.waiting ++ t.fabric.flying, x.pk.dst = BitVec.ofNat 16 n ∧ x.pk.op = 0x14 ∧ x.pk.tc = 3 ∧
          kcKind x.pk = 0x01 ∧ kcBody x.pk = natLe 2 s.modState ++ natLe 2 s.pins.trayId ++
            ([0, 1, 2, 3].map s.jobState).flatMap (natLe 1)) ∧
    (∀ n : Node, (s.watches n.toNat = false → same (.heartbeatMiss n)) ∧
      (s.watches n.toNat = true → s.keeperOn p.val = true → suspects (.heartbeatMiss n) n)) ∧
    (∀ n : Node, (.lost n ∉ k.notices → same (.targetLostNotice p n)) ∧
      (.lost n ∈ k.notices → s.keeperOn p.val = false → drops (.targetLostNotice p n) (.lost n)) ∧
      (.lost n ∈ k.notices → s.keeperOn p.val = true → sameGroup n.toNat s.fabNode = false →
        ∃ t, exec (.targetLostNotice p n) s = .next t ∧ t = { s with regs := t.regs, keeper := t.keeper } ∧
          SameRegs s t [kprLastOff] ∧ t.reg kprLastOff = BitVec.ofNat 64 (n.toNat * 2 ^ 16 + 1) ∧
          .lost n ∉ (t.kpart p.val).notices) ∧
      (.lost n ∈ k.notices → s.keeperOn p.val = true → sameGroup n.toNat s.fabNode = true →
        suspects (.targetLostNotice p n) n)) ∧
    (∀ n : Node, (∀ x ∈ s.keeper.probes, x.node ≠ n) → same (.probeTimeout n)) ∧
    (∀ n : Node, ⟨n, none, []⟩ ∈ s.keeper.probes → n ∉ s.keeper.gone → ∃ t, exec (.probeTimeout n) s = .next t ∧
      n ∈ t.keeper.gone ∧ t.reg kprLastOff = BitVec.ofNat 64 (n.toNat * 2 ^ 16 + 3)) ∧
    (∀ (n : Node) pk a, s.keeper.probes = [⟨n, some pk, a⟩] → pk.op = 0x14 → pk.dst ≠ 0xFFFF →
      ∃ t, exec (.probeTimeout n) s = .next t ∧ t.keeper.probes = [] ∧ KReplies t pk 0xFF ∧ SameMemory s t ∧
        SameRegs s t []) ∧
    (∀ nt, k.notices.find? (noticeNames nt) = none ∨ (s.keeperOn p.val = true ∧ s.jobState p.val ≠ jRun) →
      same (.keeperFaultNotice p nt)) ∧
    (∀ nt x, k.notices.find? (noticeNames nt) = some x →
      (s.keeperOn p.val = false → drops (.keeperFaultNotice p nt) x) ∧
      (s.keeperOn p.val = true → s.jobState p.val = jRun →
        let own : Node := BitVec.ofNat 16 (s.ownNode p.val)
        let recovers := fun (cause : Nat) (sector : Option W64) (answered : List (W32 × W64)) => s.calm →
          (∀ y ∈ k.takeovers, y.lost ≠ noLoss) →
          ∃ t, exec (.keeperFaultNotice p nt) s = .next t ∧ t.jobState p.val = jHeld ∧ t.phase p.val = 2 ∧
            AllEnded t p ∧ (t.kpart p.val).answered = answered ∧ x ∉ (t.kpart p.val).notices ∧
            (t.kpart p.val).takeovers = k.takeovers ++ [Takeover.fresh noLoss own true cause sector own false] ∧
            ∀ n ∈ s.jobNodes p.val, reached n → (∀ y ∈ s.cmds, y.id.func = funcOf p → s.splitOf y = none) →
              KAsks t (BitVec.ofNat 16 n) 0x05 0xFFFF
        (∀ key, s.noticeKey p x = some key → key ∈ k.answered →
          ∃ t, exec (.keeperFaultNotice p nt) s = .next t ∧ fatal t) ∧
        (∀ key, s.noticeKey p x = some key → key ∉ k.answered → recovers 1 (some key.2) (k.answered ++ [key])) ∧
        (s.noticeKey p x = none → recovers 2 none k.answered))) ∧
    (s.keeperOn p.val = false ∨ s.held p = false → same (.holdComplete p)) ∧
    (∀ x, s.keeperOn p.val = true → s.held p = true → k.takeovers.filter (fun y => y.owed) = [x] → x.mine = false →
      reached x.coord.toNat →
      (∀ y ∈ s.gateRecs p.val, s.cleanAt (s.jrBase p.val + y.1.1 % jrBytes) y.1.2) → ∃ t, exec (.holdComplete p) s = .next t ∧ SameMemory s t ∧ SameRegs s t [] ∧ t.cmds = s.cmds ∧
        KAsks t x.coord 0x06 x.lost.toNat ∧ ∀ y ∈ (t.kpart p.val).takeovers, y.owed = false) ∧
    (k.takeovers.find? (fun y => y.mine && y.spare && !y.spareDone) = none → same (.spareJoinTimeout p)) ∧
    (∀ x, k.takeovers.find? (fun y => y.mine && y.spare && !y.spareDone) = some x → x.sent = true →
      x.coord.toNat = s.fabNode → s.jobState p.val = jHeld → s.bit fabLlCtrlOff 3 = false → reached x.taker.toNat →
      ∃ t, exec (.spareJoinTimeout p) s = .next t ∧ t.reg fabAliasOff = BitVec.ofNat 64 (x.lost.toNat + 2 ^ 16) ∧
        t.phase p.val = 4 ∧ KAsks t x.taker 0x07 x.lost.toNat ∧ SameMemory s t ∧
        ∃ y ∈ (t.kpart p.val).takeovers, y.lost = x.lost ∧ y.spare = false ∧ y.taker = x.coord ∧ y.dropped = some x.taker) ∧
    (s.phase p.val ≠ 5 → same (.resumeTimeout p)) ∧
    (s.phase p.val = 5 → s.jobState p.val ≠ jClosed → ∃ t, exec (.resumeTimeout p) s = .next t ∧ fatal t ∧
      ((∃ x ∈ k.takeovers, x.mine = true) → ∀ n ∈ s.jobNodes p.val, reached n → KAsks t (BitVec.ofNat 16 n) 0x10 0xFFFF)) ∧
    (s.keeperOn p.val = false ∨ s.bit (kprCtrlOff p.val) 1 = false ∨ k.retireAck = false ∨ s.modState = mFault →
      same (.retireModule p)) ∧
    (s.keeperOn p.val = true → s.bit (kprCtrlOff p.val) 1 = true → k.retireAck = true → s.modState ≠ mFault →
      ∃ t, exec (.retireModule p) s = .next t ∧ t.modState = mFault ∧ (∀ i, i < 64 → t.bit (fabPortCtrlOff i) 0 = false) ∧
        (∀ q, q < 4 → s.jobState q ≠ jClosed → t.jobState q = jFault) ∧ SameMemory s t ∧
        ∀ n, s.mirrorNode p.val = some n → n < 2 ^ 16 → reached n → KAsks t (BitVec.ofNat 16 n) 0x0F (s.ownNode p.val)) ∧
    (∀ pk r, ReplyMeets s pk 0x10 r → r.pk.op = 0x14 → r.cont = .kctl → s.noPull → kcPart r.pk = p →
      (kcKind r.pk = 0x0C → k.skipped = none → s.bit (kprSlowStatusOff p.val) 0 = false →
        ∃ t, exec (.kctlReply pk) s = .next t ∧ t.committed p.val = kcStep r.pk ∧ (t.kpart p.val).sendStep = none ∧
          t.cmds = s.cmds) ∧
      (kcKind r.pk = 0x03 → pkWord pk 0 % 256 ≠ mFault → pkWord pk 0 % 256 ≠ mProtect →
        s.keeper.probes = [⟨r.pk.dst, none, []⟩] → ∃ t, exec (.kctlReply pk) s = .next t ∧ t.keeper.probes = [] ∧
          t.reg kprLastOff = BitVec.ofNat 64 (r.pk.dst.toNat * 2 ^ 16 + 4) ∧ NotFlying t r ∧ SameMemory s t ∧
          t.cmds = s.cmds ∧ Announces s t evKeeperFalseSuspect none (BitVec.ofNat 64 r.pk.dst.toNat) 0) ∧
      (kcKind r.pk = 0x03 → pkWord pk 0 % 256 = mFault → s.keeper.probes = [⟨r.pk.dst, none, []⟩] →
        r.pk.dst ∉ s.keeper.gone → ∃ t, exec (.kctlReply pk) s = .next t ∧ r.pk.dst ∈ t.keeper.gone)) ∧
    (∀ pk, s.answering pk = none → same (.kctlReply pk))

/-! ## Management -/

/-- R454, R455, R497, R510 to R512: the endpoints answer from STANDBY on. MCTP control assigns the endpoint's EID; PLDM answers from
the states and changes none; a vendor request reads registers or subscribes. Before the management controller runs, the boot ROM
discards everything but MCTP control and its four registers. SPDM signs what is signed over the transcript with the attestation
key, and answers ERROR Unspecified without one; any request it does not support is answered with an ERROR. The bytes of an
answer are the model's free values of what it holds (assumptions 50 and 51). -/
def Obligations.ManagementAnswers : Prop :=
  ∀ (s : State) (tp : Transport) (bytes : List Byte),
    let e := s.endpoint tp
    let up := s.mgmtUp = true
    let runs := s.mgmtRuns = true
    let same := fun (i : Instr) => ∃ t, exec i s = .next t ∧ t = s
    let answer := fun (ty : Nat) (content : List Byte) => Config.mgmtAnswer ty (bytes ++ content) s.out.length
    let speaks := fun (i : Instr) (m : List Byte) (e' : Mgmt) => ∃ t, exec i s = .next t ∧
      t.out = s.out ++ [.mctp tp m] ∧ t.endpoint tp = e' ∧ t = { s with out := t.out, mgmt := t.mgmt } ∧
      ∀ q, q ≠ tp → t.endpoint q = s.endpoint q
    let spdm := fun (i : Instr) (content : List Byte) (e0 : Mgmt) (f : Mgmt → Mgmt) =>
      (s.mgmtRuns = false → same i) ∧
      (runs → speaks i (answer 0x05 content) (f { e0 with transcript := e0.transcript ++ bytes ++ answer 0x05 content }))
    let signed := fun (i : Instr) (content : List Byte) (f : Mgmt → Mgmt) =>
      (s.mgmtRuns = false → same i) ∧
      (∀ key, runs → s.boot.keyStore = some key →
        let t := e.transcript ++ bytes ++ answer 0x05 content
        let sig := Config.attestSign key t
        speaks i (answer 0x05 content ++ sig) (f { e with transcript := t ++ sig })) ∧
      (runs → s.boot.keyStore = none → speaks i [0x12, 0x7F, 0x05, 0x00] e)
    let eid := if bytes.getD 2 0 = 1 then (bytes.getD 4 0).toNat else e.eid
    (s.mgmtUp = false → same (.mctpControl tp bytes) ∧ same (.vendorManagementRequest tp bytes)) ∧
    (up → speaks (.mctpControl tp bytes) (answer 0x00
      ((if s.boot.mgmt then [0x00, 0x01, 0x05, 0x7E] else [0x00, 0x7E]) ++ natLe 1 eid)) { e with eid := eid }) ∧
    (s.mgmtRuns = false → same (.pldmRequest tp bytes)) ∧
    (runs → speaks (.pldmRequest tp bytes) (answer 0x01 (natLe 1 s.modState ++ ([0, 1, 2, 3].map s.jobState).flatMap (natLe 1))) e) ∧
    (∀ off, Config.vendorRead bytes = some (off, 1) →
      (up → s.boot.mgmt = false → off ∉ [modStateOff, bootStatusOff, bootFwRunOff, bootRollbackOff] →
        same (.vendorManagementRequest tp bytes)) ∧
      (∀ h, up → runs ∨ off ∈ [modStateOff, bootStatusOff, bootFwRunOff, bootRollbackOff] → off % 8 = 0 →
        regAt off = some h → h.desc.scope = .mod → PlainReg 0 off →
        speaks (.vendorManagementRequest tp bytes) (answer 0x7E (natLe 8 (s.regView off).toNat)) e)) ∧
    (∀ on, runs → Config.vendorRead bytes = none → Config.vendorSubscribe bytes = some on →
      speaks (.vendorManagementRequest tp bytes) (answer 0x7E []) { e with subscribed := on }) ∧
    spdm (.getVersion tp bytes) [0x12] { e with stage := 1, session := 0, transcript := [] } id ∧
    spdm (.getCapabilities tp bytes) [15] { e with stage := Nat.max 2 e.stage } id ∧
    spdm (.negotiateAlgorithms tp bytes) [] { e with stage := 3 } id ∧
    spdm (.getDigests tp bytes) (sha512 s.certChain) e id ∧ spdm (.getCertificate tp bytes) s.certChain e id ∧
    spdm (.finish tp bytes) [] { e with session := if e.session = 1 then 2 else e.session } id ∧
    spdm (.endSession tp bytes) [] e (fun m => { m with session := 0 }) ∧
    signed (.challenge tp bytes) (sha512 s.certChain) id ∧
    signed (.keyExchange tp bytes) [] (fun m => { m with session := 1 }) ∧
    (let content := s.measFor (bytes.getD 3 0).toNat
     let asked := bitOf (bytes.getD 2 0).toNat 0
     (asked = true → signed (.getMeasurements tp bytes) content id) ∧
     (asked = false → spdm (.getMeasurements tp bytes) content e id)) ∧
    (∀ busy, (s.mgmtRuns = false → same (.spdmUnsupportedRequest tp bytes busy)) ∧
      (runs → bytes ≠ [] → speaks (.spdmUnsupportedRequest tp bytes busy) [0x12, 0x7F, if busy then 0x03 else 0x07, 0x00] e))

/-! ## Encodings, reset and whole-machine facts -/

/-- R314, R315, R321, R322: a packet's frame has 168 bytes; its link code decodes without a correction; every header field, the
payload and the packet check come back out of it as they went in; and the check does not depend on AGE, HOPS and FOG. -/
def Obligations.PacketFramesRoundTrip : Prop :=
  (∀ pk : Packet, pk.payload.length = pk.len.toNat → pk.len.toNat ≤ 128 →
     (frameOf pk).length = 168 ∧ ∃ bs, linkDecode (frameOf pk) = some (bs, 0) ∧
       packetOf (bs.take 160) = (pk, packetCheck pk)) ∧
  ∀ (pk : Packet) (a : BitVec 10) (h : BitVec 5) (f : Bool),
    packetCheck { pk with age := a, hops := h, fog := f } = packetCheck pk

/-- R28, R16: a code of a finite nonzero number, converted into its own format under any rounding mode without a scale, is that code
again, with no flag and no saturation. -/
def Obligations.CodesConvertToThemselves : Prop :=
  ∀ f ∈ [Fmt.fp64, .fp32, .fp16, .bf16, .e4m3, .e5m2, .g4, .mw16], ∀ c, c < 2 ^ f.bits → ∀ s m, f.decode c = .fin s m →
    m ≠ 0 → ∀ mode inf r, mode < 6 → r < 2 ^ 16 →
      convert (.fin s m) f mode 0 0 inf r = ⟨c, none, false, 0⟩

/-- R31: a NaN source converts to the destination's canonical NaN, its sign and payload discarded, under every rounding mode and
scale; a NaN block scale makes every element of its block a NaN source. -/
def Obligations.NanSourcesBecomeCanonical : Prop :=
  (∀ (sig inf : Bool) (mode r : Nat) (sigma xe : Int),
     let code := fun f => (convert (.nan sig) f mode sigma xe inf r).code
     code .fp64 = 0x7FF8000000000000 ∧ code .fp32 = 0x7FC00000 ∧ code .fp16 = 0x7E00 ∧ code .bf16 = 0x7FC0 ∧
       code .e4m3 = 0x7F ∧ code .e5m2 = 0x7F ∧ code .g4 = 8 ∧ code .mw16 = 0x8000) ∧
  (∀ f ∈ [Fmt.fp64, .fp32, .fp16, .bf16, .e4m3, .e5m2, .g4, .mw16], ∃ sig, f.decode f.nanCode = .nan sig) ∧
  ∀ (f : Fmt) (c : Nat) (sigma : Int), decodeScaled f c sigma (scaleExp 255) = .nan false

/-- R542: MOD_PPS_EDGES, at offset 0x0510, is a 64-bit counter that software only reads; it resets to 0, and each edge that the
module sees adds 1, modulo 2^64. -/
def Obligations.PpsEdgesCounted : Prop :=
  (∃ h, regAt 0x510 = some h ∧ h.desc.width = 64 ∧ ∀ f ∈ h.desc.flds, f.acc = .ro) ∧ State.reset.reg 0x510 = 0 ∧
  (∀ s : State, mBoot ≤ s.modState → ∃ t, exec .ppsEdge s = .next t ∧
     (t.reg 0x510).toNat = ((s.reg 0x510).toNat + 1) % 2 ^ 64) ∧
  ∀ (s : State) (by_ : Func) (wide : Bool) (v : W64), ∃ t, exec (.registerWrite by_ 0x510 wide v) s = .next t ∧
    t.reg 0x510 = s.reg 0x510

/-- R114: AUTO selects PARTIALS when NCON is at most CROSS, and CHAIN otherwise. VE_SPLIT.CROSS resets to 64. -/
def Obligations.AutoSelectsByCrossover : Prop :=
  (∀ (s : State) (p : Nat) (d : SplitDesc), d.method = 0 →
     (s.splitChain p d = false ↔
       d.ncon ≤ if d.cross = 0 then s.fld (veSplitOff d.lan p) 31 16 else d.cross)) ∧
  ∀ n p, n < 8 → p < 4 → State.reset.fld (veSplitOff n p) 31 16 = 64

/-- What reset leaves, as the register tables give it: the module state, the timeouts, limits and windows, the node number, and
nothing that waits, runs or is open; memory lists nothing. -/
def Obligations.ResetState : Prop :=
  let r := State.reset
  r.pending = [] ∧ r.cmds = [] ∧ r.mem.wf = true ∧ r.mem.cells = [] ∧ r.modState = mReset ∧ r.fld pwrStateOff 3 0 = 3 ∧
  (∀ n p, n < 8 → p < 4 → r.fld (meLongsumOff n p) 15 0 = 0x40 ∧ r.fld (meVersionTmoOff n p) 15 0 = 0xFA ∧
    r.fld (veSplitOff n p) 15 0 = 0x1F4 ∧ r.fld (suExchTmoOff n p) 15 0 = 0x1F4) ∧
  (∀ p, p < 4 → r.jobState p = jClosed ∧ r.planOn p = false ∧ r.keeperOn p = false ∧ r.phase p = 0 ∧
    r.fld (cmdScaleCtrlOff p) 3 0 = 2 ∧ r.fld (fabOpTmoOff p) 15 0 = 0x14 ∧ r.fld (kprSlowCtrlOff p) 23 16 = 5 ∧
    r.fld (kprSlowCtrlOff p) 15 8 = 0x14) ∧
  (∀ f q, f < 5 → q < 2 → r.ringOn f q = false ∧ r.ringHead f q = 0 ∧ r.ringTail f q = 0) ∧
  r.fld fabNodeOff 15 0 = 0xFFFF ∧ r.bit fabAliasOff 16 = false ∧ r.fld fabCcOff 22 16 = 16 ∧ r.fld fabCcOff 11 8 = 1 ∧
  r.fld fabEjCtrlOff 6 0 = 0x20 ∧ (∀ q, q < 64 → r.portIs q = 0) ∧ r.fld fabGcCtrlOff 15 0 = 0x1F4 ∧
  r.fld kprHbOff 31 24 = 20 ∧ r.fld kprHbOff 23 16 = 3 ∧ r.fld kprHbOff 15 0 = 10 ∧ r.fld kprTmoOff 15 0 = 0x44C ∧
  r.fld pwrCapOff 63 48 = 4000 ∧ r.bit modPpsOff 0 = true ∧ r.fld modPpsOff 15 8 = 0xC8

/-- The memory keeps its canonical form, in which equal memories are equal data: every step of the machine, whatever the command,
takes a state whose memory has the form to one whose memory has it. -/
def Obligations.MemoryStaysCanonical : Prop :=
  ∀ s t : State, s.mem.wf = true → step s = .next t → t.mem.wf = true
end

