-- ==== Sys2Proof/Laws/Bits.lean ====
section
/-! SUPPORT. The laws of bit fields and of little-endian bytes. -/

namespace Sys2Proof.Machine

theorem testBit_bitsOf (v hi lo i : Nat) :
    (bitsOf v hi lo).testBit i = (decide (i < hi + 1 - lo) && v.testBit (lo + i)) := by
  simp [bitsOf, Nat.testBit_mod_two_pow, Nat.testBit_shiftRight]

theorem bitOf_eq (v i : Nat) : bitOf v i = v.testBit i := by
  simp [bitOf, Nat.testBit, Nat.and_comm 1, Nat.and_one_is_mod]

/-- A number with bits [hi:lo] replaced, bit by bit. -/
theorem testBit_setBits (v hi lo x i : Nat) (h : lo ≤ hi) :
    (setBits v hi lo x).testBit i = if lo ≤ i ∧ i ≤ hi then x.testBit (i - lo) else v.testBit i := by
  have hw : lo + (hi + 1 - lo) = hi + 1 := by omega
  have e1 : v = (v / 2 ^ (hi + 1)) * 2 ^ (hi + 1) + (bitsOf v hi lo * 2 ^ lo + v % 2 ^ lo) := by
    have a := Nat.div_add_mod v (2 ^ (hi + 1))
    have b : v % 2 ^ (hi + 1) = bitsOf v hi lo * 2 ^ lo + v % 2 ^ lo := by
      unfold bitsOf
      rw [Nat.shiftRight_eq_div_pow, ← hw, Nat.pow_add, Nat.mod_mul, Nat.mul_comm (2 ^ lo), Nat.add_comm, hw]
    rw [b, Nat.mul_comm] at a
    exact a.symm
  have e2 : setBits v hi lo x =
      (v / 2 ^ (hi + 1)) * 2 ^ (hi + 1) + ((x % 2 ^ (hi + 1 - lo)) * 2 ^ lo + v % 2 ^ lo) := by
    unfold setBits; omega
  have lt : v % 2 ^ lo < 2 ^ lo := Nat.mod_lt _ (Nat.two_pow_pos _)
  have lt2 : (x % 2 ^ (hi + 1 - lo)) * 2 ^ lo + v % 2 ^ lo < 2 ^ (hi + 1) := by
    have : x % 2 ^ (hi + 1 - lo) < 2 ^ (hi + 1 - lo) := Nat.mod_lt _ (Nat.two_pow_pos _)
    have p : 2 ^ (hi + 1) = 2 ^ (hi + 1 - lo) * 2 ^ lo := by rw [← Nat.pow_add]; congr 1; omega
    rw [p]
    calc _ < (x % 2 ^ (hi + 1 - lo)) * 2 ^ lo + 2 ^ lo := by omega
      _ = (x % 2 ^ (hi + 1 - lo) + 1) * 2 ^ lo := by rw [Nat.add_mul, Nat.one_mul]
      _ ≤ _ := Nat.mul_le_mul_right _ this
  have hv : v.testBit i = if i < lo then (v % 2 ^ lo).testBit i else v.testBit i := by
    split
    · next h => simp [Nat.testBit_mod_two_pow, h]
    · rfl
  rw [e2, Nat.mul_comm (v / 2 ^ (hi + 1)), Nat.testBit_two_pow_mul_add _ lt2, Nat.mul_comm (x % _),
    Nat.testBit_two_pow_mul_add _ lt]
  by_cases a : i < lo
  · simp [Nat.testBit_mod_two_pow, a, show i < hi + 1 by omega, show ¬ lo ≤ i by omega]
  · by_cases b : i < hi + 1
    · simp [Nat.testBit_mod_two_pow, a, b, show lo ≤ i ∧ i ≤ hi by omega, show i - lo < hi + 1 - lo by omega]
    · rw [if_neg b, if_neg (by omega)]
      rw [Nat.testBit_div_two_pow]
      congr 1; omega

/-- The field just written. -/
theorem bitsOf_setBits_same (v hi lo x : Nat) (h : lo ≤ hi) :
    bitsOf (setBits v hi lo x) hi lo = x % 2 ^ (hi + 1 - lo) := by
  apply Nat.eq_of_testBit_eq
  intro i
  rw [testBit_bitsOf, testBit_setBits _ _ _ _ _ h, Nat.testBit_mod_two_pow]
  by_cases a : i < hi + 1 - lo
  · simp [a, show lo + i ≤ hi by omega]
  · simp [a]

/-- A field apart from the one written. -/
theorem bitsOf_setBits_apart (v hi lo x hi' lo' : Nat) (h : lo ≤ hi) (ha : hi < lo' ∨ hi' < lo) :
    bitsOf (setBits v hi lo x) hi' lo' = bitsOf v hi' lo' := by
  apply Nat.eq_of_testBit_eq
  intro i
  rw [testBit_bitsOf, testBit_bitsOf, testBit_setBits _ _ _ _ _ h]
  by_cases a : i < hi' + 1 - lo'
  · rw [if_neg (by omega)]
  · simp [a]

theorem setBits_lt (v hi lo x n : Nat) (h : lo ≤ hi) (hn : hi < n) (hv : v < 2 ^ n) : setBits v hi lo x < 2 ^ n := by
  refine Nat.lt_pow_two_of_testBit _ fun i hi' => ?_
  rw [testBit_setBits _ _ _ _ _ h, if_neg (by omega)]
  exact Nat.testBit_lt_two_pow (Nat.lt_of_lt_of_le hv (Nat.pow_le_pow_right (by omega) hi'))

theorem bitsOf_lt (v hi lo : Nat) : bitsOf v hi lo < 2 ^ (hi + 1 - lo) := Nat.mod_lt _ (Nat.two_pow_pos _)

@[simp] theorem natLe_length (n v : Nat) : (natLe n v).length = n := by
  induction n generalizing v with
  | zero => rfl
  | succ n ih => simp [natLe, ih]

/-- Bytes read back as the value they were made from. -/
theorem leNat_natLe (n v : Nat) : leNat (natLe n v) = v % 256 ^ n := by
  induction n generalizing v with
  | zero => simp [natLe, leNat, Nat.mod_one]
  | succ n ih =>
    simp only [natLe, leNat, ih, BitVec.toNat_ofNat]
    show v % 256 + 256 * (v / 256 % 256 ^ n) = v % 256 ^ (n + 1)
    rw [Nat.pow_add_one, Nat.mul_comm (256 ^ n), Nat.mod_mul]

/-- A value's bytes are those it was read from. -/
theorem natLe_leNat (bs : List Byte) : natLe bs.length (leNat bs) = bs := by
  induction bs with
  | nil => rfl
  | cons b t ih =>
    simp only [List.length_cons, natLe, leNat]
    have hb : b.toNat < 256 := b.isLt
    rw [show (b.toNat + 256 * leNat t) / 256 = leNat t by omega, ih]
    congr 1
    apply BitVec.eq_of_toNat_eq
    simp [BitVec.toNat_ofNat]; omega

end Sys2Proof.Machine
end

