-- ==== Sys2Proof/Laws/Tbl.lean ====
section
/-! SUPPORT. The laws of tables: what is read after a write, for any list, and that every write keeps the canonical
form. -/

namespace Sys2Proof.Machine

/-! ## Read after write -/

section
variable {α : Type} (d : Nat → α)

theorem tblGet_filter_of (p : Nat × α → Bool) (t : List (Nat × α)) (k : Nat) (h : ∀ v, p (k, v) = true) :
    tblGet d (t.filter p) k = tblGet d t k := by
  induction t with
  | nil => rfl
  | cons e t ih =>
    obtain ⟨k', v⟩ := e
    by_cases hk : k' = k
    · subst hk; simp [List.filter, h, tblGet]
    · by_cases hp : p (k', v) <;> simp [List.filter, hp, tblGet, hk, ih]

theorem tblGet_filter_out (p : Nat × α → Bool) (t : List (Nat × α)) (k : Nat) (h : ∀ v, p (k, v) = false) :
    tblGet d (t.filter p) k = d k := by
  induction t with
  | nil => rfl
  | cons e t ih =>
    obtain ⟨k', v⟩ := e
    by_cases hk : k' = k
    · subst hk; simp [List.filter, h, ih]
    · by_cases hp : p (k', v) <;> simp [List.filter, hp, tblGet, hk, ih]

theorem tblGet_none (t : List (Nat × α)) (k : Nat) (h : k ∉ t.map (·.1)) : tblGet d t k = d k := by
  induction t with
  | nil => rfl
  | cons e t ih =>
    simp only [List.map_cons, List.mem_cons, not_or] at h
    obtain ⟨k', v⟩ := e
    simp [tblGet, Ne.symm h.1, ih h.2]

theorem tblGet_append (s t : List (Nat × α)) (k : Nat) :
    tblGet d (s ++ t) k = if k ∈ s.map (·.1) then tblGet d s k else tblGet d t k := by
  induction s with
  | nil => simp
  | cons e s ih =>
    obtain ⟨k', v⟩ := e
    by_cases hk : k' = k
    · subst hk; simp [tblGet]
    · simp only [List.cons_append, tblGet, hk, if_false, ih, List.map_cons, List.mem_cons, Ne.symm hk, false_or]

/-- What a key reads as after a range has been cleared. -/
theorem tblGet_clear (t : List (Nat × α)) (lo hi k : Nat) :
    tblGet d (tblClear t lo hi) k = if lo ≤ k ∧ k < hi then d k else tblGet d t k := by
  unfold tblClear
  split
  · exact tblGet_filter_out d _ t k (by simp; omega)
  · exact tblGet_filter_of d _ t k (by simp; omega)

/-- A run of keys reads as each of them does. -/
theorem tblRead_eq (t : List (Nat × α)) (k n : Nat) :
    tblRead d t k n = (List.range n).map fun i => tblGet d t (k + i) := by
  unfold tblRead tblWindow
  apply List.map_congr_left
  intro i hi
  exact tblGet_filter_of d _ t (k + i) (by simp at hi; simp; omega)

@[simp] theorem tblRead_length (t : List (Nat × α)) (k n : Nat) : (tblRead d t k n).length = n := by simp [tblRead]

end

section
variable {α : Type} [DecidableEq α] (d : Nat → α)

theorem tblGet_cons (t : List (Nat × α)) (k k' : Nat) (v : α) (h : tblGet d t k = d k) :
    tblGet d (tblCons d k v t) k' = if k' = k then v else tblGet d t k' := by
  unfold tblCons
  split
  · next hv => split
               · next hk => rw [hk, h, hv]
               · rfl
  · simp [tblGet, eq_comm]

theorem tblGet_ins (t : List (Nat × α)) (k k' : Nat) (v : α) (h : ∀ e ∈ t, e.1 ≠ k) :
    tblGet d (tblIns d t k v) k' = if k' = k then v else tblGet d t k' := by
  induction t with
  | nil => exact tblGet_cons d [] k k' v rfl
  | cons e t ih =>
    obtain ⟨k2, v2⟩ := e
    have h2 : k2 ≠ k := h (k2, v2) (by simp)
    have ht : ∀ e ∈ t, e.1 ≠ k := fun e he => h e (by simp [he])
    unfold tblIns
    split
    · exact tblGet_cons d _ k k' v (tblGet_none d _ k fun hm => by
        obtain ⟨e, he, hek⟩ := List.mem_map.1 hm; exact h e he hek)
    · by_cases hk : k2 = k'
      · subst hk; simp [tblGet, h2]
      · simp [tblGet, hk, ih ht]

/-- What a key reads as after a write, for any list. -/
@[simp] theorem tblGet_set (t : List (Nat × α)) (k k' : Nat) (v : α) :
    tblGet d (tblSet d t k v) k' = if k' = k then v else tblGet d t k' := by
  unfold tblSet
  rw [tblGet_ins d _ k k' v (by simp)]
  split
  · rfl
  · next hk => exact tblGet_filter_of d _ t k' (fun _ => by simpa using hk)

theorem tblGet_consRun (k : Nat) (vs : List α) (t : List (Nat × α)) (k' : Nat)
    (h : ∀ j, k ≤ j → j < k + vs.length → tblGet d t j = d j) :
    tblGet d (tblConsRun d k vs t) k' = if k ≤ k' ∧ k' < k + vs.length then vs.getD (k' - k) (d k') else tblGet d t k' := by
  induction vs generalizing k k' with
  | nil => rw [if_neg (by rw [List.length_nil]; omega)]; rfl
  | cons v vs ih =>
    have h' : ∀ j, k + 1 ≤ j → j < k + 1 + vs.length → tblGet d t j = d j := fun j h1 h2 =>
      h j (by omega) (by simp only [List.length_cons]; omega)
    unfold tblConsRun
    rw [tblGet_cons]
    · rw [ih (k + 1) k' h']
      by_cases hk : k' = k
      · subst hk; simp
      · rw [if_neg hk]
        by_cases hr : k + 1 ≤ k' ∧ k' < k + 1 + vs.length
        · rw [if_pos hr, if_pos (by simp only [List.length_cons]; omega)]
          obtain ⟨j, rfl⟩ : ∃ j, k' = k + 1 + j := ⟨k' - (k + 1), by omega⟩
          have e1 : k + 1 + j - (k + 1) = j := by omega
          have e2 : k + 1 + j - k = j + 1 := by omega
          rw [e1, e2]; simp
        · rw [if_neg hr, if_neg (by simp only [List.length_cons]; omega)]
    · rw [ih (k + 1) k h', if_neg (by omega)]
      exact h k (by omega) (by simp)

/-- What a key reads as after a run of values has been written. -/
theorem tblGet_put (t : List (Nat × α)) (k : Nat) (vs : List α) (k' : Nat) :
    tblGet d (tblPut d t k vs) k' = if k ≤ k' ∧ k' < k + vs.length then vs.getD (k' - k) (d k') else tblGet d t k' := by
  unfold tblPut
  rw [tblGet_append]
  have hout : ∀ j, k ≤ j → j < k + vs.length →
      tblGet d (t.filter fun e => decide (k + vs.length ≤ e.1)) j = d j := by
    intro j h1 h2
    exact tblGet_filter_out d _ t j (by simp; omega)
  split
  · next hm =>
    have hlt : k' < k := by
      simp only [List.mem_map, List.mem_filter] at hm
      obtain ⟨e, ⟨_, he⟩, rfl⟩ := hm
      simpa using he
    rw [if_neg (by omega)]
    exact tblGet_filter_of d _ t k' (by simp [hlt])
  · next hm =>
    rw [tblGet_consRun d k vs _ k' hout]
    split
    · rfl
    · next hr =>
      by_cases hlt : k' < k
      · -- no entry below, so the list has none
        rw [tblGet_filter_out d _ t k' (by simp; omega)]
        have : tblGet d (t.filter fun e => decide (e.1 < k)) k' = tblGet d t k' :=
          tblGet_filter_of d _ t k' (by simp [hlt])
        rw [← this]
        exact (tblGet_none d _ k' hm).symm
      · exact tblGet_filter_of d _ t k' (by simp; omega)

/-- Reading back a run that has been written. -/
theorem tblRead_put (t : List (Nat × α)) (k : Nat) (vs : List α) : tblRead d (tblPut d t k vs) k vs.length = vs := by
  rw [tblRead_eq]
  apply List.ext_getElem
  · simp
  · intro i h1 h2
    simp [tblGet_put, h2]

end

section
variable {α : Type}

@[simp] theorem keyGet_set (t : List (Nat × α)) (k k' : Nat) (v : α) :
    keyGet (keySet t k v) k' = if k' = k then some v else keyGet t k' := by
  induction t with
  | nil => simp [keySet, keyGet, eq_comm]
  | cons e t ih =>
    obtain ⟨k2, v2⟩ := e
    unfold keySet
    split
    · next h => subst h; by_cases hk : k' = k2
                · simp [keyGet, hk]
                · simp [keyGet, hk, Ne.symm hk]
    · next h =>
      split
      · by_cases hk : k' = k
        · simp [keyGet, hk]
        · simp [keyGet, hk, Ne.symm hk]
      · by_cases hk : k2 = k'
        · subst hk; simp [keyGet, h]
        · simp [keyGet, hk, ih]

@[simp] theorem keyGet_del (t : List (Nat × α)) (k k' : Nat) :
    keyGet (keyDel t k) k' = if k' = k then none else keyGet t k' := by
  unfold keyDel
  induction t with
  | nil => simp [keyGet]
  | cons e t ih =>
    obtain ⟨k2, v2⟩ := e
    by_cases h : k2 = k
    · subst h
      by_cases hk : k' = k2
      · subst hk; simpa [List.filter] using ih
      · simp [List.filter, keyGet, ih, hk, Ne.symm hk]
    · have : ((k2, v2).1 != k) = true := by simpa using h
      by_cases hk : k2 = k'
      · subst hk; simp [List.filter, this, keyGet, h]
      · simp [List.filter, this, keyGet, hk, ih]

end

/-! ## The canonical form -/

section
variable {α : Type} [DecidableEq α] (d : Nat → α)

theorem tblWfFrom_mono {lo lo' : Nat} {t : List (Nat × α)} (h : tblWfFrom d lo t = true) (hl : lo' ≤ lo) :
    tblWfFrom d lo' t = true := by
  cases t with
  | nil => rfl
  | cons e t => simp only [tblWfFrom, Bool.and_eq_true, decide_eq_true_eq] at h ⊢; exact ⟨⟨by omega, h.1.2⟩, h.2⟩

theorem tblWfFrom_filter (p : Nat × α → Bool) {lo : Nat} {t : List (Nat × α)} (h : tblWfFrom d lo t = true) :
    tblWfFrom d lo (t.filter p) = true := by
  induction t generalizing lo with
  | nil => rfl
  | cons e t ih =>
    obtain ⟨k, v⟩ := e
    simp only [tblWfFrom, Bool.and_eq_true, decide_eq_true_eq] at h
    by_cases hp : p (k, v)
    · simp only [List.filter, hp, tblWfFrom, Bool.and_eq_true, decide_eq_true_eq]; exact ⟨h.1, ih h.2⟩
    · simp only [List.filter, hp]; exact tblWfFrom_mono d (ih h.2) (by omega)

theorem tblWfFrom_cons {lo k : Nat} {v : α} {t : List (Nat × α)} (hl : lo ≤ k) (h : tblWfFrom d (k + 1) t = true) :
    tblWfFrom d lo (tblCons d k v t) = true := by
  unfold tblCons
  split
  · exact tblWfFrom_mono d h (by omega)
  · next hv => simp [tblWfFrom, hl, hv, h]

theorem tblWfFrom_ins {lo k : Nat} {v : α} {t : List (Nat × α)} (hl : lo ≤ k) (hk : ∀ e ∈ t, e.1 ≠ k)
    (h : tblWfFrom d lo t = true) : tblWfFrom d lo (tblIns d t k v) = true := by
  induction t generalizing lo with
  | nil => exact tblWfFrom_cons d hl rfl
  | cons e t ih =>
    obtain ⟨k2, v2⟩ := e
    have h2 : k2 ≠ k := hk (k2, v2) (by simp)
    unfold tblIns
    simp only [tblWfFrom, Bool.and_eq_true, decide_eq_true_eq] at h
    split
    · next hlt =>
      refine tblWfFrom_cons d hl ?_
      simp only [tblWfFrom, Bool.and_eq_true, decide_eq_true_eq]
      exact ⟨⟨by omega, h.1.2⟩, h.2⟩
    · next hlt =>
      simp only [tblWfFrom, Bool.and_eq_true, decide_eq_true_eq]
      exact ⟨h.1, ih (by omega) (fun e he => hk e (by simp [he])) h.2⟩

/-- A write keeps the canonical form. -/
theorem tblWf_set {t : List (Nat × α)} (k : Nat) (v : α) (h : tblWf d t = true) : tblWf d (tblSet d t k v) = true :=
  tblWfFrom_ins d (Nat.zero_le _) (by simp) (tblWfFrom_filter d _ h)

/-- Clearing a range keeps the canonical form. -/
theorem tblWf_clear {t : List (Nat × α)} (lo hi : Nat) (h : tblWf d t = true) : tblWf d (tblClear t lo hi) = true :=
  tblWfFrom_filter d _ h

theorem tblWfFrom_consRun {lo k : Nat} {vs : List α} {t : List (Nat × α)} (hl : lo ≤ k)
    (h : tblWfFrom d (k + vs.length) t = true) : tblWfFrom d lo (tblConsRun d k vs t) = true := by
  induction vs generalizing lo k with
  | nil => exact tblWfFrom_mono d h (by simpa using hl)
  | cons v vs ih =>
    refine tblWfFrom_cons d hl (ih (Nat.le_refl _) ?_)
    have e : k + 1 + vs.length = k + (v :: vs).length := by simp; omega
    rw [e]; exact h

theorem tblWfFrom_append {lo k : Nat} {s t : List (Nat × α)} (hs : tblWfFrom d lo s = true) (hk : ∀ e ∈ s, e.1 < k)
    (hl : lo ≤ k) (ht : tblWfFrom d k t = true) : tblWfFrom d lo (s ++ t) = true := by
  induction s generalizing lo with
  | nil => exact tblWfFrom_mono d ht hl
  | cons e s ih =>
    obtain ⟨k2, v⟩ := e
    simp only [tblWfFrom, Bool.and_eq_true, decide_eq_true_eq, List.cons_append] at hs ⊢
    have := hk (k2, v) (by simp)
    exact ⟨hs.1, ih hs.2 (fun e he => hk e (by simp [he])) (by show k2 + 1 ≤ k; exact this)⟩

theorem tblWfFrom_above {lo b : Nat} {t : List (Nat × α)} (h : tblWfFrom d lo t = true) :
    tblWfFrom d b (t.filter fun e => decide (b ≤ e.1)) = true := by
  induction t generalizing lo with
  | nil => rfl
  | cons e t ih =>
    obtain ⟨k, v⟩ := e
    simp only [tblWfFrom, Bool.and_eq_true, decide_eq_true_eq] at h
    by_cases hb : b ≤ k
    · have : decide (b ≤ (k, v).1) = true := by simpa using hb
      simp only [List.filter, this, tblWfFrom, Bool.and_eq_true, decide_eq_true_eq]
      exact ⟨⟨by simpa using hb, h.1.2⟩, tblWfFrom_filter d _ h.2⟩
    · have : decide (b ≤ (k, v).1) = false := by simpa using hb
      simp only [List.filter, this]; exact ih h.2

/-- Writing a run of values keeps the canonical form. -/
theorem tblWf_put {t : List (Nat × α)} (k : Nat) (vs : List α) (h : tblWf d t = true) :
    tblWf d (tblPut d t k vs) = true := by
  refine tblWfFrom_append d (k := k) (tblWfFrom_filter d _ h) ?_ (Nat.zero_le _) ?_
  · intro e he; simpa using (List.mem_filter.1 he).2
  · exact tblWfFrom_consRun d (Nat.le_refl _) (tblWfFrom_above d h)

end

end Sys2Proof.Machine
end

