-- ==== Sys2Proof/Laws/State.lean ====
section
/-! SUPPORT. What each shared update of the state leaves as it was: one lemma for each field. -/

namespace Sys2Proof.Machine

/-! ### setReg -/

@[simp] theorem State.setReg_pending (s : State) (off : Nat) (v : W64) : (s.setReg off v).pending = s.pending := rfl
@[simp] theorem State.setReg_mem (s : State) (off : Nat) (v : W64) : (s.setReg off v).mem = s.mem := rfl
@[simp] theorem State.setReg_prot (s : State) (off : Nat) (v : W64) : (s.setReg off v).prot = s.prot := rfl
@[simp] theorem State.setReg_hostMem (s : State) (off : Nat) (v : W64) : (s.setReg off v).hostMem = s.hostMem := rfl
@[simp] theorem State.setReg_out (s : State) (off : Nat) (v : W64) : (s.setReg off v).out = s.out := rfl
@[simp] theorem State.setReg_heldEv (s : State) (off : Nat) (v : W64) : (s.setReg off v).heldEv = s.heldEv := rfl
@[simp] theorem State.setReg_heldLost (s : State) (off : Nat) (v : W64) : (s.setReg off v).heldLost = s.heldLost := rfl
@[simp] theorem State.setReg_evOpen (s : State) (off : Nat) (v : W64) : (s.setReg off v).evOpen = s.evOpen := rfl
@[simp] theorem State.setReg_funcs (s : State) (off : Nat) (v : W64) : (s.setReg off v).funcs = s.funcs := rfl
@[simp] theorem State.setReg_vfEnable (s : State) (off : Nat) (v : W64) : (s.setReg off v).vfEnable = s.vfEnable := rfl
@[simp] theorem State.setReg_jobs (s : State) (off : Nat) (v : W64) : (s.setReg off v).jobs = s.jobs := rfl
@[simp] theorem State.setReg_cmds (s : State) (off : Nat) (v : W64) : (s.setReg off v).cmds = s.cmds := rfl
@[simp] theorem State.setReg_mes (s : State) (off : Nat) (v : W64) : (s.setReg off v).mes = s.mes := rfl
@[simp] theorem State.setReg_lanes (s : State) (off : Nat) (v : W64) : (s.setReg off v).lanes = s.lanes := rfl
@[simp] theorem State.setReg_holders (s : State) (off : Nat) (v : W64) : (s.setReg off v).holders = s.holders := rfl
@[simp] theorem State.setReg_grants (s : State) (off : Nat) (v : W64) : (s.setReg off v).grants = s.grants := rfl
@[simp] theorem State.setReg_yielded (s : State) (off : Nat) (v : W64) : (s.setReg off v).yielded = s.yielded := rfl
@[simp] theorem State.setReg_gcs (s : State) (off : Nat) (v : W64) : (s.setReg off v).gcs = s.gcs := rfl
@[simp] theorem State.setReg_gcIn (s : State) (off : Nat) (v : W64) : (s.setReg off v).gcIn = s.gcIn := rfl
@[simp] theorem State.setReg_exchs (s : State) (off : Nat) (v : W64) : (s.setReg off v).exchs = s.exchs := rfl
@[simp] theorem State.setReg_exchDone (s : State) (off : Nat) (v : W64) : (s.setReg off v).exchDone = s.exchDone := rfl
@[simp] theorem State.setReg_parcels (s : State) (off : Nat) (v : W64) : (s.setReg off v).parcels = s.parcels := rfl
@[simp] theorem State.setReg_xallocs (s : State) (off : Nat) (v : W64) : (s.setReg off v).xallocs = s.xallocs := rfl
@[simp] theorem State.setReg_xsends (s : State) (off : Nat) (v : W64) : (s.setReg off v).xsends = s.xsends := rfl
@[simp] theorem State.setReg_recTypes (s : State) (off : Nat) (v : W64) : (s.setReg off v).recTypes = s.recTypes := rfl
@[simp] theorem State.setReg_chainIn (s : State) (off : Nat) (v : W64) : (s.setReg off v).chainIn = s.chainIn := rfl
@[simp] theorem State.setReg_changes (s : State) (off : Nat) (v : W64) : (s.setReg off v).changes = s.changes := rfl
@[simp] theorem State.setReg_pools (s : State) (off : Nat) (v : W64) : (s.setReg off v).pools = s.pools := rfl
@[simp] theorem State.setReg_buckets (s : State) (off : Nat) (v : W64) : (s.setReg off v).buckets = s.buckets := rfl
@[simp] theorem State.setReg_rgLast (s : State) (off : Nat) (v : W64) : (s.setReg off v).rgLast = s.rgLast := rfl
@[simp] theorem State.setReg_fabric (s : State) (off : Nat) (v : W64) : (s.setReg off v).fabric = s.fabric := rfl
@[simp] theorem State.setReg_keeper (s : State) (off : Nat) (v : W64) : (s.setReg off v).keeper = s.keeper := rfl
@[simp] theorem State.setReg_power (s : State) (off : Nat) (v : W64) : (s.setReg off v).power = s.power := rfl
@[simp] theorem State.setReg_boot (s : State) (off : Nat) (v : W64) : (s.setReg off v).boot = s.boot := rfl
@[simp] theorem State.setReg_mgmt (s : State) (off : Nat) (v : W64) : (s.setReg off v).mgmt = s.mgmt := rfl
@[simp] theorem State.setReg_pins (s : State) (off : Nat) (v : W64) : (s.setReg off v).pins = s.pins := rfl
@[simp] theorem State.setReg_timeSub (s : State) (off : Nat) (v : W64) : (s.setReg off v).timeSub = s.timeSub := rfl
@[simp] theorem State.setReg_meSub (s : State) (off : Nat) (v : W64) : (s.setReg off v).meSub = s.meSub := rfl
@[simp] theorem State.setReg_ppsErr (s : State) (off : Nat) (v : W64) : (s.setReg off v).ppsErr = s.ppsErr := rfl

/-! ### setFld -/

@[simp] theorem State.setFld_pending (s : State) (off hi lo x : Nat) : (s.setFld off hi lo x).pending = s.pending := rfl
@[simp] theorem State.setFld_mem (s : State) (off hi lo x : Nat) : (s.setFld off hi lo x).mem = s.mem := rfl
@[simp] theorem State.setFld_prot (s : State) (off hi lo x : Nat) : (s.setFld off hi lo x).prot = s.prot := rfl
@[simp] theorem State.setFld_hostMem (s : State) (off hi lo x : Nat) : (s.setFld off hi lo x).hostMem = s.hostMem := rfl
@[simp] theorem State.setFld_out (s : State) (off hi lo x : Nat) : (s.setFld off hi lo x).out = s.out := rfl
@[simp] theorem State.setFld_heldEv (s : State) (off hi lo x : Nat) : (s.setFld off hi lo x).heldEv = s.heldEv := rfl
@[simp] theorem State.setFld_heldLost (s : State) (off hi lo x : Nat) : (s.setFld off hi lo x).heldLost = s.heldLost := rfl
@[simp] theorem State.setFld_evOpen (s : State) (off hi lo x : Nat) : (s.setFld off hi lo x).evOpen = s.evOpen := rfl
@[simp] theorem State.setFld_funcs (s : State) (off hi lo x : Nat) : (s.setFld off hi lo x).funcs = s.funcs := rfl
@[simp] theorem State.setFld_vfEnable (s : State) (off hi lo x : Nat) : (s.setFld off hi lo x).vfEnable = s.vfEnable := rfl
@[simp] theorem State.setFld_jobs (s : State) (off hi lo x : Nat) : (s.setFld off hi lo x).jobs = s.jobs := rfl
@[simp] theorem State.setFld_cmds (s : State) (off hi lo x : Nat) : (s.setFld off hi lo x).cmds = s.cmds := rfl
@[simp] theorem State.setFld_mes (s : State) (off hi lo x : Nat) : (s.setFld off hi lo x).mes = s.mes := rfl
@[simp] theorem State.setFld_lanes (s : State) (off hi lo x : Nat) : (s.setFld off hi lo x).lanes = s.lanes := rfl
@[simp] theorem State.setFld_holders (s : State) (off hi lo x : Nat) : (s.setFld off hi lo x).holders = s.holders := rfl
@[simp] theorem State.setFld_grants (s : State) (off hi lo x : Nat) : (s.setFld off hi lo x).grants = s.grants := rfl
@[simp] theorem State.setFld_yielded (s : State) (off hi lo x : Nat) : (s.setFld off hi lo x).yielded = s.yielded := rfl
@[simp] theorem State.setFld_gcs (s : State) (off hi lo x : Nat) : (s.setFld off hi lo x).gcs = s.gcs := rfl
@[simp] theorem State.setFld_gcIn (s : State) (off hi lo x : Nat) : (s.setFld off hi lo x).gcIn = s.gcIn := rfl
@[simp] theorem State.setFld_exchs (s : State) (off hi lo x : Nat) : (s.setFld off hi lo x).exchs = s.exchs := rfl
@[simp] theorem State.setFld_exchDone (s : State) (off hi lo x : Nat) : (s.setFld off hi lo x).exchDone = s.exchDone := rfl
@[simp] theorem State.setFld_parcels (s : State) (off hi lo x : Nat) : (s.setFld off hi lo x).parcels = s.parcels := rfl
@[simp] theorem State.setFld_xallocs (s : State) (off hi lo x : Nat) : (s.setFld off hi lo x).xallocs = s.xallocs := rfl
@[simp] theorem State.setFld_xsends (s : State) (off hi lo x : Nat) : (s.setFld off hi lo x).xsends = s.xsends := rfl
@[simp] theorem State.setFld_recTypes (s : State) (off hi lo x : Nat) : (s.setFld off hi lo x).recTypes = s.recTypes := rfl
@[simp] theorem State.setFld_chainIn (s : State) (off hi lo x : Nat) : (s.setFld off hi lo x).chainIn = s.chainIn := rfl
@[simp] theorem State.setFld_changes (s : State) (off hi lo x : Nat) : (s.setFld off hi lo x).changes = s.changes := rfl
@[simp] theorem State.setFld_pools (s : State) (off hi lo x : Nat) : (s.setFld off hi lo x).pools = s.pools := rfl
@[simp] theorem State.setFld_buckets (s : State) (off hi lo x : Nat) : (s.setFld off hi lo x).buckets = s.buckets := rfl
@[simp] theorem State.setFld_rgLast (s : State) (off hi lo x : Nat) : (s.setFld off hi lo x).rgLast = s.rgLast := rfl
@[simp] theorem State.setFld_fabric (s : State) (off hi lo x : Nat) : (s.setFld off hi lo x).fabric = s.fabric := rfl
@[simp] theorem State.setFld_keeper (s : State) (off hi lo x : Nat) : (s.setFld off hi lo x).keeper = s.keeper := rfl
@[simp] theorem State.setFld_power (s : State) (off hi lo x : Nat) : (s.setFld off hi lo x).power = s.power := rfl
@[simp] theorem State.setFld_boot (s : State) (off hi lo x : Nat) : (s.setFld off hi lo x).boot = s.boot := rfl
@[simp] theorem State.setFld_mgmt (s : State) (off hi lo x : Nat) : (s.setFld off hi lo x).mgmt = s.mgmt := rfl
@[simp] theorem State.setFld_pins (s : State) (off hi lo x : Nat) : (s.setFld off hi lo x).pins = s.pins := rfl
@[simp] theorem State.setFld_timeSub (s : State) (off hi lo x : Nat) : (s.setFld off hi lo x).timeSub = s.timeSub := rfl
@[simp] theorem State.setFld_meSub (s : State) (off hi lo x : Nat) : (s.setFld off hi lo x).meSub = s.meSub := rfl
@[simp] theorem State.setFld_ppsErr (s : State) (off hi lo x : Nat) : (s.setFld off hi lo x).ppsErr = s.ppsErr := rfl

/-! ### setBit -/

@[simp] theorem State.setBit_pending (s : State) (off i : Nat) : (s.setBit off i).pending = s.pending := rfl
@[simp] theorem State.setBit_mem (s : State) (off i : Nat) : (s.setBit off i).mem = s.mem := rfl
@[simp] theorem State.setBit_prot (s : State) (off i : Nat) : (s.setBit off i).prot = s.prot := rfl
@[simp] theorem State.setBit_hostMem (s : State) (off i : Nat) : (s.setBit off i).hostMem = s.hostMem := rfl
@[simp] theorem State.setBit_out (s : State) (off i : Nat) : (s.setBit off i).out = s.out := rfl
@[simp] theorem State.setBit_heldEv (s : State) (off i : Nat) : (s.setBit off i).heldEv = s.heldEv := rfl
@[simp] theorem State.setBit_heldLost (s : State) (off i : Nat) : (s.setBit off i).heldLost = s.heldLost := rfl
@[simp] theorem State.setBit_evOpen (s : State) (off i : Nat) : (s.setBit off i).evOpen = s.evOpen := rfl
@[simp] theorem State.setBit_funcs (s : State) (off i : Nat) : (s.setBit off i).funcs = s.funcs := rfl
@[simp] theorem State.setBit_vfEnable (s : State) (off i : Nat) : (s.setBit off i).vfEnable = s.vfEnable := rfl
@[simp] theorem State.setBit_jobs (s : State) (off i : Nat) : (s.setBit off i).jobs = s.jobs := rfl
@[simp] theorem State.setBit_cmds (s : State) (off i : Nat) : (s.setBit off i).cmds = s.cmds := rfl
@[simp] theorem State.setBit_mes (s : State) (off i : Nat) : (s.setBit off i).mes = s.mes := rfl
@[simp] theorem State.setBit_lanes (s : State) (off i : Nat) : (s.setBit off i).lanes = s.lanes := rfl
@[simp] theorem State.setBit_holders (s : State) (off i : Nat) : (s.setBit off i).holders = s.holders := rfl
@[simp] theorem State.setBit_grants (s : State) (off i : Nat) : (s.setBit off i).grants = s.grants := rfl
@[simp] theorem State.setBit_yielded (s : State) (off i : Nat) : (s.setBit off i).yielded = s.yielded := rfl
@[simp] theorem State.setBit_gcs (s : State) (off i : Nat) : (s.setBit off i).gcs = s.gcs := rfl
@[simp] theorem State.setBit_gcIn (s : State) (off i : Nat) : (s.setBit off i).gcIn = s.gcIn := rfl
@[simp] theorem State.setBit_exchs (s : State) (off i : Nat) : (s.setBit off i).exchs = s.exchs := rfl
@[simp] theorem State.setBit_exchDone (s : State) (off i : Nat) : (s.setBit off i).exchDone = s.exchDone := rfl
@[simp] theorem State.setBit_parcels (s : State) (off i : Nat) : (s.setBit off i).parcels = s.parcels := rfl
@[simp] theorem State.setBit_xallocs (s : State) (off i : Nat) : (s.setBit off i).xallocs = s.xallocs := rfl
@[simp] theorem State.setBit_xsends (s : State) (off i : Nat) : (s.setBit off i).xsends = s.xsends := rfl
@[simp] theorem State.setBit_recTypes (s : State) (off i : Nat) : (s.setBit off i).recTypes = s.recTypes := rfl
@[simp] theorem State.setBit_chainIn (s : State) (off i : Nat) : (s.setBit off i).chainIn = s.chainIn := rfl
@[simp] theorem State.setBit_changes (s : State) (off i : Nat) : (s.setBit off i).changes = s.changes := rfl
@[simp] theorem State.setBit_pools (s : State) (off i : Nat) : (s.setBit off i).pools = s.pools := rfl
@[simp] theorem State.setBit_buckets (s : State) (off i : Nat) : (s.setBit off i).buckets = s.buckets := rfl
@[simp] theorem State.setBit_rgLast (s : State) (off i : Nat) : (s.setBit off i).rgLast = s.rgLast := rfl
@[simp] theorem State.setBit_fabric (s : State) (off i : Nat) : (s.setBit off i).fabric = s.fabric := rfl
@[simp] theorem State.setBit_keeper (s : State) (off i : Nat) : (s.setBit off i).keeper = s.keeper := rfl
@[simp] theorem State.setBit_power (s : State) (off i : Nat) : (s.setBit off i).power = s.power := rfl
@[simp] theorem State.setBit_boot (s : State) (off i : Nat) : (s.setBit off i).boot = s.boot := rfl
@[simp] theorem State.setBit_mgmt (s : State) (off i : Nat) : (s.setBit off i).mgmt = s.mgmt := rfl
@[simp] theorem State.setBit_pins (s : State) (off i : Nat) : (s.setBit off i).pins = s.pins := rfl
@[simp] theorem State.setBit_timeSub (s : State) (off i : Nat) : (s.setBit off i).timeSub = s.timeSub := rfl
@[simp] theorem State.setBit_meSub (s : State) (off i : Nat) : (s.setBit off i).meSub = s.meSub := rfl
@[simp] theorem State.setBit_ppsErr (s : State) (off i : Nat) : (s.setBit off i).ppsErr = s.ppsErr := rfl

/-! ### count -/

@[simp] theorem State.count_pending (s : State) (off n : Nat) : (s.count off n).pending = s.pending := by unfold State.count; split <;> rfl
@[simp] theorem State.count_mem (s : State) (off n : Nat) : (s.count off n).mem = s.mem := by unfold State.count; split <;> rfl
@[simp] theorem State.count_prot (s : State) (off n : Nat) : (s.count off n).prot = s.prot := by unfold State.count; split <;> rfl
@[simp] theorem State.count_hostMem (s : State) (off n : Nat) : (s.count off n).hostMem = s.hostMem := by unfold State.count; split <;> rfl
@[simp] theorem State.count_out (s : State) (off n : Nat) : (s.count off n).out = s.out := by unfold State.count; split <;> rfl
@[simp] theorem State.count_heldEv (s : State) (off n : Nat) : (s.count off n).heldEv = s.heldEv := by unfold State.count; split <;> rfl
@[simp] theorem State.count_heldLost (s : State) (off n : Nat) : (s.count off n).heldLost = s.heldLost := by unfold State.count; split <;> rfl
@[simp] theorem State.count_evOpen (s : State) (off n : Nat) : (s.count off n).evOpen = s.evOpen := by unfold State.count; split <;> rfl
@[simp] theorem State.count_funcs (s : State) (off n : Nat) : (s.count off n).funcs = s.funcs := by unfold State.count; split <;> rfl
@[simp] theorem State.count_vfEnable (s : State) (off n : Nat) : (s.count off n).vfEnable = s.vfEnable := by unfold State.count; split <;> rfl
@[simp] theorem State.count_jobs (s : State) (off n : Nat) : (s.count off n).jobs = s.jobs := by unfold State.count; split <;> rfl
@[simp] theorem State.count_cmds (s : State) (off n : Nat) : (s.count off n).cmds = s.cmds := by unfold State.count; split <;> rfl
@[simp] theorem State.count_mes (s : State) (off n : Nat) : (s.count off n).mes = s.mes := by unfold State.count; split <;> rfl
@[simp] theorem State.count_lanes (s : State) (off n : Nat) : (s.count off n).lanes = s.lanes := by unfold State.count; split <;> rfl
@[simp] theorem State.count_holders (s : State) (off n : Nat) : (s.count off n).holders = s.holders := by unfold State.count; split <;> rfl
@[simp] theorem State.count_grants (s : State) (off n : Nat) : (s.count off n).grants = s.grants := by unfold State.count; split <;> rfl
@[simp] theorem State.count_yielded (s : State) (off n : Nat) : (s.count off n).yielded = s.yielded := by unfold State.count; split <;> rfl
@[simp] theorem State.count_gcs (s : State) (off n : Nat) : (s.count off n).gcs = s.gcs := by unfold State.count; split <;> rfl
@[simp] theorem State.count_gcIn (s : State) (off n : Nat) : (s.count off n).gcIn = s.gcIn := by unfold State.count; split <;> rfl
@[simp] theorem State.count_exchs (s : State) (off n : Nat) : (s.count off n).exchs = s.exchs := by unfold State.count; split <;> rfl
@[simp] theorem State.count_exchDone (s : State) (off n : Nat) : (s.count off n).exchDone = s.exchDone := by unfold State.count; split <;> rfl
@[simp] theorem State.count_parcels (s : State) (off n : Nat) : (s.count off n).parcels = s.parcels := by unfold State.count; split <;> rfl
@[simp] theorem State.count_xallocs (s : State) (off n : Nat) : (s.count off n).xallocs = s.xallocs := by unfold State.count; split <;> rfl
@[simp] theorem State.count_xsends (s : State) (off n : Nat) : (s.count off n).xsends = s.xsends := by unfold State.count; split <;> rfl
@[simp] theorem State.count_recTypes (s : State) (off n : Nat) : (s.count off n).recTypes = s.recTypes := by unfold State.count; split <;> rfl
@[simp] theorem State.count_chainIn (s : State) (off n : Nat) : (s.count off n).chainIn = s.chainIn := by unfold State.count; split <;> rfl
@[simp] theorem State.count_changes (s : State) (off n : Nat) : (s.count off n).changes = s.changes := by unfold State.count; split <;> rfl
@[simp] theorem State.count_pools (s : State) (off n : Nat) : (s.count off n).pools = s.pools := by unfold State.count; split <;> rfl
@[simp] theorem State.count_buckets (s : State) (off n : Nat) : (s.count off n).buckets = s.buckets := by unfold State.count; split <;> rfl
@[simp] theorem State.count_rgLast (s : State) (off n : Nat) : (s.count off n).rgLast = s.rgLast := by unfold State.count; split <;> rfl
@[simp] theorem State.count_fabric (s : State) (off n : Nat) : (s.count off n).fabric = s.fabric := by unfold State.count; split <;> rfl
@[simp] theorem State.count_keeper (s : State) (off n : Nat) : (s.count off n).keeper = s.keeper := by unfold State.count; split <;> rfl
@[simp] theorem State.count_power (s : State) (off n : Nat) : (s.count off n).power = s.power := by unfold State.count; split <;> rfl
@[simp] theorem State.count_boot (s : State) (off n : Nat) : (s.count off n).boot = s.boot := by unfold State.count; split <;> rfl
@[simp] theorem State.count_mgmt (s : State) (off n : Nat) : (s.count off n).mgmt = s.mgmt := by unfold State.count; split <;> rfl
@[simp] theorem State.count_pins (s : State) (off n : Nat) : (s.count off n).pins = s.pins := by unfold State.count; split <;> rfl
@[simp] theorem State.count_timeSub (s : State) (off n : Nat) : (s.count off n).timeSub = s.timeSub := by unfold State.count; split <;> rfl
@[simp] theorem State.count_meSub (s : State) (off n : Nat) : (s.count off n).meSub = s.meSub := by unfold State.count; split <;> rfl
@[simp] theorem State.count_ppsErr (s : State) (off n : Nat) : (s.count off n).ppsErr = s.ppsErr := by unfold State.count; split <;> rfl

/-! ### emit -/

@[simp] theorem State.emit_pending (s : State) (o : Output) : (s.emit o).pending = s.pending := rfl
@[simp] theorem State.emit_regs (s : State) (o : Output) : (s.emit o).regs = s.regs := rfl
@[simp] theorem State.emit_mem (s : State) (o : Output) : (s.emit o).mem = s.mem := rfl
@[simp] theorem State.emit_prot (s : State) (o : Output) : (s.emit o).prot = s.prot := rfl
@[simp] theorem State.emit_hostMem (s : State) (o : Output) : (s.emit o).hostMem = s.hostMem := rfl
@[simp] theorem State.emit_heldEv (s : State) (o : Output) : (s.emit o).heldEv = s.heldEv := rfl
@[simp] theorem State.emit_heldLost (s : State) (o : Output) : (s.emit o).heldLost = s.heldLost := rfl
@[simp] theorem State.emit_evOpen (s : State) (o : Output) : (s.emit o).evOpen = s.evOpen := rfl
@[simp] theorem State.emit_funcs (s : State) (o : Output) : (s.emit o).funcs = s.funcs := rfl
@[simp] theorem State.emit_vfEnable (s : State) (o : Output) : (s.emit o).vfEnable = s.vfEnable := rfl
@[simp] theorem State.emit_jobs (s : State) (o : Output) : (s.emit o).jobs = s.jobs := rfl
@[simp] theorem State.emit_cmds (s : State) (o : Output) : (s.emit o).cmds = s.cmds := rfl
@[simp] theorem State.emit_mes (s : State) (o : Output) : (s.emit o).mes = s.mes := rfl
@[simp] theorem State.emit_lanes (s : State) (o : Output) : (s.emit o).lanes = s.lanes := rfl
@[simp] theorem State.emit_holders (s : State) (o : Output) : (s.emit o).holders = s.holders := rfl
@[simp] theorem State.emit_grants (s : State) (o : Output) : (s.emit o).grants = s.grants := rfl
@[simp] theorem State.emit_yielded (s : State) (o : Output) : (s.emit o).yielded = s.yielded := rfl
@[simp] theorem State.emit_gcs (s : State) (o : Output) : (s.emit o).gcs = s.gcs := rfl
@[simp] theorem State.emit_gcIn (s : State) (o : Output) : (s.emit o).gcIn = s.gcIn := rfl
@[simp] theorem State.emit_exchs (s : State) (o : Output) : (s.emit o).exchs = s.exchs := rfl
@[simp] theorem State.emit_exchDone (s : State) (o : Output) : (s.emit o).exchDone = s.exchDone := rfl
@[simp] theorem State.emit_parcels (s : State) (o : Output) : (s.emit o).parcels = s.parcels := rfl
@[simp] theorem State.emit_xallocs (s : State) (o : Output) : (s.emit o).xallocs = s.xallocs := rfl
@[simp] theorem State.emit_xsends (s : State) (o : Output) : (s.emit o).xsends = s.xsends := rfl
@[simp] theorem State.emit_recTypes (s : State) (o : Output) : (s.emit o).recTypes = s.recTypes := rfl
@[simp] theorem State.emit_chainIn (s : State) (o : Output) : (s.emit o).chainIn = s.chainIn := rfl
@[simp] theorem State.emit_changes (s : State) (o : Output) : (s.emit o).changes = s.changes := rfl
@[simp] theorem State.emit_pools (s : State) (o : Output) : (s.emit o).pools = s.pools := rfl
@[simp] theorem State.emit_buckets (s : State) (o : Output) : (s.emit o).buckets = s.buckets := rfl
@[simp] theorem State.emit_rgLast (s : State) (o : Output) : (s.emit o).rgLast = s.rgLast := rfl
@[simp] theorem State.emit_fabric (s : State) (o : Output) : (s.emit o).fabric = s.fabric := rfl
@[simp] theorem State.emit_keeper (s : State) (o : Output) : (s.emit o).keeper = s.keeper := rfl
@[simp] theorem State.emit_power (s : State) (o : Output) : (s.emit o).power = s.power := rfl
@[simp] theorem State.emit_boot (s : State) (o : Output) : (s.emit o).boot = s.boot := rfl
@[simp] theorem State.emit_mgmt (s : State) (o : Output) : (s.emit o).mgmt = s.mgmt := rfl
@[simp] theorem State.emit_pins (s : State) (o : Output) : (s.emit o).pins = s.pins := rfl
@[simp] theorem State.emit_timeSub (s : State) (o : Output) : (s.emit o).timeSub = s.timeSub := rfl
@[simp] theorem State.emit_meSub (s : State) (o : Output) : (s.emit o).meSub = s.meSub := rfl
@[simp] theorem State.emit_ppsErr (s : State) (o : Output) : (s.emit o).ppsErr = s.ppsErr := rfl

/-! ### onCmd -/

@[simp] theorem State.onCmd_pending (s : State) (c : CmdId) (g : Cmd → Cmd) : (s.onCmd c g).pending = s.pending := rfl
@[simp] theorem State.onCmd_regs (s : State) (c : CmdId) (g : Cmd → Cmd) : (s.onCmd c g).regs = s.regs := rfl
@[simp] theorem State.onCmd_mem (s : State) (c : CmdId) (g : Cmd → Cmd) : (s.onCmd c g).mem = s.mem := rfl
@[simp] theorem State.onCmd_prot (s : State) (c : CmdId) (g : Cmd → Cmd) : (s.onCmd c g).prot = s.prot := rfl
@[simp] theorem State.onCmd_hostMem (s : State) (c : CmdId) (g : Cmd → Cmd) : (s.onCmd c g).hostMem = s.hostMem := rfl
@[simp] theorem State.onCmd_out (s : State) (c : CmdId) (g : Cmd → Cmd) : (s.onCmd c g).out = s.out := rfl
@[simp] theorem State.onCmd_heldEv (s : State) (c : CmdId) (g : Cmd → Cmd) : (s.onCmd c g).heldEv = s.heldEv := rfl
@[simp] theorem State.onCmd_heldLost (s : State) (c : CmdId) (g : Cmd → Cmd) : (s.onCmd c g).heldLost = s.heldLost := rfl
@[simp] theorem State.onCmd_evOpen (s : State) (c : CmdId) (g : Cmd → Cmd) : (s.onCmd c g).evOpen = s.evOpen := rfl
@[simp] theorem State.onCmd_funcs (s : State) (c : CmdId) (g : Cmd → Cmd) : (s.onCmd c g).funcs = s.funcs := rfl
@[simp] theorem State.onCmd_vfEnable (s : State) (c : CmdId) (g : Cmd → Cmd) : (s.onCmd c g).vfEnable = s.vfEnable := rfl
@[simp] theorem State.onCmd_jobs (s : State) (c : CmdId) (g : Cmd → Cmd) : (s.onCmd c g).jobs = s.jobs := rfl
@[simp] theorem State.onCmd_mes (s : State) (c : CmdId) (g : Cmd → Cmd) : (s.onCmd c g).mes = s.mes := rfl
@[simp] theorem State.onCmd_lanes (s : State) (c : CmdId) (g : Cmd → Cmd) : (s.onCmd c g).lanes = s.lanes := rfl
@[simp] theorem State.onCmd_holders (s : State) (c : CmdId) (g : Cmd → Cmd) : (s.onCmd c g).holders = s.holders := rfl
@[simp] theorem State.onCmd_grants (s : State) (c : CmdId) (g : Cmd → Cmd) : (s.onCmd c g).grants = s.grants := rfl
@[simp] theorem State.onCmd_yielded (s : State) (c : CmdId) (g : Cmd → Cmd) : (s.onCmd c g).yielded = s.yielded := rfl
@[simp] theorem State.onCmd_gcs (s : State) (c : CmdId) (g : Cmd → Cmd) : (s.onCmd c g).gcs = s.gcs := rfl
@[simp] theorem State.onCmd_gcIn (s : State) (c : CmdId) (g : Cmd → Cmd) : (s.onCmd c g).gcIn = s.gcIn := rfl
@[simp] theorem State.onCmd_exchs (s : State) (c : CmdId) (g : Cmd → Cmd) : (s.onCmd c g).exchs = s.exchs := rfl
@[simp] theorem State.onCmd_exchDone (s : State) (c : CmdId) (g : Cmd → Cmd) : (s.onCmd c g).exchDone = s.exchDone := rfl
@[simp] theorem State.onCmd_parcels (s : State) (c : CmdId) (g : Cmd → Cmd) : (s.onCmd c g).parcels = s.parcels := rfl
@[simp] theorem State.onCmd_xallocs (s : State) (c : CmdId) (g : Cmd → Cmd) : (s.onCmd c g).xallocs = s.xallocs := rfl
@[simp] theorem State.onCmd_xsends (s : State) (c : CmdId) (g : Cmd → Cmd) : (s.onCmd c g).xsends = s.xsends := rfl
@[simp] theorem State.onCmd_recTypes (s : State) (c : CmdId) (g : Cmd → Cmd) : (s.onCmd c g).recTypes = s.recTypes := rfl
@[simp] theorem State.onCmd_chainIn (s : State) (c : CmdId) (g : Cmd → Cmd) : (s.onCmd c g).chainIn = s.chainIn := rfl
@[simp] theorem State.onCmd_changes (s : State) (c : CmdId) (g : Cmd → Cmd) : (s.onCmd c g).changes = s.changes := rfl
@[simp] theorem State.onCmd_pools (s : State) (c : CmdId) (g : Cmd → Cmd) : (s.onCmd c g).pools = s.pools := rfl
@[simp] theorem State.onCmd_buckets (s : State) (c : CmdId) (g : Cmd → Cmd) : (s.onCmd c g).buckets = s.buckets := rfl
@[simp] theorem State.onCmd_rgLast (s : State) (c : CmdId) (g : Cmd → Cmd) : (s.onCmd c g).rgLast = s.rgLast := rfl
@[simp] theorem State.onCmd_fabric (s : State) (c : CmdId) (g : Cmd → Cmd) : (s.onCmd c g).fabric = s.fabric := rfl
@[simp] theorem State.onCmd_keeper (s : State) (c : CmdId) (g : Cmd → Cmd) : (s.onCmd c g).keeper = s.keeper := rfl
@[simp] theorem State.onCmd_power (s : State) (c : CmdId) (g : Cmd → Cmd) : (s.onCmd c g).power = s.power := rfl
@[simp] theorem State.onCmd_boot (s : State) (c : CmdId) (g : Cmd → Cmd) : (s.onCmd c g).boot = s.boot := rfl
@[simp] theorem State.onCmd_mgmt (s : State) (c : CmdId) (g : Cmd → Cmd) : (s.onCmd c g).mgmt = s.mgmt := rfl
@[simp] theorem State.onCmd_pins (s : State) (c : CmdId) (g : Cmd → Cmd) : (s.onCmd c g).pins = s.pins := rfl
@[simp] theorem State.onCmd_timeSub (s : State) (c : CmdId) (g : Cmd → Cmd) : (s.onCmd c g).timeSub = s.timeSub := rfl
@[simp] theorem State.onCmd_meSub (s : State) (c : CmdId) (g : Cmd → Cmd) : (s.onCmd c g).meSub = s.meSub := rfl
@[simp] theorem State.onCmd_ppsErr (s : State) (c : CmdId) (g : Cmd → Cmd) : (s.onCmd c g).ppsErr = s.ppsErr := rfl

/-! ### setJob -/

@[simp] theorem State.setJob_pending (s : State) (p : Nat) (j : Job) : (s.setJob p j).pending = s.pending := rfl
@[simp] theorem State.setJob_regs (s : State) (p : Nat) (j : Job) : (s.setJob p j).regs = s.regs := rfl
@[simp] theorem State.setJob_mem (s : State) (p : Nat) (j : Job) : (s.setJob p j).mem = s.mem := rfl
@[simp] theorem State.setJob_prot (s : State) (p : Nat) (j : Job) : (s.setJob p j).prot = s.prot := rfl
@[simp] theorem State.setJob_hostMem (s : State) (p : Nat) (j : Job) : (s.setJob p j).hostMem = s.hostMem := rfl
@[simp] theorem State.setJob_out (s : State) (p : Nat) (j : Job) : (s.setJob p j).out = s.out := rfl
@[simp] theorem State.setJob_heldEv (s : State) (p : Nat) (j : Job) : (s.setJob p j).heldEv = s.heldEv := rfl
@[simp] theorem State.setJob_heldLost (s : State) (p : Nat) (j : Job) : (s.setJob p j).heldLost = s.heldLost := rfl
@[simp] theorem State.setJob_evOpen (s : State) (p : Nat) (j : Job) : (s.setJob p j).evOpen = s.evOpen := rfl
@[simp] theorem State.setJob_funcs (s : State) (p : Nat) (j : Job) : (s.setJob p j).funcs = s.funcs := rfl
@[simp] theorem State.setJob_vfEnable (s : State) (p : Nat) (j : Job) : (s.setJob p j).vfEnable = s.vfEnable := rfl
@[simp] theorem State.setJob_cmds (s : State) (p : Nat) (j : Job) : (s.setJob p j).cmds = s.cmds := rfl
@[simp] theorem State.setJob_mes (s : State) (p : Nat) (j : Job) : (s.setJob p j).mes = s.mes := rfl
@[simp] theorem State.setJob_lanes (s : State) (p : Nat) (j : Job) : (s.setJob p j).lanes = s.lanes := rfl
@[simp] theorem State.setJob_holders (s : State) (p : Nat) (j : Job) : (s.setJob p j).holders = s.holders := rfl
@[simp] theorem State.setJob_grants (s : State) (p : Nat) (j : Job) : (s.setJob p j).grants = s.grants := rfl
@[simp] theorem State.setJob_yielded (s : State) (p : Nat) (j : Job) : (s.setJob p j).yielded = s.yielded := rfl
@[simp] theorem State.setJob_gcs (s : State) (p : Nat) (j : Job) : (s.setJob p j).gcs = s.gcs := rfl
@[simp] theorem State.setJob_gcIn (s : State) (p : Nat) (j : Job) : (s.setJob p j).gcIn = s.gcIn := rfl
@[simp] theorem State.setJob_exchs (s : State) (p : Nat) (j : Job) : (s.setJob p j).exchs = s.exchs := rfl
@[simp] theorem State.setJob_exchDone (s : State) (p : Nat) (j : Job) : (s.setJob p j).exchDone = s.exchDone := rfl
@[simp] theorem State.setJob_parcels (s : State) (p : Nat) (j : Job) : (s.setJob p j).parcels = s.parcels := rfl
@[simp] theorem State.setJob_xallocs (s : State) (p : Nat) (j : Job) : (s.setJob p j).xallocs = s.xallocs := rfl
@[simp] theorem State.setJob_xsends (s : State) (p : Nat) (j : Job) : (s.setJob p j).xsends = s.xsends := rfl
@[simp] theorem State.setJob_recTypes (s : State) (p : Nat) (j : Job) : (s.setJob p j).recTypes = s.recTypes := rfl
@[simp] theorem State.setJob_chainIn (s : State) (p : Nat) (j : Job) : (s.setJob p j).chainIn = s.chainIn := rfl
@[simp] theorem State.setJob_changes (s : State) (p : Nat) (j : Job) : (s.setJob p j).changes = s.changes := rfl
@[simp] theorem State.setJob_pools (s : State) (p : Nat) (j : Job) : (s.setJob p j).pools = s.pools := rfl
@[simp] theorem State.setJob_buckets (s : State) (p : Nat) (j : Job) : (s.setJob p j).buckets = s.buckets := rfl
@[simp] theorem State.setJob_rgLast (s : State) (p : Nat) (j : Job) : (s.setJob p j).rgLast = s.rgLast := rfl
@[simp] theorem State.setJob_fabric (s : State) (p : Nat) (j : Job) : (s.setJob p j).fabric = s.fabric := rfl
@[simp] theorem State.setJob_keeper (s : State) (p : Nat) (j : Job) : (s.setJob p j).keeper = s.keeper := rfl
@[simp] theorem State.setJob_power (s : State) (p : Nat) (j : Job) : (s.setJob p j).power = s.power := rfl
@[simp] theorem State.setJob_boot (s : State) (p : Nat) (j : Job) : (s.setJob p j).boot = s.boot := rfl
@[simp] theorem State.setJob_mgmt (s : State) (p : Nat) (j : Job) : (s.setJob p j).mgmt = s.mgmt := rfl
@[simp] theorem State.setJob_pins (s : State) (p : Nat) (j : Job) : (s.setJob p j).pins = s.pins := rfl
@[simp] theorem State.setJob_timeSub (s : State) (p : Nat) (j : Job) : (s.setJob p j).timeSub = s.timeSub := rfl
@[simp] theorem State.setJob_meSub (s : State) (p : Nat) (j : Job) : (s.setJob p j).meSub = s.meSub := rfl
@[simp] theorem State.setJob_ppsErr (s : State) (p : Nat) (j : Job) : (s.setJob p j).ppsErr = s.ppsErr := rfl

/-! ### onJob -/

@[simp] theorem State.onJob_pending (s : State) (p : Nat) (g : Job → Job) : (s.onJob p g).pending = s.pending := rfl
@[simp] theorem State.onJob_regs (s : State) (p : Nat) (g : Job → Job) : (s.onJob p g).regs = s.regs := rfl
@[simp] theorem State.onJob_mem (s : State) (p : Nat) (g : Job → Job) : (s.onJob p g).mem = s.mem := rfl
@[simp] theorem State.onJob_prot (s : State) (p : Nat) (g : Job → Job) : (s.onJob p g).prot = s.prot := rfl
@[simp] theorem State.onJob_hostMem (s : State) (p : Nat) (g : Job → Job) : (s.onJob p g).hostMem = s.hostMem := rfl
@[simp] theorem State.onJob_out (s : State) (p : Nat) (g : Job → Job) : (s.onJob p g).out = s.out := rfl
@[simp] theorem State.onJob_heldEv (s : State) (p : Nat) (g : Job → Job) : (s.onJob p g).heldEv = s.heldEv := rfl
@[simp] theorem State.onJob_heldLost (s : State) (p : Nat) (g : Job → Job) : (s.onJob p g).heldLost = s.heldLost := rfl
@[simp] theorem State.onJob_evOpen (s : State) (p : Nat) (g : Job → Job) : (s.onJob p g).evOpen = s.evOpen := rfl
@[simp] theorem State.onJob_funcs (s : State) (p : Nat) (g : Job → Job) : (s.onJob p g).funcs = s.funcs := rfl
@[simp] theorem State.onJob_vfEnable (s : State) (p : Nat) (g : Job → Job) : (s.onJob p g).vfEnable = s.vfEnable := rfl
@[simp] theorem State.onJob_cmds (s : State) (p : Nat) (g : Job → Job) : (s.onJob p g).cmds = s.cmds := rfl
@[simp] theorem State.onJob_mes (s : State) (p : Nat) (g : Job → Job) : (s.onJob p g).mes = s.mes := rfl
@[simp] theorem State.onJob_lanes (s : State) (p : Nat) (g : Job → Job) : (s.onJob p g).lanes = s.lanes := rfl
@[simp] theorem State.onJob_holders (s : State) (p : Nat) (g : Job → Job) : (s.onJob p g).holders = s.holders := rfl
@[simp] theorem State.onJob_grants (s : State) (p : Nat) (g : Job → Job) : (s.onJob p g).grants = s.grants := rfl
@[simp] theorem State.onJob_yielded (s : State) (p : Nat) (g : Job → Job) : (s.onJob p g).yielded = s.yielded := rfl
@[simp] theorem State.onJob_gcs (s : State) (p : Nat) (g : Job → Job) : (s.onJob p g).gcs = s.gcs := rfl
@[simp] theorem State.onJob_gcIn (s : State) (p : Nat) (g : Job → Job) : (s.onJob p g).gcIn = s.gcIn := rfl
@[simp] theorem State.onJob_exchs (s : State) (p : Nat) (g : Job → Job) : (s.onJob p g).exchs = s.exchs := rfl
@[simp] theorem State.onJob_exchDone (s : State) (p : Nat) (g : Job → Job) : (s.onJob p g).exchDone = s.exchDone := rfl
@[simp] theorem State.onJob_parcels (s : State) (p : Nat) (g : Job → Job) : (s.onJob p g).parcels = s.parcels := rfl
@[simp] theorem State.onJob_xallocs (s : State) (p : Nat) (g : Job → Job) : (s.onJob p g).xallocs = s.xallocs := rfl
@[simp] theorem State.onJob_xsends (s : State) (p : Nat) (g : Job → Job) : (s.onJob p g).xsends = s.xsends := rfl
@[simp] theorem State.onJob_recTypes (s : State) (p : Nat) (g : Job → Job) : (s.onJob p g).recTypes = s.recTypes := rfl
@[simp] theorem State.onJob_chainIn (s : State) (p : Nat) (g : Job → Job) : (s.onJob p g).chainIn = s.chainIn := rfl
@[simp] theorem State.onJob_changes (s : State) (p : Nat) (g : Job → Job) : (s.onJob p g).changes = s.changes := rfl
@[simp] theorem State.onJob_pools (s : State) (p : Nat) (g : Job → Job) : (s.onJob p g).pools = s.pools := rfl
@[simp] theorem State.onJob_buckets (s : State) (p : Nat) (g : Job → Job) : (s.onJob p g).buckets = s.buckets := rfl
@[simp] theorem State.onJob_rgLast (s : State) (p : Nat) (g : Job → Job) : (s.onJob p g).rgLast = s.rgLast := rfl
@[simp] theorem State.onJob_fabric (s : State) (p : Nat) (g : Job → Job) : (s.onJob p g).fabric = s.fabric := rfl
@[simp] theorem State.onJob_keeper (s : State) (p : Nat) (g : Job → Job) : (s.onJob p g).keeper = s.keeper := rfl
@[simp] theorem State.onJob_power (s : State) (p : Nat) (g : Job → Job) : (s.onJob p g).power = s.power := rfl
@[simp] theorem State.onJob_boot (s : State) (p : Nat) (g : Job → Job) : (s.onJob p g).boot = s.boot := rfl
@[simp] theorem State.onJob_mgmt (s : State) (p : Nat) (g : Job → Job) : (s.onJob p g).mgmt = s.mgmt := rfl
@[simp] theorem State.onJob_pins (s : State) (p : Nat) (g : Job → Job) : (s.onJob p g).pins = s.pins := rfl
@[simp] theorem State.onJob_timeSub (s : State) (p : Nat) (g : Job → Job) : (s.onJob p g).timeSub = s.timeSub := rfl
@[simp] theorem State.onJob_meSub (s : State) (p : Nat) (g : Job → Job) : (s.onJob p g).meSub = s.meSub := rfl
@[simp] theorem State.onJob_ppsErr (s : State) (p : Nat) (g : Job → Job) : (s.onJob p g).ppsErr = s.ppsErr := rfl

/-! ### onFunc -/

@[simp] theorem State.onFunc_pending (s : State) (f : Nat) (g : FuncState → FuncState) : (s.onFunc f g).pending = s.pending := rfl
@[simp] theorem State.onFunc_regs (s : State) (f : Nat) (g : FuncState → FuncState) : (s.onFunc f g).regs = s.regs := rfl
@[simp] theorem State.onFunc_mem (s : State) (f : Nat) (g : FuncState → FuncState) : (s.onFunc f g).mem = s.mem := rfl
@[simp] theorem State.onFunc_prot (s : State) (f : Nat) (g : FuncState → FuncState) : (s.onFunc f g).prot = s.prot := rfl
@[simp] theorem State.onFunc_hostMem (s : State) (f : Nat) (g : FuncState → FuncState) : (s.onFunc f g).hostMem = s.hostMem := rfl
@[simp] theorem State.onFunc_out (s : State) (f : Nat) (g : FuncState → FuncState) : (s.onFunc f g).out = s.out := rfl
@[simp] theorem State.onFunc_heldEv (s : State) (f : Nat) (g : FuncState → FuncState) : (s.onFunc f g).heldEv = s.heldEv := rfl
@[simp] theorem State.onFunc_heldLost (s : State) (f : Nat) (g : FuncState → FuncState) : (s.onFunc f g).heldLost = s.heldLost := rfl
@[simp] theorem State.onFunc_evOpen (s : State) (f : Nat) (g : FuncState → FuncState) : (s.onFunc f g).evOpen = s.evOpen := rfl
@[simp] theorem State.onFunc_vfEnable (s : State) (f : Nat) (g : FuncState → FuncState) : (s.onFunc f g).vfEnable = s.vfEnable := rfl
@[simp] theorem State.onFunc_jobs (s : State) (f : Nat) (g : FuncState → FuncState) : (s.onFunc f g).jobs = s.jobs := rfl
@[simp] theorem State.onFunc_cmds (s : State) (f : Nat) (g : FuncState → FuncState) : (s.onFunc f g).cmds = s.cmds := rfl
@[simp] theorem State.onFunc_mes (s : State) (f : Nat) (g : FuncState → FuncState) : (s.onFunc f g).mes = s.mes := rfl
@[simp] theorem State.onFunc_lanes (s : State) (f : Nat) (g : FuncState → FuncState) : (s.onFunc f g).lanes = s.lanes := rfl
@[simp] theorem State.onFunc_holders (s : State) (f : Nat) (g : FuncState → FuncState) : (s.onFunc f g).holders = s.holders := rfl
@[simp] theorem State.onFunc_grants (s : State) (f : Nat) (g : FuncState → FuncState) : (s.onFunc f g).grants = s.grants := rfl
@[simp] theorem State.onFunc_yielded (s : State) (f : Nat) (g : FuncState → FuncState) : (s.onFunc f g).yielded = s.yielded := rfl
@[simp] theorem State.onFunc_gcs (s : State) (f : Nat) (g : FuncState → FuncState) : (s.onFunc f g).gcs = s.gcs := rfl
@[simp] theorem State.onFunc_gcIn (s : State) (f : Nat) (g : FuncState → FuncState) : (s.onFunc f g).gcIn = s.gcIn := rfl
@[simp] theorem State.onFunc_exchs (s : State) (f : Nat) (g : FuncState → FuncState) : (s.onFunc f g).exchs = s.exchs := rfl
@[simp] theorem State.onFunc_exchDone (s : State) (f : Nat) (g : FuncState → FuncState) : (s.onFunc f g).exchDone = s.exchDone := rfl
@[simp] theorem State.onFunc_parcels (s : State) (f : Nat) (g : FuncState → FuncState) : (s.onFunc f g).parcels = s.parcels := rfl
@[simp] theorem State.onFunc_xallocs (s : State) (f : Nat) (g : FuncState → FuncState) : (s.onFunc f g).xallocs = s.xallocs := rfl
@[simp] theorem State.onFunc_xsends (s : State) (f : Nat) (g : FuncState → FuncState) : (s.onFunc f g).xsends = s.xsends := rfl
@[simp] theorem State.onFunc_recTypes (s : State) (f : Nat) (g : FuncState → FuncState) : (s.onFunc f g).recTypes = s.recTypes := rfl
@[simp] theorem State.onFunc_chainIn (s : State) (f : Nat) (g : FuncState → FuncState) : (s.onFunc f g).chainIn = s.chainIn := rfl
@[simp] theorem State.onFunc_changes (s : State) (f : Nat) (g : FuncState → FuncState) : (s.onFunc f g).changes = s.changes := rfl
@[simp] theorem State.onFunc_pools (s : State) (f : Nat) (g : FuncState → FuncState) : (s.onFunc f g).pools = s.pools := rfl
@[simp] theorem State.onFunc_buckets (s : State) (f : Nat) (g : FuncState → FuncState) : (s.onFunc f g).buckets = s.buckets := rfl
@[simp] theorem State.onFunc_rgLast (s : State) (f : Nat) (g : FuncState → FuncState) : (s.onFunc f g).rgLast = s.rgLast := rfl
@[simp] theorem State.onFunc_fabric (s : State) (f : Nat) (g : FuncState → FuncState) : (s.onFunc f g).fabric = s.fabric := rfl
@[simp] theorem State.onFunc_keeper (s : State) (f : Nat) (g : FuncState → FuncState) : (s.onFunc f g).keeper = s.keeper := rfl
@[simp] theorem State.onFunc_power (s : State) (f : Nat) (g : FuncState → FuncState) : (s.onFunc f g).power = s.power := rfl
@[simp] theorem State.onFunc_boot (s : State) (f : Nat) (g : FuncState → FuncState) : (s.onFunc f g).boot = s.boot := rfl
@[simp] theorem State.onFunc_mgmt (s : State) (f : Nat) (g : FuncState → FuncState) : (s.onFunc f g).mgmt = s.mgmt := rfl
@[simp] theorem State.onFunc_pins (s : State) (f : Nat) (g : FuncState → FuncState) : (s.onFunc f g).pins = s.pins := rfl
@[simp] theorem State.onFunc_timeSub (s : State) (f : Nat) (g : FuncState → FuncState) : (s.onFunc f g).timeSub = s.timeSub := rfl
@[simp] theorem State.onFunc_meSub (s : State) (f : Nat) (g : FuncState → FuncState) : (s.onFunc f g).meSub = s.meSub := rfl
@[simp] theorem State.onFunc_ppsErr (s : State) (f : Nat) (g : FuncState → FuncState) : (s.onFunc f g).ppsErr = s.ppsErr := rfl

/-! ### onKpart -/

@[simp] theorem State.onKpart_pending (s : State) (p : Nat) (g : KeeperPart → KeeperPart) : (s.onKpart p g).pending = s.pending := rfl
@[simp] theorem State.onKpart_regs (s : State) (p : Nat) (g : KeeperPart → KeeperPart) : (s.onKpart p g).regs = s.regs := rfl
@[simp] theorem State.onKpart_mem (s : State) (p : Nat) (g : KeeperPart → KeeperPart) : (s.onKpart p g).mem = s.mem := rfl
@[simp] theorem State.onKpart_prot (s : State) (p : Nat) (g : KeeperPart → KeeperPart) : (s.onKpart p g).prot = s.prot := rfl
@[simp] theorem State.onKpart_hostMem (s : State) (p : Nat) (g : KeeperPart → KeeperPart) : (s.onKpart p g).hostMem = s.hostMem := rfl
@[simp] theorem State.onKpart_out (s : State) (p : Nat) (g : KeeperPart → KeeperPart) : (s.onKpart p g).out = s.out := rfl
@[simp] theorem State.onKpart_heldEv (s : State) (p : Nat) (g : KeeperPart → KeeperPart) : (s.onKpart p g).heldEv = s.heldEv := rfl
@[simp] theorem State.onKpart_heldLost (s : State) (p : Nat) (g : KeeperPart → KeeperPart) : (s.onKpart p g).heldLost = s.heldLost := rfl
@[simp] theorem State.onKpart_evOpen (s : State) (p : Nat) (g : KeeperPart → KeeperPart) : (s.onKpart p g).evOpen = s.evOpen := rfl
@[simp] theorem State.onKpart_funcs (s : State) (p : Nat) (g : KeeperPart → KeeperPart) : (s.onKpart p g).funcs = s.funcs := rfl
@[simp] theorem State.onKpart_vfEnable (s : State) (p : Nat) (g : KeeperPart → KeeperPart) : (s.onKpart p g).vfEnable = s.vfEnable := rfl
@[simp] theorem State.onKpart_jobs (s : State) (p : Nat) (g : KeeperPart → KeeperPart) : (s.onKpart p g).jobs = s.jobs := rfl
@[simp] theorem State.onKpart_cmds (s : State) (p : Nat) (g : KeeperPart → KeeperPart) : (s.onKpart p g).cmds = s.cmds := rfl
@[simp] theorem State.onKpart_mes (s : State) (p : Nat) (g : KeeperPart → KeeperPart) : (s.onKpart p g).mes = s.mes := rfl
@[simp] theorem State.onKpart_lanes (s : State) (p : Nat) (g : KeeperPart → KeeperPart) : (s.onKpart p g).lanes = s.lanes := rfl
@[simp] theorem State.onKpart_holders (s : State) (p : Nat) (g : KeeperPart → KeeperPart) : (s.onKpart p g).holders = s.holders := rfl
@[simp] theorem State.onKpart_grants (s : State) (p : Nat) (g : KeeperPart → KeeperPart) : (s.onKpart p g).grants = s.grants := rfl
@[simp] theorem State.onKpart_yielded (s : State) (p : Nat) (g : KeeperPart → KeeperPart) : (s.onKpart p g).yielded = s.yielded := rfl
@[simp] theorem State.onKpart_gcs (s : State) (p : Nat) (g : KeeperPart → KeeperPart) : (s.onKpart p g).gcs = s.gcs := rfl
@[simp] theorem State.onKpart_gcIn (s : State) (p : Nat) (g : KeeperPart → KeeperPart) : (s.onKpart p g).gcIn = s.gcIn := rfl
@[simp] theorem State.onKpart_exchs (s : State) (p : Nat) (g : KeeperPart → KeeperPart) : (s.onKpart p g).exchs = s.exchs := rfl
@[simp] theorem State.onKpart_exchDone (s : State) (p : Nat) (g : KeeperPart → KeeperPart) : (s.onKpart p g).exchDone = s.exchDone := rfl
@[simp] theorem State.onKpart_parcels (s : State) (p : Nat) (g : KeeperPart → KeeperPart) : (s.onKpart p g).parcels = s.parcels := rfl
@[simp] theorem State.onKpart_xallocs (s : State) (p : Nat) (g : KeeperPart → KeeperPart) : (s.onKpart p g).xallocs = s.xallocs := rfl
@[simp] theorem State.onKpart_xsends (s : State) (p : Nat) (g : KeeperPart → KeeperPart) : (s.onKpart p g).xsends = s.xsends := rfl
@[simp] theorem State.onKpart_recTypes (s : State) (p : Nat) (g : KeeperPart → KeeperPart) : (s.onKpart p g).recTypes = s.recTypes := rfl
@[simp] theorem State.onKpart_chainIn (s : State) (p : Nat) (g : KeeperPart → KeeperPart) : (s.onKpart p g).chainIn = s.chainIn := rfl
@[simp] theorem State.onKpart_changes (s : State) (p : Nat) (g : KeeperPart → KeeperPart) : (s.onKpart p g).changes = s.changes := rfl
@[simp] theorem State.onKpart_pools (s : State) (p : Nat) (g : KeeperPart → KeeperPart) : (s.onKpart p g).pools = s.pools := rfl
@[simp] theorem State.onKpart_buckets (s : State) (p : Nat) (g : KeeperPart → KeeperPart) : (s.onKpart p g).buckets = s.buckets := rfl
@[simp] theorem State.onKpart_rgLast (s : State) (p : Nat) (g : KeeperPart → KeeperPart) : (s.onKpart p g).rgLast = s.rgLast := rfl
@[simp] theorem State.onKpart_fabric (s : State) (p : Nat) (g : KeeperPart → KeeperPart) : (s.onKpart p g).fabric = s.fabric := rfl
@[simp] theorem State.onKpart_power (s : State) (p : Nat) (g : KeeperPart → KeeperPart) : (s.onKpart p g).power = s.power := rfl
@[simp] theorem State.onKpart_boot (s : State) (p : Nat) (g : KeeperPart → KeeperPart) : (s.onKpart p g).boot = s.boot := rfl
@[simp] theorem State.onKpart_mgmt (s : State) (p : Nat) (g : KeeperPart → KeeperPart) : (s.onKpart p g).mgmt = s.mgmt := rfl
@[simp] theorem State.onKpart_pins (s : State) (p : Nat) (g : KeeperPart → KeeperPart) : (s.onKpart p g).pins = s.pins := rfl
@[simp] theorem State.onKpart_timeSub (s : State) (p : Nat) (g : KeeperPart → KeeperPart) : (s.onKpart p g).timeSub = s.timeSub := rfl
@[simp] theorem State.onKpart_meSub (s : State) (p : Nat) (g : KeeperPart → KeeperPart) : (s.onKpart p g).meSub = s.meSub := rfl
@[simp] theorem State.onKpart_ppsErr (s : State) (p : Nat) (g : KeeperPart → KeeperPart) : (s.onKpart p g).ppsErr = s.ppsErr := rfl

/-! ### hostWrite -/

@[simp] theorem State.hostWrite_pending (s : State) (a : Nat) (bs : List Byte) : (s.hostWrite a bs).pending = s.pending := rfl
@[simp] theorem State.hostWrite_regs (s : State) (a : Nat) (bs : List Byte) : (s.hostWrite a bs).regs = s.regs := rfl
@[simp] theorem State.hostWrite_mem (s : State) (a : Nat) (bs : List Byte) : (s.hostWrite a bs).mem = s.mem := rfl
@[simp] theorem State.hostWrite_prot (s : State) (a : Nat) (bs : List Byte) : (s.hostWrite a bs).prot = s.prot := rfl
@[simp] theorem State.hostWrite_out (s : State) (a : Nat) (bs : List Byte) : (s.hostWrite a bs).out = s.out := rfl
@[simp] theorem State.hostWrite_heldEv (s : State) (a : Nat) (bs : List Byte) : (s.hostWrite a bs).heldEv = s.heldEv := rfl
@[simp] theorem State.hostWrite_heldLost (s : State) (a : Nat) (bs : List Byte) : (s.hostWrite a bs).heldLost = s.heldLost := rfl
@[simp] theorem State.hostWrite_evOpen (s : State) (a : Nat) (bs : List Byte) : (s.hostWrite a bs).evOpen = s.evOpen := rfl
@[simp] theorem State.hostWrite_funcs (s : State) (a : Nat) (bs : List Byte) : (s.hostWrite a bs).funcs = s.funcs := rfl
@[simp] theorem State.hostWrite_vfEnable (s : State) (a : Nat) (bs : List Byte) : (s.hostWrite a bs).vfEnable = s.vfEnable := rfl
@[simp] theorem State.hostWrite_jobs (s : State) (a : Nat) (bs : List Byte) : (s.hostWrite a bs).jobs = s.jobs := rfl
@[simp] theorem State.hostWrite_cmds (s : State) (a : Nat) (bs : List Byte) : (s.hostWrite a bs).cmds = s.cmds := rfl
@[simp] theorem State.hostWrite_mes (s : State) (a : Nat) (bs : List Byte) : (s.hostWrite a bs).mes = s.mes := rfl
@[simp] theorem State.hostWrite_lanes (s : State) (a : Nat) (bs : List Byte) : (s.hostWrite a bs).lanes = s.lanes := rfl
@[simp] theorem State.hostWrite_holders (s : State) (a : Nat) (bs : List Byte) : (s.hostWrite a bs).holders = s.holders := rfl
@[simp] theorem State.hostWrite_grants (s : State) (a : Nat) (bs : List Byte) : (s.hostWrite a bs).grants = s.grants := rfl
@[simp] theorem State.hostWrite_yielded (s : State) (a : Nat) (bs : List Byte) : (s.hostWrite a bs).yielded = s.yielded := rfl
@[simp] theorem State.hostWrite_gcs (s : State) (a : Nat) (bs : List Byte) : (s.hostWrite a bs).gcs = s.gcs := rfl
@[simp] theorem State.hostWrite_gcIn (s : State) (a : Nat) (bs : List Byte) : (s.hostWrite a bs).gcIn = s.gcIn := rfl
@[simp] theorem State.hostWrite_exchs (s : State) (a : Nat) (bs : List Byte) : (s.hostWrite a bs).exchs = s.exchs := rfl
@[simp] theorem State.hostWrite_exchDone (s : State) (a : Nat) (bs : List Byte) : (s.hostWrite a bs).exchDone = s.exchDone := rfl
@[simp] theorem State.hostWrite_parcels (s : State) (a : Nat) (bs : List Byte) : (s.hostWrite a bs).parcels = s.parcels := rfl
@[simp] theorem State.hostWrite_xallocs (s : State) (a : Nat) (bs : List Byte) : (s.hostWrite a bs).xallocs = s.xallocs := rfl
@[simp] theorem State.hostWrite_xsends (s : State) (a : Nat) (bs : List Byte) : (s.hostWrite a bs).xsends = s.xsends := rfl
@[simp] theorem State.hostWrite_recTypes (s : State) (a : Nat) (bs : List Byte) : (s.hostWrite a bs).recTypes = s.recTypes := rfl
@[simp] theorem State.hostWrite_chainIn (s : State) (a : Nat) (bs : List Byte) : (s.hostWrite a bs).chainIn = s.chainIn := rfl
@[simp] theorem State.hostWrite_changes (s : State) (a : Nat) (bs : List Byte) : (s.hostWrite a bs).changes = s.changes := rfl
@[simp] theorem State.hostWrite_pools (s : State) (a : Nat) (bs : List Byte) : (s.hostWrite a bs).pools = s.pools := rfl
@[simp] theorem State.hostWrite_buckets (s : State) (a : Nat) (bs : List Byte) : (s.hostWrite a bs).buckets = s.buckets := rfl
@[simp] theorem State.hostWrite_rgLast (s : State) (a : Nat) (bs : List Byte) : (s.hostWrite a bs).rgLast = s.rgLast := rfl
@[simp] theorem State.hostWrite_fabric (s : State) (a : Nat) (bs : List Byte) : (s.hostWrite a bs).fabric = s.fabric := rfl
@[simp] theorem State.hostWrite_keeper (s : State) (a : Nat) (bs : List Byte) : (s.hostWrite a bs).keeper = s.keeper := rfl
@[simp] theorem State.hostWrite_power (s : State) (a : Nat) (bs : List Byte) : (s.hostWrite a bs).power = s.power := rfl
@[simp] theorem State.hostWrite_boot (s : State) (a : Nat) (bs : List Byte) : (s.hostWrite a bs).boot = s.boot := rfl
@[simp] theorem State.hostWrite_mgmt (s : State) (a : Nat) (bs : List Byte) : (s.hostWrite a bs).mgmt = s.mgmt := rfl
@[simp] theorem State.hostWrite_pins (s : State) (a : Nat) (bs : List Byte) : (s.hostWrite a bs).pins = s.pins := rfl
@[simp] theorem State.hostWrite_timeSub (s : State) (a : Nat) (bs : List Byte) : (s.hostWrite a bs).timeSub = s.timeSub := rfl
@[simp] theorem State.hostWrite_meSub (s : State) (a : Nat) (bs : List Byte) : (s.hostWrite a bs).meSub = s.meSub := rfl
@[simp] theorem State.hostWrite_ppsErr (s : State) (a : Nat) (bs : List Byte) : (s.hostWrite a bs).ppsErr = s.ppsErr := rfl

/-! ### setLane -/

@[simp] theorem State.setLane_pending (s : State) (v : Nat) (l : Lane) : (s.setLane v l).pending = s.pending := rfl
@[simp] theorem State.setLane_regs (s : State) (v : Nat) (l : Lane) : (s.setLane v l).regs = s.regs := rfl
@[simp] theorem State.setLane_mem (s : State) (v : Nat) (l : Lane) : (s.setLane v l).mem = s.mem := rfl
@[simp] theorem State.setLane_prot (s : State) (v : Nat) (l : Lane) : (s.setLane v l).prot = s.prot := rfl
@[simp] theorem State.setLane_hostMem (s : State) (v : Nat) (l : Lane) : (s.setLane v l).hostMem = s.hostMem := rfl
@[simp] theorem State.setLane_out (s : State) (v : Nat) (l : Lane) : (s.setLane v l).out = s.out := rfl
@[simp] theorem State.setLane_heldEv (s : State) (v : Nat) (l : Lane) : (s.setLane v l).heldEv = s.heldEv := rfl
@[simp] theorem State.setLane_heldLost (s : State) (v : Nat) (l : Lane) : (s.setLane v l).heldLost = s.heldLost := rfl
@[simp] theorem State.setLane_evOpen (s : State) (v : Nat) (l : Lane) : (s.setLane v l).evOpen = s.evOpen := rfl
@[simp] theorem State.setLane_funcs (s : State) (v : Nat) (l : Lane) : (s.setLane v l).funcs = s.funcs := rfl
@[simp] theorem State.setLane_vfEnable (s : State) (v : Nat) (l : Lane) : (s.setLane v l).vfEnable = s.vfEnable := rfl
@[simp] theorem State.setLane_jobs (s : State) (v : Nat) (l : Lane) : (s.setLane v l).jobs = s.jobs := rfl
@[simp] theorem State.setLane_cmds (s : State) (v : Nat) (l : Lane) : (s.setLane v l).cmds = s.cmds := rfl
@[simp] theorem State.setLane_mes (s : State) (v : Nat) (l : Lane) : (s.setLane v l).mes = s.mes := rfl
@[simp] theorem State.setLane_holders (s : State) (v : Nat) (l : Lane) : (s.setLane v l).holders = s.holders := rfl
@[simp] theorem State.setLane_grants (s : State) (v : Nat) (l : Lane) : (s.setLane v l).grants = s.grants := rfl
@[simp] theorem State.setLane_yielded (s : State) (v : Nat) (l : Lane) : (s.setLane v l).yielded = s.yielded := rfl
@[simp] theorem State.setLane_gcs (s : State) (v : Nat) (l : Lane) : (s.setLane v l).gcs = s.gcs := rfl
@[simp] theorem State.setLane_gcIn (s : State) (v : Nat) (l : Lane) : (s.setLane v l).gcIn = s.gcIn := rfl
@[simp] theorem State.setLane_exchs (s : State) (v : Nat) (l : Lane) : (s.setLane v l).exchs = s.exchs := rfl
@[simp] theorem State.setLane_exchDone (s : State) (v : Nat) (l : Lane) : (s.setLane v l).exchDone = s.exchDone := rfl
@[simp] theorem State.setLane_parcels (s : State) (v : Nat) (l : Lane) : (s.setLane v l).parcels = s.parcels := rfl
@[simp] theorem State.setLane_xallocs (s : State) (v : Nat) (l : Lane) : (s.setLane v l).xallocs = s.xallocs := rfl
@[simp] theorem State.setLane_xsends (s : State) (v : Nat) (l : Lane) : (s.setLane v l).xsends = s.xsends := rfl
@[simp] theorem State.setLane_recTypes (s : State) (v : Nat) (l : Lane) : (s.setLane v l).recTypes = s.recTypes := rfl
@[simp] theorem State.setLane_chainIn (s : State) (v : Nat) (l : Lane) : (s.setLane v l).chainIn = s.chainIn := rfl
@[simp] theorem State.setLane_changes (s : State) (v : Nat) (l : Lane) : (s.setLane v l).changes = s.changes := rfl
@[simp] theorem State.setLane_pools (s : State) (v : Nat) (l : Lane) : (s.setLane v l).pools = s.pools := rfl
@[simp] theorem State.setLane_buckets (s : State) (v : Nat) (l : Lane) : (s.setLane v l).buckets = s.buckets := rfl
@[simp] theorem State.setLane_rgLast (s : State) (v : Nat) (l : Lane) : (s.setLane v l).rgLast = s.rgLast := rfl
@[simp] theorem State.setLane_fabric (s : State) (v : Nat) (l : Lane) : (s.setLane v l).fabric = s.fabric := rfl
@[simp] theorem State.setLane_keeper (s : State) (v : Nat) (l : Lane) : (s.setLane v l).keeper = s.keeper := rfl
@[simp] theorem State.setLane_power (s : State) (v : Nat) (l : Lane) : (s.setLane v l).power = s.power := rfl
@[simp] theorem State.setLane_boot (s : State) (v : Nat) (l : Lane) : (s.setLane v l).boot = s.boot := rfl
@[simp] theorem State.setLane_mgmt (s : State) (v : Nat) (l : Lane) : (s.setLane v l).mgmt = s.mgmt := rfl
@[simp] theorem State.setLane_pins (s : State) (v : Nat) (l : Lane) : (s.setLane v l).pins = s.pins := rfl
@[simp] theorem State.setLane_timeSub (s : State) (v : Nat) (l : Lane) : (s.setLane v l).timeSub = s.timeSub := rfl
@[simp] theorem State.setLane_meSub (s : State) (v : Nat) (l : Lane) : (s.setLane v l).meSub = s.meSub := rfl
@[simp] theorem State.setLane_ppsErr (s : State) (v : Nat) (l : Lane) : (s.setLane v l).ppsErr = s.ppsErr := rfl

/-! ### Events -/

/-- The state but for what the delivery of an event may change. -/
def State.quiet (s : State) : State :=
  { s with regs := [], hostMem := [], out := [], funcs := [], heldEv := [], heldLost := 0 }

theorem State.msix_quiet (s : State) (f v : Nat) : (s.msix f v).quiet = s.quiet := by
  unfold State.msix; dsimp only; (repeat' split) <;> rfl

theorem State.evPut_quiet (s : State) (f : Nat) (e : EventRec) : (s.evPut f e).quiet = s.quiet := by
  unfold State.evPut; dsimp only; split
  · rw [State.msix_quiet]; rfl
  · rfl

theorem State.onFunc_quiet (s : State) (f : Nat) (g : FuncState → FuncState) : (s.onFunc f g).quiet = s.quiet := rfl

theorem State.evFlush_quiet (s : State) (f : Nat) : (s.evFlush f).quiet = s.quiet := by
  unfold State.evFlush; split
  · rw [State.onFunc_quiet, State.evPut_quiet]
  · rfl

theorem State.count_quiet (s : State) (off n : Nat) : (s.count off n).quiet = s.quiet := by
  unfold State.count; split <;> rfl

theorem State.evDeliver_quiet (s : State) (f : Nat) (e : EventRec) : (s.evDeliver f e).quiet = s.quiet := by
  unfold State.evDeliver; dsimp only; split
  · rfl
  · split
    · rw [State.evPut_quiet, State.evFlush_quiet]
    · rw [State.onFunc_quiet, State.count_quiet, State.evFlush_quiet]

theorem State.evPf_quiet (s : State) (e : EventRec) : (s.evPf e).quiet = s.quiet := by
  unfold State.evPf; split
  · rw [State.evDeliver_quiet]
  · split <;> rfl

theorem State.emit_quiet (s : State) (o : Output) : (s.emit o).quiet = s.quiet := rfl

theorem State.mgmtEvent_quiet (s : State) (e : EventRec) : (s.mgmtEvent e).quiet = s.quiet := by
  unfold State.mgmtEvent
  simp only [List.foldl_cons, List.foldl_nil]
  (repeat' split) <;> simp only [State.emit_quiet]

theorem State.raise_quiet (s : State) (code : Nat) (p : Option Part) (a b : Nat) :
    (s.raise code p a b).quiet = s.quiet := by
  unfold State.raise; dsimp only; split
  · rw [State.evPf_quiet, State.evDeliver_quiet]
  · rw [State.mgmtEvent_quiet, State.evPf_quiet]

/-! ### raise -/

@[simp] theorem State.raise_pending (s : State) (code : Nat) (p : Option Part) (a b : Nat) : (s.raise code p a b).pending = s.pending := (congrArg State.pending (s.raise_quiet code p a b) :)
@[simp] theorem State.raise_mem (s : State) (code : Nat) (p : Option Part) (a b : Nat) : (s.raise code p a b).mem = s.mem := (congrArg State.mem (s.raise_quiet code p a b) :)
@[simp] theorem State.raise_prot (s : State) (code : Nat) (p : Option Part) (a b : Nat) : (s.raise code p a b).prot = s.prot := (congrArg State.prot (s.raise_quiet code p a b) :)
@[simp] theorem State.raise_evOpen (s : State) (code : Nat) (p : Option Part) (a b : Nat) : (s.raise code p a b).evOpen = s.evOpen := (congrArg State.evOpen (s.raise_quiet code p a b) :)
@[simp] theorem State.raise_vfEnable (s : State) (code : Nat) (p : Option Part) (a b : Nat) : (s.raise code p a b).vfEnable = s.vfEnable := (congrArg State.vfEnable (s.raise_quiet code p a b) :)
@[simp] theorem State.raise_jobs (s : State) (code : Nat) (p : Option Part) (a b : Nat) : (s.raise code p a b).jobs = s.jobs := (congrArg State.jobs (s.raise_quiet code p a b) :)
@[simp] theorem State.raise_cmds (s : State) (code : Nat) (p : Option Part) (a b : Nat) : (s.raise code p a b).cmds = s.cmds := (congrArg State.cmds (s.raise_quiet code p a b) :)
@[simp] theorem State.raise_mes (s : State) (code : Nat) (p : Option Part) (a b : Nat) : (s.raise code p a b).mes = s.mes := (congrArg State.mes (s.raise_quiet code p a b) :)
@[simp] theorem State.raise_lanes (s : State) (code : Nat) (p : Option Part) (a b : Nat) : (s.raise code p a b).lanes = s.lanes := (congrArg State.lanes (s.raise_quiet code p a b) :)
@[simp] theorem State.raise_holders (s : State) (code : Nat) (p : Option Part) (a b : Nat) : (s.raise code p a b).holders = s.holders := (congrArg State.holders (s.raise_quiet code p a b) :)
@[simp] theorem State.raise_grants (s : State) (code : Nat) (p : Option Part) (a b : Nat) : (s.raise code p a b).grants = s.grants := (congrArg State.grants (s.raise_quiet code p a b) :)
@[simp] theorem State.raise_yielded (s : State) (code : Nat) (p : Option Part) (a b : Nat) : (s.raise code p a b).yielded = s.yielded := (congrArg State.yielded (s.raise_quiet code p a b) :)
@[simp] theorem State.raise_gcs (s : State) (code : Nat) (p : Option Part) (a b : Nat) : (s.raise code p a b).gcs = s.gcs := (congrArg State.gcs (s.raise_quiet code p a b) :)
@[simp] theorem State.raise_gcIn (s : State) (code : Nat) (p : Option Part) (a b : Nat) : (s.raise code p a b).gcIn = s.gcIn := (congrArg State.gcIn (s.raise_quiet code p a b) :)
@[simp] theorem State.raise_exchs (s : State) (code : Nat) (p : Option Part) (a b : Nat) : (s.raise code p a b).exchs = s.exchs := (congrArg State.exchs (s.raise_quiet code p a b) :)
@[simp] theorem State.raise_exchDone (s : State) (code : Nat) (p : Option Part) (a b : Nat) : (s.raise code p a b).exchDone = s.exchDone := (congrArg State.exchDone (s.raise_quiet code p a b) :)
@[simp] theorem State.raise_parcels (s : State) (code : Nat) (p : Option Part) (a b : Nat) : (s.raise code p a b).parcels = s.parcels := (congrArg State.parcels (s.raise_quiet code p a b) :)
@[simp] theorem State.raise_xallocs (s : State) (code : Nat) (p : Option Part) (a b : Nat) : (s.raise code p a b).xallocs = s.xallocs := (congrArg State.xallocs (s.raise_quiet code p a b) :)
@[simp] theorem State.raise_xsends (s : State) (code : Nat) (p : Option Part) (a b : Nat) : (s.raise code p a b).xsends = s.xsends := (congrArg State.xsends (s.raise_quiet code p a b) :)
@[simp] theorem State.raise_recTypes (s : State) (code : Nat) (p : Option Part) (a b : Nat) : (s.raise code p a b).recTypes = s.recTypes := (congrArg State.recTypes (s.raise_quiet code p a b) :)
@[simp] theorem State.raise_chainIn (s : State) (code : Nat) (p : Option Part) (a b : Nat) : (s.raise code p a b).chainIn = s.chainIn := (congrArg State.chainIn (s.raise_quiet code p a b) :)
@[simp] theorem State.raise_changes (s : State) (code : Nat) (p : Option Part) (a b : Nat) : (s.raise code p a b).changes = s.changes := (congrArg State.changes (s.raise_quiet code p a b) :)
@[simp] theorem State.raise_pools (s : State) (code : Nat) (p : Option Part) (a b : Nat) : (s.raise code p a b).pools = s.pools := (congrArg State.pools (s.raise_quiet code p a b) :)
@[simp] theorem State.raise_buckets (s : State) (code : Nat) (p : Option Part) (a b : Nat) : (s.raise code p a b).buckets = s.buckets := (congrArg State.buckets (s.raise_quiet code p a b) :)
@[simp] theorem State.raise_rgLast (s : State) (code : Nat) (p : Option Part) (a b : Nat) : (s.raise code p a b).rgLast = s.rgLast := (congrArg State.rgLast (s.raise_quiet code p a b) :)
@[simp] theorem State.raise_fabric (s : State) (code : Nat) (p : Option Part) (a b : Nat) : (s.raise code p a b).fabric = s.fabric := (congrArg State.fabric (s.raise_quiet code p a b) :)
@[simp] theorem State.raise_keeper (s : State) (code : Nat) (p : Option Part) (a b : Nat) : (s.raise code p a b).keeper = s.keeper := (congrArg State.keeper (s.raise_quiet code p a b) :)
@[simp] theorem State.raise_power (s : State) (code : Nat) (p : Option Part) (a b : Nat) : (s.raise code p a b).power = s.power := (congrArg State.power (s.raise_quiet code p a b) :)
@[simp] theorem State.raise_boot (s : State) (code : Nat) (p : Option Part) (a b : Nat) : (s.raise code p a b).boot = s.boot := (congrArg State.boot (s.raise_quiet code p a b) :)
@[simp] theorem State.raise_mgmt (s : State) (code : Nat) (p : Option Part) (a b : Nat) : (s.raise code p a b).mgmt = s.mgmt := (congrArg State.mgmt (s.raise_quiet code p a b) :)
@[simp] theorem State.raise_pins (s : State) (code : Nat) (p : Option Part) (a b : Nat) : (s.raise code p a b).pins = s.pins := (congrArg State.pins (s.raise_quiet code p a b) :)
@[simp] theorem State.raise_timeSub (s : State) (code : Nat) (p : Option Part) (a b : Nat) : (s.raise code p a b).timeSub = s.timeSub := (congrArg State.timeSub (s.raise_quiet code p a b) :)
@[simp] theorem State.raise_meSub (s : State) (code : Nat) (p : Option Part) (a b : Nat) : (s.raise code p a b).meSub = s.meSub := (congrArg State.meSub (s.raise_quiet code p a b) :)
@[simp] theorem State.raise_ppsErr (s : State) (code : Nat) (p : Option Part) (a b : Nat) : (s.raise code p a b).ppsErr = s.ppsErr := (congrArg State.ppsErr (s.raise_quiet code p a b) :)

theorem State.enterMod_quiet (s : State) (m : Nat) : (s.enterMod m).quiet = s.quiet := by
  unfold State.enterMod; split
  · rfl
  · rw [State.raise_quiet]; rfl

/-! ### enterMod -/

@[simp] theorem State.enterMod_pending (s : State) (m : Nat) : (s.enterMod m).pending = s.pending := (congrArg State.pending (s.enterMod_quiet m) :)
@[simp] theorem State.enterMod_mem (s : State) (m : Nat) : (s.enterMod m).mem = s.mem := (congrArg State.mem (s.enterMod_quiet m) :)
@[simp] theorem State.enterMod_prot (s : State) (m : Nat) : (s.enterMod m).prot = s.prot := (congrArg State.prot (s.enterMod_quiet m) :)
@[simp] theorem State.enterMod_evOpen (s : State) (m : Nat) : (s.enterMod m).evOpen = s.evOpen := (congrArg State.evOpen (s.enterMod_quiet m) :)
@[simp] theorem State.enterMod_vfEnable (s : State) (m : Nat) : (s.enterMod m).vfEnable = s.vfEnable := (congrArg State.vfEnable (s.enterMod_quiet m) :)
@[simp] theorem State.enterMod_jobs (s : State) (m : Nat) : (s.enterMod m).jobs = s.jobs := (congrArg State.jobs (s.enterMod_quiet m) :)
@[simp] theorem State.enterMod_cmds (s : State) (m : Nat) : (s.enterMod m).cmds = s.cmds := (congrArg State.cmds (s.enterMod_quiet m) :)
@[simp] theorem State.enterMod_mes (s : State) (m : Nat) : (s.enterMod m).mes = s.mes := (congrArg State.mes (s.enterMod_quiet m) :)
@[simp] theorem State.enterMod_lanes (s : State) (m : Nat) : (s.enterMod m).lanes = s.lanes := (congrArg State.lanes (s.enterMod_quiet m) :)
@[simp] theorem State.enterMod_holders (s : State) (m : Nat) : (s.enterMod m).holders = s.holders := (congrArg State.holders (s.enterMod_quiet m) :)
@[simp] theorem State.enterMod_grants (s : State) (m : Nat) : (s.enterMod m).grants = s.grants := (congrArg State.grants (s.enterMod_quiet m) :)
@[simp] theorem State.enterMod_yielded (s : State) (m : Nat) : (s.enterMod m).yielded = s.yielded := (congrArg State.yielded (s.enterMod_quiet m) :)
@[simp] theorem State.enterMod_gcs (s : State) (m : Nat) : (s.enterMod m).gcs = s.gcs := (congrArg State.gcs (s.enterMod_quiet m) :)
@[simp] theorem State.enterMod_gcIn (s : State) (m : Nat) : (s.enterMod m).gcIn = s.gcIn := (congrArg State.gcIn (s.enterMod_quiet m) :)
@[simp] theorem State.enterMod_exchs (s : State) (m : Nat) : (s.enterMod m).exchs = s.exchs := (congrArg State.exchs (s.enterMod_quiet m) :)
@[simp] theorem State.enterMod_exchDone (s : State) (m : Nat) : (s.enterMod m).exchDone = s.exchDone := (congrArg State.exchDone (s.enterMod_quiet m) :)
@[simp] theorem State.enterMod_parcels (s : State) (m : Nat) : (s.enterMod m).parcels = s.parcels := (congrArg State.parcels (s.enterMod_quiet m) :)
@[simp] theorem State.enterMod_xallocs (s : State) (m : Nat) : (s.enterMod m).xallocs = s.xallocs := (congrArg State.xallocs (s.enterMod_quiet m) :)
@[simp] theorem State.enterMod_xsends (s : State) (m : Nat) : (s.enterMod m).xsends = s.xsends := (congrArg State.xsends (s.enterMod_quiet m) :)
@[simp] theorem State.enterMod_recTypes (s : State) (m : Nat) : (s.enterMod m).recTypes = s.recTypes := (congrArg State.recTypes (s.enterMod_quiet m) :)
@[simp] theorem State.enterMod_chainIn (s : State) (m : Nat) : (s.enterMod m).chainIn = s.chainIn := (congrArg State.chainIn (s.enterMod_quiet m) :)
@[simp] theorem State.enterMod_changes (s : State) (m : Nat) : (s.enterMod m).changes = s.changes := (congrArg State.changes (s.enterMod_quiet m) :)
@[simp] theorem State.enterMod_pools (s : State) (m : Nat) : (s.enterMod m).pools = s.pools := (congrArg State.pools (s.enterMod_quiet m) :)
@[simp] theorem State.enterMod_buckets (s : State) (m : Nat) : (s.enterMod m).buckets = s.buckets := (congrArg State.buckets (s.enterMod_quiet m) :)
@[simp] theorem State.enterMod_rgLast (s : State) (m : Nat) : (s.enterMod m).rgLast = s.rgLast := (congrArg State.rgLast (s.enterMod_quiet m) :)
@[simp] theorem State.enterMod_fabric (s : State) (m : Nat) : (s.enterMod m).fabric = s.fabric := (congrArg State.fabric (s.enterMod_quiet m) :)
@[simp] theorem State.enterMod_keeper (s : State) (m : Nat) : (s.enterMod m).keeper = s.keeper := (congrArg State.keeper (s.enterMod_quiet m) :)
@[simp] theorem State.enterMod_power (s : State) (m : Nat) : (s.enterMod m).power = s.power := (congrArg State.power (s.enterMod_quiet m) :)
@[simp] theorem State.enterMod_boot (s : State) (m : Nat) : (s.enterMod m).boot = s.boot := (congrArg State.boot (s.enterMod_quiet m) :)
@[simp] theorem State.enterMod_mgmt (s : State) (m : Nat) : (s.enterMod m).mgmt = s.mgmt := (congrArg State.mgmt (s.enterMod_quiet m) :)
@[simp] theorem State.enterMod_pins (s : State) (m : Nat) : (s.enterMod m).pins = s.pins := (congrArg State.pins (s.enterMod_quiet m) :)
@[simp] theorem State.enterMod_timeSub (s : State) (m : Nat) : (s.enterMod m).timeSub = s.timeSub := (congrArg State.timeSub (s.enterMod_quiet m) :)
@[simp] theorem State.enterMod_meSub (s : State) (m : Nat) : (s.enterMod m).meSub = s.meSub := (congrArg State.meSub (s.enterMod_quiet m) :)
@[simp] theorem State.enterMod_ppsErr (s : State) (m : Nat) : (s.enterMod m).ppsErr = s.ppsErr := (congrArg State.ppsErr (s.enterMod_quiet m) :)

theorem State.syncMod_quiet (s : State) : s.syncMod.quiet = s.quiet := by
  unfold State.syncMod; split
  · exact State.enterMod_quiet _ _
  · rfl

/-! ### syncMod -/

@[simp] theorem State.syncMod_pending (s : State)  : (s.syncMod).pending = s.pending := (congrArg State.pending (s.syncMod_quiet) :)
@[simp] theorem State.syncMod_mem (s : State)  : (s.syncMod).mem = s.mem := (congrArg State.mem (s.syncMod_quiet) :)
@[simp] theorem State.syncMod_prot (s : State)  : (s.syncMod).prot = s.prot := (congrArg State.prot (s.syncMod_quiet) :)
@[simp] theorem State.syncMod_evOpen (s : State)  : (s.syncMod).evOpen = s.evOpen := (congrArg State.evOpen (s.syncMod_quiet) :)
@[simp] theorem State.syncMod_vfEnable (s : State)  : (s.syncMod).vfEnable = s.vfEnable := (congrArg State.vfEnable (s.syncMod_quiet) :)
@[simp] theorem State.syncMod_jobs (s : State)  : (s.syncMod).jobs = s.jobs := (congrArg State.jobs (s.syncMod_quiet) :)
@[simp] theorem State.syncMod_cmds (s : State)  : (s.syncMod).cmds = s.cmds := (congrArg State.cmds (s.syncMod_quiet) :)
@[simp] theorem State.syncMod_mes (s : State)  : (s.syncMod).mes = s.mes := (congrArg State.mes (s.syncMod_quiet) :)
@[simp] theorem State.syncMod_lanes (s : State)  : (s.syncMod).lanes = s.lanes := (congrArg State.lanes (s.syncMod_quiet) :)
@[simp] theorem State.syncMod_holders (s : State)  : (s.syncMod).holders = s.holders := (congrArg State.holders (s.syncMod_quiet) :)
@[simp] theorem State.syncMod_grants (s : State)  : (s.syncMod).grants = s.grants := (congrArg State.grants (s.syncMod_quiet) :)
@[simp] theorem State.syncMod_yielded (s : State)  : (s.syncMod).yielded = s.yielded := (congrArg State.yielded (s.syncMod_quiet) :)
@[simp] theorem State.syncMod_gcs (s : State)  : (s.syncMod).gcs = s.gcs := (congrArg State.gcs (s.syncMod_quiet) :)
@[simp] theorem State.syncMod_gcIn (s : State)  : (s.syncMod).gcIn = s.gcIn := (congrArg State.gcIn (s.syncMod_quiet) :)
@[simp] theorem State.syncMod_exchs (s : State)  : (s.syncMod).exchs = s.exchs := (congrArg State.exchs (s.syncMod_quiet) :)
@[simp] theorem State.syncMod_exchDone (s : State)  : (s.syncMod).exchDone = s.exchDone := (congrArg State.exchDone (s.syncMod_quiet) :)
@[simp] theorem State.syncMod_parcels (s : State)  : (s.syncMod).parcels = s.parcels := (congrArg State.parcels (s.syncMod_quiet) :)
@[simp] theorem State.syncMod_xallocs (s : State)  : (s.syncMod).xallocs = s.xallocs := (congrArg State.xallocs (s.syncMod_quiet) :)
@[simp] theorem State.syncMod_xsends (s : State)  : (s.syncMod).xsends = s.xsends := (congrArg State.xsends (s.syncMod_quiet) :)
@[simp] theorem State.syncMod_recTypes (s : State)  : (s.syncMod).recTypes = s.recTypes := (congrArg State.recTypes (s.syncMod_quiet) :)
@[simp] theorem State.syncMod_chainIn (s : State)  : (s.syncMod).chainIn = s.chainIn := (congrArg State.chainIn (s.syncMod_quiet) :)
@[simp] theorem State.syncMod_changes (s : State)  : (s.syncMod).changes = s.changes := (congrArg State.changes (s.syncMod_quiet) :)
@[simp] theorem State.syncMod_pools (s : State)  : (s.syncMod).pools = s.pools := (congrArg State.pools (s.syncMod_quiet) :)
@[simp] theorem State.syncMod_buckets (s : State)  : (s.syncMod).buckets = s.buckets := (congrArg State.buckets (s.syncMod_quiet) :)
@[simp] theorem State.syncMod_rgLast (s : State)  : (s.syncMod).rgLast = s.rgLast := (congrArg State.rgLast (s.syncMod_quiet) :)
@[simp] theorem State.syncMod_fabric (s : State)  : (s.syncMod).fabric = s.fabric := (congrArg State.fabric (s.syncMod_quiet) :)
@[simp] theorem State.syncMod_keeper (s : State)  : (s.syncMod).keeper = s.keeper := (congrArg State.keeper (s.syncMod_quiet) :)
@[simp] theorem State.syncMod_power (s : State)  : (s.syncMod).power = s.power := (congrArg State.power (s.syncMod_quiet) :)
@[simp] theorem State.syncMod_boot (s : State)  : (s.syncMod).boot = s.boot := (congrArg State.boot (s.syncMod_quiet) :)
@[simp] theorem State.syncMod_mgmt (s : State)  : (s.syncMod).mgmt = s.mgmt := (congrArg State.mgmt (s.syncMod_quiet) :)
@[simp] theorem State.syncMod_pins (s : State)  : (s.syncMod).pins = s.pins := (congrArg State.pins (s.syncMod_quiet) :)
@[simp] theorem State.syncMod_timeSub (s : State)  : (s.syncMod).timeSub = s.timeSub := (congrArg State.timeSub (s.syncMod_quiet) :)
@[simp] theorem State.syncMod_meSub (s : State)  : (s.syncMod).meSub = s.meSub := (congrArg State.meSub (s.syncMod_quiet) :)
@[simp] theorem State.syncMod_ppsErr (s : State)  : (s.syncMod).ppsErr = s.ppsErr := (congrArg State.ppsErr (s.syncMod_quiet) :)

theorem State.setJobState_quiet (s : State) (p : Part) (j : Nat) : (s.setJobState p j).quiet = s.quiet := by
  unfold State.setJobState; rw [State.syncMod_quiet]; rfl

/-! ### setJobState -/

@[simp] theorem State.setJobState_pending (s : State) (p : Part) (j : Nat) : (s.setJobState p j).pending = s.pending := (congrArg State.pending (s.setJobState_quiet p j) :)
@[simp] theorem State.setJobState_mem (s : State) (p : Part) (j : Nat) : (s.setJobState p j).mem = s.mem := (congrArg State.mem (s.setJobState_quiet p j) :)
@[simp] theorem State.setJobState_prot (s : State) (p : Part) (j : Nat) : (s.setJobState p j).prot = s.prot := (congrArg State.prot (s.setJobState_quiet p j) :)
@[simp] theorem State.setJobState_evOpen (s : State) (p : Part) (j : Nat) : (s.setJobState p j).evOpen = s.evOpen := (congrArg State.evOpen (s.setJobState_quiet p j) :)
@[simp] theorem State.setJobState_vfEnable (s : State) (p : Part) (j : Nat) : (s.setJobState p j).vfEnable = s.vfEnable := (congrArg State.vfEnable (s.setJobState_quiet p j) :)
@[simp] theorem State.setJobState_jobs (s : State) (p : Part) (j : Nat) : (s.setJobState p j).jobs = s.jobs := (congrArg State.jobs (s.setJobState_quiet p j) :)
@[simp] theorem State.setJobState_cmds (s : State) (p : Part) (j : Nat) : (s.setJobState p j).cmds = s.cmds := (congrArg State.cmds (s.setJobState_quiet p j) :)
@[simp] theorem State.setJobState_mes (s : State) (p : Part) (j : Nat) : (s.setJobState p j).mes = s.mes := (congrArg State.mes (s.setJobState_quiet p j) :)
@[simp] theorem State.setJobState_lanes (s : State) (p : Part) (j : Nat) : (s.setJobState p j).lanes = s.lanes := (congrArg State.lanes (s.setJobState_quiet p j) :)
@[simp] theorem State.setJobState_holders (s : State) (p : Part) (j : Nat) : (s.setJobState p j).holders = s.holders := (congrArg State.holders (s.setJobState_quiet p j) :)
@[simp] theorem State.setJobState_grants (s : State) (p : Part) (j : Nat) : (s.setJobState p j).grants = s.grants := (congrArg State.grants (s.setJobState_quiet p j) :)
@[simp] theorem State.setJobState_yielded (s : State) (p : Part) (j : Nat) : (s.setJobState p j).yielded = s.yielded := (congrArg State.yielded (s.setJobState_quiet p j) :)
@[simp] theorem State.setJobState_gcs (s : State) (p : Part) (j : Nat) : (s.setJobState p j).gcs = s.gcs := (congrArg State.gcs (s.setJobState_quiet p j) :)
@[simp] theorem State.setJobState_gcIn (s : State) (p : Part) (j : Nat) : (s.setJobState p j).gcIn = s.gcIn := (congrArg State.gcIn (s.setJobState_quiet p j) :)
@[simp] theorem State.setJobState_exchs (s : State) (p : Part) (j : Nat) : (s.setJobState p j).exchs = s.exchs := (congrArg State.exchs (s.setJobState_quiet p j) :)
@[simp] theorem State.setJobState_exchDone (s : State) (p : Part) (j : Nat) : (s.setJobState p j).exchDone = s.exchDone := (congrArg State.exchDone (s.setJobState_quiet p j) :)
@[simp] theorem State.setJobState_parcels (s : State) (p : Part) (j : Nat) : (s.setJobState p j).parcels = s.parcels := (congrArg State.parcels (s.setJobState_quiet p j) :)
@[simp] theorem State.setJobState_xallocs (s : State) (p : Part) (j : Nat) : (s.setJobState p j).xallocs = s.xallocs := (congrArg State.xallocs (s.setJobState_quiet p j) :)
@[simp] theorem State.setJobState_xsends (s : State) (p : Part) (j : Nat) : (s.setJobState p j).xsends = s.xsends := (congrArg State.xsends (s.setJobState_quiet p j) :)
@[simp] theorem State.setJobState_recTypes (s : State) (p : Part) (j : Nat) : (s.setJobState p j).recTypes = s.recTypes := (congrArg State.recTypes (s.setJobState_quiet p j) :)
@[simp] theorem State.setJobState_chainIn (s : State) (p : Part) (j : Nat) : (s.setJobState p j).chainIn = s.chainIn := (congrArg State.chainIn (s.setJobState_quiet p j) :)
@[simp] theorem State.setJobState_changes (s : State) (p : Part) (j : Nat) : (s.setJobState p j).changes = s.changes := (congrArg State.changes (s.setJobState_quiet p j) :)
@[simp] theorem State.setJobState_pools (s : State) (p : Part) (j : Nat) : (s.setJobState p j).pools = s.pools := (congrArg State.pools (s.setJobState_quiet p j) :)
@[simp] theorem State.setJobState_buckets (s : State) (p : Part) (j : Nat) : (s.setJobState p j).buckets = s.buckets := (congrArg State.buckets (s.setJobState_quiet p j) :)
@[simp] theorem State.setJobState_rgLast (s : State) (p : Part) (j : Nat) : (s.setJobState p j).rgLast = s.rgLast := (congrArg State.rgLast (s.setJobState_quiet p j) :)
@[simp] theorem State.setJobState_fabric (s : State) (p : Part) (j : Nat) : (s.setJobState p j).fabric = s.fabric := (congrArg State.fabric (s.setJobState_quiet p j) :)
@[simp] theorem State.setJobState_keeper (s : State) (p : Part) (j : Nat) : (s.setJobState p j).keeper = s.keeper := (congrArg State.keeper (s.setJobState_quiet p j) :)
@[simp] theorem State.setJobState_power (s : State) (p : Part) (j : Nat) : (s.setJobState p j).power = s.power := (congrArg State.power (s.setJobState_quiet p j) :)
@[simp] theorem State.setJobState_boot (s : State) (p : Part) (j : Nat) : (s.setJobState p j).boot = s.boot := (congrArg State.boot (s.setJobState_quiet p j) :)
@[simp] theorem State.setJobState_mgmt (s : State) (p : Part) (j : Nat) : (s.setJobState p j).mgmt = s.mgmt := (congrArg State.mgmt (s.setJobState_quiet p j) :)
@[simp] theorem State.setJobState_pins (s : State) (p : Part) (j : Nat) : (s.setJobState p j).pins = s.pins := (congrArg State.pins (s.setJobState_quiet p j) :)
@[simp] theorem State.setJobState_timeSub (s : State) (p : Part) (j : Nat) : (s.setJobState p j).timeSub = s.timeSub := (congrArg State.timeSub (s.setJobState_quiet p j) :)
@[simp] theorem State.setJobState_meSub (s : State) (p : Part) (j : Nat) : (s.setJobState p j).meSub = s.meSub := (congrArg State.meSub (s.setJobState_quiet p j) :)
@[simp] theorem State.setJobState_ppsErr (s : State) (p : Part) (j : Nat) : (s.setJobState p j).ppsErr = s.ppsErr := (congrArg State.ppsErr (s.setJobState_quiet p j) :)

/-- The state but for its registers. -/
def State.noRegs (s : State) : State := { s with regs := [] }

theorem State.galBounds_noRegs (s : State) (a : Nat) : (s.galBounds a).noRegs = s.noRegs := by
  unfold State.galBounds; split <;> rfl

/-! ### galBounds -/

@[simp] theorem State.galBounds_pending (s : State) (a : Nat) : (s.galBounds a).pending = s.pending := (congrArg State.pending (s.galBounds_noRegs a) :)
@[simp] theorem State.galBounds_mem (s : State) (a : Nat) : (s.galBounds a).mem = s.mem := (congrArg State.mem (s.galBounds_noRegs a) :)
@[simp] theorem State.galBounds_prot (s : State) (a : Nat) : (s.galBounds a).prot = s.prot := (congrArg State.prot (s.galBounds_noRegs a) :)
@[simp] theorem State.galBounds_hostMem (s : State) (a : Nat) : (s.galBounds a).hostMem = s.hostMem := (congrArg State.hostMem (s.galBounds_noRegs a) :)
@[simp] theorem State.galBounds_out (s : State) (a : Nat) : (s.galBounds a).out = s.out := (congrArg State.out (s.galBounds_noRegs a) :)
@[simp] theorem State.galBounds_heldEv (s : State) (a : Nat) : (s.galBounds a).heldEv = s.heldEv := (congrArg State.heldEv (s.galBounds_noRegs a) :)
@[simp] theorem State.galBounds_heldLost (s : State) (a : Nat) : (s.galBounds a).heldLost = s.heldLost := (congrArg State.heldLost (s.galBounds_noRegs a) :)
@[simp] theorem State.galBounds_evOpen (s : State) (a : Nat) : (s.galBounds a).evOpen = s.evOpen := (congrArg State.evOpen (s.galBounds_noRegs a) :)
@[simp] theorem State.galBounds_funcs (s : State) (a : Nat) : (s.galBounds a).funcs = s.funcs := (congrArg State.funcs (s.galBounds_noRegs a) :)
@[simp] theorem State.galBounds_vfEnable (s : State) (a : Nat) : (s.galBounds a).vfEnable = s.vfEnable := (congrArg State.vfEnable (s.galBounds_noRegs a) :)
@[simp] theorem State.galBounds_jobs (s : State) (a : Nat) : (s.galBounds a).jobs = s.jobs := (congrArg State.jobs (s.galBounds_noRegs a) :)
@[simp] theorem State.galBounds_cmds (s : State) (a : Nat) : (s.galBounds a).cmds = s.cmds := (congrArg State.cmds (s.galBounds_noRegs a) :)
@[simp] theorem State.galBounds_mes (s : State) (a : Nat) : (s.galBounds a).mes = s.mes := (congrArg State.mes (s.galBounds_noRegs a) :)
@[simp] theorem State.galBounds_lanes (s : State) (a : Nat) : (s.galBounds a).lanes = s.lanes := (congrArg State.lanes (s.galBounds_noRegs a) :)
@[simp] theorem State.galBounds_holders (s : State) (a : Nat) : (s.galBounds a).holders = s.holders := (congrArg State.holders (s.galBounds_noRegs a) :)
@[simp] theorem State.galBounds_grants (s : State) (a : Nat) : (s.galBounds a).grants = s.grants := (congrArg State.grants (s.galBounds_noRegs a) :)
@[simp] theorem State.galBounds_yielded (s : State) (a : Nat) : (s.galBounds a).yielded = s.yielded := (congrArg State.yielded (s.galBounds_noRegs a) :)
@[simp] theorem State.galBounds_gcs (s : State) (a : Nat) : (s.galBounds a).gcs = s.gcs := (congrArg State.gcs (s.galBounds_noRegs a) :)
@[simp] theorem State.galBounds_gcIn (s : State) (a : Nat) : (s.galBounds a).gcIn = s.gcIn := (congrArg State.gcIn (s.galBounds_noRegs a) :)
@[simp] theorem State.galBounds_exchs (s : State) (a : Nat) : (s.galBounds a).exchs = s.exchs := (congrArg State.exchs (s.galBounds_noRegs a) :)
@[simp] theorem State.galBounds_exchDone (s : State) (a : Nat) : (s.galBounds a).exchDone = s.exchDone := (congrArg State.exchDone (s.galBounds_noRegs a) :)
@[simp] theorem State.galBounds_parcels (s : State) (a : Nat) : (s.galBounds a).parcels = s.parcels := (congrArg State.parcels (s.galBounds_noRegs a) :)
@[simp] theorem State.galBounds_xallocs (s : State) (a : Nat) : (s.galBounds a).xallocs = s.xallocs := (congrArg State.xallocs (s.galBounds_noRegs a) :)
@[simp] theorem State.galBounds_xsends (s : State) (a : Nat) : (s.galBounds a).xsends = s.xsends := (congrArg State.xsends (s.galBounds_noRegs a) :)
@[simp] theorem State.galBounds_recTypes (s : State) (a : Nat) : (s.galBounds a).recTypes = s.recTypes := (congrArg State.recTypes (s.galBounds_noRegs a) :)
@[simp] theorem State.galBounds_chainIn (s : State) (a : Nat) : (s.galBounds a).chainIn = s.chainIn := (congrArg State.chainIn (s.galBounds_noRegs a) :)
@[simp] theorem State.galBounds_changes (s : State) (a : Nat) : (s.galBounds a).changes = s.changes := (congrArg State.changes (s.galBounds_noRegs a) :)
@[simp] theorem State.galBounds_pools (s : State) (a : Nat) : (s.galBounds a).pools = s.pools := (congrArg State.pools (s.galBounds_noRegs a) :)
@[simp] theorem State.galBounds_buckets (s : State) (a : Nat) : (s.galBounds a).buckets = s.buckets := (congrArg State.buckets (s.galBounds_noRegs a) :)
@[simp] theorem State.galBounds_rgLast (s : State) (a : Nat) : (s.galBounds a).rgLast = s.rgLast := (congrArg State.rgLast (s.galBounds_noRegs a) :)
@[simp] theorem State.galBounds_fabric (s : State) (a : Nat) : (s.galBounds a).fabric = s.fabric := (congrArg State.fabric (s.galBounds_noRegs a) :)
@[simp] theorem State.galBounds_keeper (s : State) (a : Nat) : (s.galBounds a).keeper = s.keeper := (congrArg State.keeper (s.galBounds_noRegs a) :)
@[simp] theorem State.galBounds_power (s : State) (a : Nat) : (s.galBounds a).power = s.power := (congrArg State.power (s.galBounds_noRegs a) :)
@[simp] theorem State.galBounds_boot (s : State) (a : Nat) : (s.galBounds a).boot = s.boot := (congrArg State.boot (s.galBounds_noRegs a) :)
@[simp] theorem State.galBounds_mgmt (s : State) (a : Nat) : (s.galBounds a).mgmt = s.mgmt := (congrArg State.mgmt (s.galBounds_noRegs a) :)
@[simp] theorem State.galBounds_pins (s : State) (a : Nat) : (s.galBounds a).pins = s.pins := (congrArg State.pins (s.galBounds_noRegs a) :)
@[simp] theorem State.galBounds_timeSub (s : State) (a : Nat) : (s.galBounds a).timeSub = s.timeSub := (congrArg State.timeSub (s.galBounds_noRegs a) :)
@[simp] theorem State.galBounds_meSub (s : State) (a : Nat) : (s.galBounds a).meSub = s.meSub := (congrArg State.meSub (s.galBounds_noRegs a) :)
@[simp] theorem State.galBounds_ppsErr (s : State) (a : Nat) : (s.galBounds a).ppsErr = s.ppsErr := (congrArg State.ppsErr (s.galBounds_noRegs a) :)

theorem State.boundsNote_noRegs (s : State) (p st d : Nat) (b : Bool) : (s.boundsNote p st d b).noRegs = s.noRegs := by
  unfold State.boundsNote; split
  · exact State.galBounds_noRegs _ _
  · rfl

/-! ### boundsNote -/

@[simp] theorem State.boundsNote_pending (s : State) (p st d : Nat) (b : Bool) : (s.boundsNote p st d b).pending = s.pending := (congrArg State.pending (s.boundsNote_noRegs p st d b) :)
@[simp] theorem State.boundsNote_mem (s : State) (p st d : Nat) (b : Bool) : (s.boundsNote p st d b).mem = s.mem := (congrArg State.mem (s.boundsNote_noRegs p st d b) :)
@[simp] theorem State.boundsNote_prot (s : State) (p st d : Nat) (b : Bool) : (s.boundsNote p st d b).prot = s.prot := (congrArg State.prot (s.boundsNote_noRegs p st d b) :)
@[simp] theorem State.boundsNote_hostMem (s : State) (p st d : Nat) (b : Bool) : (s.boundsNote p st d b).hostMem = s.hostMem := (congrArg State.hostMem (s.boundsNote_noRegs p st d b) :)
@[simp] theorem State.boundsNote_out (s : State) (p st d : Nat) (b : Bool) : (s.boundsNote p st d b).out = s.out := (congrArg State.out (s.boundsNote_noRegs p st d b) :)
@[simp] theorem State.boundsNote_heldEv (s : State) (p st d : Nat) (b : Bool) : (s.boundsNote p st d b).heldEv = s.heldEv := (congrArg State.heldEv (s.boundsNote_noRegs p st d b) :)
@[simp] theorem State.boundsNote_heldLost (s : State) (p st d : Nat) (b : Bool) : (s.boundsNote p st d b).heldLost = s.heldLost := (congrArg State.heldLost (s.boundsNote_noRegs p st d b) :)
@[simp] theorem State.boundsNote_evOpen (s : State) (p st d : Nat) (b : Bool) : (s.boundsNote p st d b).evOpen = s.evOpen := (congrArg State.evOpen (s.boundsNote_noRegs p st d b) :)
@[simp] theorem State.boundsNote_funcs (s : State) (p st d : Nat) (b : Bool) : (s.boundsNote p st d b).funcs = s.funcs := (congrArg State.funcs (s.boundsNote_noRegs p st d b) :)
@[simp] theorem State.boundsNote_vfEnable (s : State) (p st d : Nat) (b : Bool) : (s.boundsNote p st d b).vfEnable = s.vfEnable := (congrArg State.vfEnable (s.boundsNote_noRegs p st d b) :)
@[simp] theorem State.boundsNote_jobs (s : State) (p st d : Nat) (b : Bool) : (s.boundsNote p st d b).jobs = s.jobs := (congrArg State.jobs (s.boundsNote_noRegs p st d b) :)
@[simp] theorem State.boundsNote_cmds (s : State) (p st d : Nat) (b : Bool) : (s.boundsNote p st d b).cmds = s.cmds := (congrArg State.cmds (s.boundsNote_noRegs p st d b) :)
@[simp] theorem State.boundsNote_mes (s : State) (p st d : Nat) (b : Bool) : (s.boundsNote p st d b).mes = s.mes := (congrArg State.mes (s.boundsNote_noRegs p st d b) :)
@[simp] theorem State.boundsNote_lanes (s : State) (p st d : Nat) (b : Bool) : (s.boundsNote p st d b).lanes = s.lanes := (congrArg State.lanes (s.boundsNote_noRegs p st d b) :)
@[simp] theorem State.boundsNote_holders (s : State) (p st d : Nat) (b : Bool) : (s.boundsNote p st d b).holders = s.holders := (congrArg State.holders (s.boundsNote_noRegs p st d b) :)
@[simp] theorem State.boundsNote_grants (s : State) (p st d : Nat) (b : Bool) : (s.boundsNote p st d b).grants = s.grants := (congrArg State.grants (s.boundsNote_noRegs p st d b) :)
@[simp] theorem State.boundsNote_yielded (s : State) (p st d : Nat) (b : Bool) : (s.boundsNote p st d b).yielded = s.yielded := (congrArg State.yielded (s.boundsNote_noRegs p st d b) :)
@[simp] theorem State.boundsNote_gcs (s : State) (p st d : Nat) (b : Bool) : (s.boundsNote p st d b).gcs = s.gcs := (congrArg State.gcs (s.boundsNote_noRegs p st d b) :)
@[simp] theorem State.boundsNote_gcIn (s : State) (p st d : Nat) (b : Bool) : (s.boundsNote p st d b).gcIn = s.gcIn := (congrArg State.gcIn (s.boundsNote_noRegs p st d b) :)
@[simp] theorem State.boundsNote_exchs (s : State) (p st d : Nat) (b : Bool) : (s.boundsNote p st d b).exchs = s.exchs := (congrArg State.exchs (s.boundsNote_noRegs p st d b) :)
@[simp] theorem State.boundsNote_exchDone (s : State) (p st d : Nat) (b : Bool) : (s.boundsNote p st d b).exchDone = s.exchDone := (congrArg State.exchDone (s.boundsNote_noRegs p st d b) :)
@[simp] theorem State.boundsNote_parcels (s : State) (p st d : Nat) (b : Bool) : (s.boundsNote p st d b).parcels = s.parcels := (congrArg State.parcels (s.boundsNote_noRegs p st d b) :)
@[simp] theorem State.boundsNote_xallocs (s : State) (p st d : Nat) (b : Bool) : (s.boundsNote p st d b).xallocs = s.xallocs := (congrArg State.xallocs (s.boundsNote_noRegs p st d b) :)
@[simp] theorem State.boundsNote_xsends (s : State) (p st d : Nat) (b : Bool) : (s.boundsNote p st d b).xsends = s.xsends := (congrArg State.xsends (s.boundsNote_noRegs p st d b) :)
@[simp] theorem State.boundsNote_recTypes (s : State) (p st d : Nat) (b : Bool) : (s.boundsNote p st d b).recTypes = s.recTypes := (congrArg State.recTypes (s.boundsNote_noRegs p st d b) :)
@[simp] theorem State.boundsNote_chainIn (s : State) (p st d : Nat) (b : Bool) : (s.boundsNote p st d b).chainIn = s.chainIn := (congrArg State.chainIn (s.boundsNote_noRegs p st d b) :)
@[simp] theorem State.boundsNote_changes (s : State) (p st d : Nat) (b : Bool) : (s.boundsNote p st d b).changes = s.changes := (congrArg State.changes (s.boundsNote_noRegs p st d b) :)
@[simp] theorem State.boundsNote_pools (s : State) (p st d : Nat) (b : Bool) : (s.boundsNote p st d b).pools = s.pools := (congrArg State.pools (s.boundsNote_noRegs p st d b) :)
@[simp] theorem State.boundsNote_buckets (s : State) (p st d : Nat) (b : Bool) : (s.boundsNote p st d b).buckets = s.buckets := (congrArg State.buckets (s.boundsNote_noRegs p st d b) :)
@[simp] theorem State.boundsNote_rgLast (s : State) (p st d : Nat) (b : Bool) : (s.boundsNote p st d b).rgLast = s.rgLast := (congrArg State.rgLast (s.boundsNote_noRegs p st d b) :)
@[simp] theorem State.boundsNote_fabric (s : State) (p st d : Nat) (b : Bool) : (s.boundsNote p st d b).fabric = s.fabric := (congrArg State.fabric (s.boundsNote_noRegs p st d b) :)
@[simp] theorem State.boundsNote_keeper (s : State) (p st d : Nat) (b : Bool) : (s.boundsNote p st d b).keeper = s.keeper := (congrArg State.keeper (s.boundsNote_noRegs p st d b) :)
@[simp] theorem State.boundsNote_power (s : State) (p st d : Nat) (b : Bool) : (s.boundsNote p st d b).power = s.power := (congrArg State.power (s.boundsNote_noRegs p st d b) :)
@[simp] theorem State.boundsNote_boot (s : State) (p st d : Nat) (b : Bool) : (s.boundsNote p st d b).boot = s.boot := (congrArg State.boot (s.boundsNote_noRegs p st d b) :)
@[simp] theorem State.boundsNote_mgmt (s : State) (p st d : Nat) (b : Bool) : (s.boundsNote p st d b).mgmt = s.mgmt := (congrArg State.mgmt (s.boundsNote_noRegs p st d b) :)
@[simp] theorem State.boundsNote_pins (s : State) (p st d : Nat) (b : Bool) : (s.boundsNote p st d b).pins = s.pins := (congrArg State.pins (s.boundsNote_noRegs p st d b) :)
@[simp] theorem State.boundsNote_timeSub (s : State) (p st d : Nat) (b : Bool) : (s.boundsNote p st d b).timeSub = s.timeSub := (congrArg State.timeSub (s.boundsNote_noRegs p st d b) :)
@[simp] theorem State.boundsNote_meSub (s : State) (p st d : Nat) (b : Bool) : (s.boundsNote p st d b).meSub = s.meSub := (congrArg State.meSub (s.boundsNote_noRegs p st d b) :)
@[simp] theorem State.boundsNote_ppsErr (s : State) (p st d : Nat) (b : Bool) : (s.boundsNote p st d b).ppsErr = s.ppsErr := (congrArg State.ppsErr (s.boundsNote_noRegs p st d b) :)

/-! ### notify -/

@[simp] theorem State.notify_pending (s : State) (p : Nat) (n : Notice) : (s.notify p n).pending = s.pending := rfl
@[simp] theorem State.notify_regs (s : State) (p : Nat) (n : Notice) : (s.notify p n).regs = s.regs := rfl
@[simp] theorem State.notify_mem (s : State) (p : Nat) (n : Notice) : (s.notify p n).mem = s.mem := rfl
@[simp] theorem State.notify_prot (s : State) (p : Nat) (n : Notice) : (s.notify p n).prot = s.prot := rfl
@[simp] theorem State.notify_hostMem (s : State) (p : Nat) (n : Notice) : (s.notify p n).hostMem = s.hostMem := rfl
@[simp] theorem State.notify_out (s : State) (p : Nat) (n : Notice) : (s.notify p n).out = s.out := rfl
@[simp] theorem State.notify_heldEv (s : State) (p : Nat) (n : Notice) : (s.notify p n).heldEv = s.heldEv := rfl
@[simp] theorem State.notify_heldLost (s : State) (p : Nat) (n : Notice) : (s.notify p n).heldLost = s.heldLost := rfl
@[simp] theorem State.notify_evOpen (s : State) (p : Nat) (n : Notice) : (s.notify p n).evOpen = s.evOpen := rfl
@[simp] theorem State.notify_funcs (s : State) (p : Nat) (n : Notice) : (s.notify p n).funcs = s.funcs := rfl
@[simp] theorem State.notify_vfEnable (s : State) (p : Nat) (n : Notice) : (s.notify p n).vfEnable = s.vfEnable := rfl
@[simp] theorem State.notify_jobs (s : State) (p : Nat) (n : Notice) : (s.notify p n).jobs = s.jobs := rfl
@[simp] theorem State.notify_cmds (s : State) (p : Nat) (n : Notice) : (s.notify p n).cmds = s.cmds := rfl
@[simp] theorem State.notify_mes (s : State) (p : Nat) (n : Notice) : (s.notify p n).mes = s.mes := rfl
@[simp] theorem State.notify_lanes (s : State) (p : Nat) (n : Notice) : (s.notify p n).lanes = s.lanes := rfl
@[simp] theorem State.notify_holders (s : State) (p : Nat) (n : Notice) : (s.notify p n).holders = s.holders := rfl
@[simp] theorem State.notify_grants (s : State) (p : Nat) (n : Notice) : (s.notify p n).grants = s.grants := rfl
@[simp] theorem State.notify_yielded (s : State) (p : Nat) (n : Notice) : (s.notify p n).yielded = s.yielded := rfl
@[simp] theorem State.notify_gcs (s : State) (p : Nat) (n : Notice) : (s.notify p n).gcs = s.gcs := rfl
@[simp] theorem State.notify_gcIn (s : State) (p : Nat) (n : Notice) : (s.notify p n).gcIn = s.gcIn := rfl
@[simp] theorem State.notify_exchs (s : State) (p : Nat) (n : Notice) : (s.notify p n).exchs = s.exchs := rfl
@[simp] theorem State.notify_exchDone (s : State) (p : Nat) (n : Notice) : (s.notify p n).exchDone = s.exchDone := rfl
@[simp] theorem State.notify_parcels (s : State) (p : Nat) (n : Notice) : (s.notify p n).parcels = s.parcels := rfl
@[simp] theorem State.notify_xallocs (s : State) (p : Nat) (n : Notice) : (s.notify p n).xallocs = s.xallocs := rfl
@[simp] theorem State.notify_xsends (s : State) (p : Nat) (n : Notice) : (s.notify p n).xsends = s.xsends := rfl
@[simp] theorem State.notify_recTypes (s : State) (p : Nat) (n : Notice) : (s.notify p n).recTypes = s.recTypes := rfl
@[simp] theorem State.notify_chainIn (s : State) (p : Nat) (n : Notice) : (s.notify p n).chainIn = s.chainIn := rfl
@[simp] theorem State.notify_changes (s : State) (p : Nat) (n : Notice) : (s.notify p n).changes = s.changes := rfl
@[simp] theorem State.notify_pools (s : State) (p : Nat) (n : Notice) : (s.notify p n).pools = s.pools := rfl
@[simp] theorem State.notify_buckets (s : State) (p : Nat) (n : Notice) : (s.notify p n).buckets = s.buckets := rfl
@[simp] theorem State.notify_rgLast (s : State) (p : Nat) (n : Notice) : (s.notify p n).rgLast = s.rgLast := rfl
@[simp] theorem State.notify_fabric (s : State) (p : Nat) (n : Notice) : (s.notify p n).fabric = s.fabric := rfl
@[simp] theorem State.notify_power (s : State) (p : Nat) (n : Notice) : (s.notify p n).power = s.power := rfl
@[simp] theorem State.notify_boot (s : State) (p : Nat) (n : Notice) : (s.notify p n).boot = s.boot := rfl
@[simp] theorem State.notify_mgmt (s : State) (p : Nat) (n : Notice) : (s.notify p n).mgmt = s.mgmt := rfl
@[simp] theorem State.notify_pins (s : State) (p : Nat) (n : Notice) : (s.notify p n).pins = s.pins := rfl
@[simp] theorem State.notify_timeSub (s : State) (p : Nat) (n : Notice) : (s.notify p n).timeSub = s.timeSub := rfl
@[simp] theorem State.notify_meSub (s : State) (p : Nat) (n : Notice) : (s.notify p n).meSub = s.meSub := rfl
@[simp] theorem State.notify_ppsErr (s : State) (p : Nat) (n : Notice) : (s.notify p n).ppsErr = s.ppsErr := rfl

/-! ### endCmd -/

@[simp] theorem State.endCmd_pending (s : State) (c : CmdId) (st d : Nat) (b : Bool) : (s.endCmd c st d b).pending = s.pending := by unfold State.endCmd; split <;> first | rfl | exact s.boundsNote_pending c.p st d b
@[simp] theorem State.endCmd_mem (s : State) (c : CmdId) (st d : Nat) (b : Bool) : (s.endCmd c st d b).mem = s.mem := by unfold State.endCmd; split <;> first | rfl | exact s.boundsNote_mem c.p st d b
@[simp] theorem State.endCmd_hostMem (s : State) (c : CmdId) (st d : Nat) (b : Bool) : (s.endCmd c st d b).hostMem = s.hostMem := by unfold State.endCmd; split <;> first | rfl | exact s.boundsNote_hostMem c.p st d b
@[simp] theorem State.endCmd_out (s : State) (c : CmdId) (st d : Nat) (b : Bool) : (s.endCmd c st d b).out = s.out := by unfold State.endCmd; split <;> first | rfl | exact s.boundsNote_out c.p st d b
@[simp] theorem State.endCmd_heldEv (s : State) (c : CmdId) (st d : Nat) (b : Bool) : (s.endCmd c st d b).heldEv = s.heldEv := by unfold State.endCmd; split <;> first | rfl | exact s.boundsNote_heldEv c.p st d b
@[simp] theorem State.endCmd_heldLost (s : State) (c : CmdId) (st d : Nat) (b : Bool) : (s.endCmd c st d b).heldLost = s.heldLost := by unfold State.endCmd; split <;> first | rfl | exact s.boundsNote_heldLost c.p st d b
@[simp] theorem State.endCmd_evOpen (s : State) (c : CmdId) (st d : Nat) (b : Bool) : (s.endCmd c st d b).evOpen = s.evOpen := by unfold State.endCmd; split <;> first | rfl | exact s.boundsNote_evOpen c.p st d b
@[simp] theorem State.endCmd_funcs (s : State) (c : CmdId) (st d : Nat) (b : Bool) : (s.endCmd c st d b).funcs = s.funcs := by unfold State.endCmd; split <;> first | rfl | exact s.boundsNote_funcs c.p st d b
@[simp] theorem State.endCmd_vfEnable (s : State) (c : CmdId) (st d : Nat) (b : Bool) : (s.endCmd c st d b).vfEnable = s.vfEnable := by unfold State.endCmd; split <;> first | rfl | exact s.boundsNote_vfEnable c.p st d b
@[simp] theorem State.endCmd_jobs (s : State) (c : CmdId) (st d : Nat) (b : Bool) : (s.endCmd c st d b).jobs = s.jobs := by unfold State.endCmd; split <;> first | rfl | exact s.boundsNote_jobs c.p st d b
@[simp] theorem State.endCmd_mes (s : State) (c : CmdId) (st d : Nat) (b : Bool) : (s.endCmd c st d b).mes = s.mes := by unfold State.endCmd; split <;> first | rfl | exact s.boundsNote_mes c.p st d b
@[simp] theorem State.endCmd_lanes (s : State) (c : CmdId) (st d : Nat) (b : Bool) : (s.endCmd c st d b).lanes = s.lanes := by unfold State.endCmd; split <;> first | rfl | exact s.boundsNote_lanes c.p st d b
@[simp] theorem State.endCmd_holders (s : State) (c : CmdId) (st d : Nat) (b : Bool) : (s.endCmd c st d b).holders = s.holders := by unfold State.endCmd; split <;> first | rfl | exact s.boundsNote_holders c.p st d b
@[simp] theorem State.endCmd_grants (s : State) (c : CmdId) (st d : Nat) (b : Bool) : (s.endCmd c st d b).grants = s.grants := by unfold State.endCmd; split <;> first | rfl | exact s.boundsNote_grants c.p st d b
@[simp] theorem State.endCmd_yielded (s : State) (c : CmdId) (st d : Nat) (b : Bool) : (s.endCmd c st d b).yielded = s.yielded := by unfold State.endCmd; split <;> first | rfl | exact s.boundsNote_yielded c.p st d b
@[simp] theorem State.endCmd_gcs (s : State) (c : CmdId) (st d : Nat) (b : Bool) : (s.endCmd c st d b).gcs = s.gcs := by unfold State.endCmd; split <;> first | rfl | exact s.boundsNote_gcs c.p st d b
@[simp] theorem State.endCmd_gcIn (s : State) (c : CmdId) (st d : Nat) (b : Bool) : (s.endCmd c st d b).gcIn = s.gcIn := by unfold State.endCmd; split <;> first | rfl | exact s.boundsNote_gcIn c.p st d b
@[simp] theorem State.endCmd_exchs (s : State) (c : CmdId) (st d : Nat) (b : Bool) : (s.endCmd c st d b).exchs = s.exchs := by unfold State.endCmd; split <;> first | rfl | exact s.boundsNote_exchs c.p st d b
@[simp] theorem State.endCmd_exchDone (s : State) (c : CmdId) (st d : Nat) (b : Bool) : (s.endCmd c st d b).exchDone = s.exchDone := by unfold State.endCmd; split <;> first | rfl | exact s.boundsNote_exchDone c.p st d b
@[simp] theorem State.endCmd_parcels (s : State) (c : CmdId) (st d : Nat) (b : Bool) : (s.endCmd c st d b).parcels = s.parcels := by unfold State.endCmd; split <;> first | rfl | exact s.boundsNote_parcels c.p st d b
@[simp] theorem State.endCmd_xallocs (s : State) (c : CmdId) (st d : Nat) (b : Bool) : (s.endCmd c st d b).xallocs = s.xallocs := by unfold State.endCmd; split <;> first | rfl | exact s.boundsNote_xallocs c.p st d b
@[simp] theorem State.endCmd_xsends (s : State) (c : CmdId) (st d : Nat) (b : Bool) : (s.endCmd c st d b).xsends = s.xsends := by unfold State.endCmd; split <;> first | rfl | exact s.boundsNote_xsends c.p st d b
@[simp] theorem State.endCmd_recTypes (s : State) (c : CmdId) (st d : Nat) (b : Bool) : (s.endCmd c st d b).recTypes = s.recTypes := by unfold State.endCmd; split <;> first | rfl | exact s.boundsNote_recTypes c.p st d b
@[simp] theorem State.endCmd_chainIn (s : State) (c : CmdId) (st d : Nat) (b : Bool) : (s.endCmd c st d b).chainIn = s.chainIn := by unfold State.endCmd; split <;> first | rfl | exact s.boundsNote_chainIn c.p st d b
@[simp] theorem State.endCmd_changes (s : State) (c : CmdId) (st d : Nat) (b : Bool) : (s.endCmd c st d b).changes = s.changes := by unfold State.endCmd; split <;> first | rfl | exact s.boundsNote_changes c.p st d b
@[simp] theorem State.endCmd_pools (s : State) (c : CmdId) (st d : Nat) (b : Bool) : (s.endCmd c st d b).pools = s.pools := by unfold State.endCmd; split <;> first | rfl | exact s.boundsNote_pools c.p st d b
@[simp] theorem State.endCmd_buckets (s : State) (c : CmdId) (st d : Nat) (b : Bool) : (s.endCmd c st d b).buckets = s.buckets := by unfold State.endCmd; split <;> first | rfl | exact s.boundsNote_buckets c.p st d b
@[simp] theorem State.endCmd_rgLast (s : State) (c : CmdId) (st d : Nat) (b : Bool) : (s.endCmd c st d b).rgLast = s.rgLast := by unfold State.endCmd; split <;> first | rfl | exact s.boundsNote_rgLast c.p st d b
@[simp] theorem State.endCmd_fabric (s : State) (c : CmdId) (st d : Nat) (b : Bool) : (s.endCmd c st d b).fabric = s.fabric := by unfold State.endCmd; split <;> first | rfl | exact s.boundsNote_fabric c.p st d b
@[simp] theorem State.endCmd_power (s : State) (c : CmdId) (st d : Nat) (b : Bool) : (s.endCmd c st d b).power = s.power := by unfold State.endCmd; split <;> first | rfl | exact s.boundsNote_power c.p st d b
@[simp] theorem State.endCmd_boot (s : State) (c : CmdId) (st d : Nat) (b : Bool) : (s.endCmd c st d b).boot = s.boot := by unfold State.endCmd; split <;> first | rfl | exact s.boundsNote_boot c.p st d b
@[simp] theorem State.endCmd_mgmt (s : State) (c : CmdId) (st d : Nat) (b : Bool) : (s.endCmd c st d b).mgmt = s.mgmt := by unfold State.endCmd; split <;> first | rfl | exact s.boundsNote_mgmt c.p st d b
@[simp] theorem State.endCmd_pins (s : State) (c : CmdId) (st d : Nat) (b : Bool) : (s.endCmd c st d b).pins = s.pins := by unfold State.endCmd; split <;> first | rfl | exact s.boundsNote_pins c.p st d b
@[simp] theorem State.endCmd_timeSub (s : State) (c : CmdId) (st d : Nat) (b : Bool) : (s.endCmd c st d b).timeSub = s.timeSub := by unfold State.endCmd; split <;> first | rfl | exact s.boundsNote_timeSub c.p st d b
@[simp] theorem State.endCmd_meSub (s : State) (c : CmdId) (st d : Nat) (b : Bool) : (s.endCmd c st d b).meSub = s.meSub := by unfold State.endCmd; split <;> first | rfl | exact s.boundsNote_meSub c.p st d b
@[simp] theorem State.endCmd_ppsErr (s : State) (c : CmdId) (st d : Nat) (b : Bool) : (s.endCmd c st d b).ppsErr = s.ppsErr := by unfold State.endCmd; split <;> first | rfl | exact s.boundsNote_ppsErr c.p st d b

/-! ### noteFail -/

@[simp] theorem State.noteFail_pending (s : State) (c : CmdId) (x : Failure) : (s.noteFail c x).pending = s.pending := s.boundsNote_pending c.p x.status x.detail.toNat x.dform
@[simp] theorem State.noteFail_mem (s : State) (c : CmdId) (x : Failure) : (s.noteFail c x).mem = s.mem := s.boundsNote_mem c.p x.status x.detail.toNat x.dform
@[simp] theorem State.noteFail_prot (s : State) (c : CmdId) (x : Failure) : (s.noteFail c x).prot = s.prot := s.boundsNote_prot c.p x.status x.detail.toNat x.dform
@[simp] theorem State.noteFail_hostMem (s : State) (c : CmdId) (x : Failure) : (s.noteFail c x).hostMem = s.hostMem := s.boundsNote_hostMem c.p x.status x.detail.toNat x.dform
@[simp] theorem State.noteFail_out (s : State) (c : CmdId) (x : Failure) : (s.noteFail c x).out = s.out := s.boundsNote_out c.p x.status x.detail.toNat x.dform
@[simp] theorem State.noteFail_heldEv (s : State) (c : CmdId) (x : Failure) : (s.noteFail c x).heldEv = s.heldEv := s.boundsNote_heldEv c.p x.status x.detail.toNat x.dform
@[simp] theorem State.noteFail_heldLost (s : State) (c : CmdId) (x : Failure) : (s.noteFail c x).heldLost = s.heldLost := s.boundsNote_heldLost c.p x.status x.detail.toNat x.dform
@[simp] theorem State.noteFail_evOpen (s : State) (c : CmdId) (x : Failure) : (s.noteFail c x).evOpen = s.evOpen := s.boundsNote_evOpen c.p x.status x.detail.toNat x.dform
@[simp] theorem State.noteFail_funcs (s : State) (c : CmdId) (x : Failure) : (s.noteFail c x).funcs = s.funcs := s.boundsNote_funcs c.p x.status x.detail.toNat x.dform
@[simp] theorem State.noteFail_vfEnable (s : State) (c : CmdId) (x : Failure) : (s.noteFail c x).vfEnable = s.vfEnable := s.boundsNote_vfEnable c.p x.status x.detail.toNat x.dform
@[simp] theorem State.noteFail_jobs (s : State) (c : CmdId) (x : Failure) : (s.noteFail c x).jobs = s.jobs := s.boundsNote_jobs c.p x.status x.detail.toNat x.dform
@[simp] theorem State.noteFail_mes (s : State) (c : CmdId) (x : Failure) : (s.noteFail c x).mes = s.mes := s.boundsNote_mes c.p x.status x.detail.toNat x.dform
@[simp] theorem State.noteFail_lanes (s : State) (c : CmdId) (x : Failure) : (s.noteFail c x).lanes = s.lanes := s.boundsNote_lanes c.p x.status x.detail.toNat x.dform
@[simp] theorem State.noteFail_holders (s : State) (c : CmdId) (x : Failure) : (s.noteFail c x).holders = s.holders := s.boundsNote_holders c.p x.status x.detail.toNat x.dform
@[simp] theorem State.noteFail_grants (s : State) (c : CmdId) (x : Failure) : (s.noteFail c x).grants = s.grants := s.boundsNote_grants c.p x.status x.detail.toNat x.dform
@[simp] theorem State.noteFail_yielded (s : State) (c : CmdId) (x : Failure) : (s.noteFail c x).yielded = s.yielded := s.boundsNote_yielded c.p x.status x.detail.toNat x.dform
@[simp] theorem State.noteFail_gcs (s : State) (c : CmdId) (x : Failure) : (s.noteFail c x).gcs = s.gcs := s.boundsNote_gcs c.p x.status x.detail.toNat x.dform
@[simp] theorem State.noteFail_gcIn (s : State) (c : CmdId) (x : Failure) : (s.noteFail c x).gcIn = s.gcIn := s.boundsNote_gcIn c.p x.status x.detail.toNat x.dform
@[simp] theorem State.noteFail_exchs (s : State) (c : CmdId) (x : Failure) : (s.noteFail c x).exchs = s.exchs := s.boundsNote_exchs c.p x.status x.detail.toNat x.dform
@[simp] theorem State.noteFail_exchDone (s : State) (c : CmdId) (x : Failure) : (s.noteFail c x).exchDone = s.exchDone := s.boundsNote_exchDone c.p x.status x.detail.toNat x.dform
@[simp] theorem State.noteFail_parcels (s : State) (c : CmdId) (x : Failure) : (s.noteFail c x).parcels = s.parcels := s.boundsNote_parcels c.p x.status x.detail.toNat x.dform
@[simp] theorem State.noteFail_xallocs (s : State) (c : CmdId) (x : Failure) : (s.noteFail c x).xallocs = s.xallocs := s.boundsNote_xallocs c.p x.status x.detail.toNat x.dform
@[simp] theorem State.noteFail_xsends (s : State) (c : CmdId) (x : Failure) : (s.noteFail c x).xsends = s.xsends := s.boundsNote_xsends c.p x.status x.detail.toNat x.dform
@[simp] theorem State.noteFail_recTypes (s : State) (c : CmdId) (x : Failure) : (s.noteFail c x).recTypes = s.recTypes := s.boundsNote_recTypes c.p x.status x.detail.toNat x.dform
@[simp] theorem State.noteFail_chainIn (s : State) (c : CmdId) (x : Failure) : (s.noteFail c x).chainIn = s.chainIn := s.boundsNote_chainIn c.p x.status x.detail.toNat x.dform
@[simp] theorem State.noteFail_changes (s : State) (c : CmdId) (x : Failure) : (s.noteFail c x).changes = s.changes := s.boundsNote_changes c.p x.status x.detail.toNat x.dform
@[simp] theorem State.noteFail_pools (s : State) (c : CmdId) (x : Failure) : (s.noteFail c x).pools = s.pools := s.boundsNote_pools c.p x.status x.detail.toNat x.dform
@[simp] theorem State.noteFail_buckets (s : State) (c : CmdId) (x : Failure) : (s.noteFail c x).buckets = s.buckets := s.boundsNote_buckets c.p x.status x.detail.toNat x.dform
@[simp] theorem State.noteFail_rgLast (s : State) (c : CmdId) (x : Failure) : (s.noteFail c x).rgLast = s.rgLast := s.boundsNote_rgLast c.p x.status x.detail.toNat x.dform
@[simp] theorem State.noteFail_fabric (s : State) (c : CmdId) (x : Failure) : (s.noteFail c x).fabric = s.fabric := s.boundsNote_fabric c.p x.status x.detail.toNat x.dform
@[simp] theorem State.noteFail_keeper (s : State) (c : CmdId) (x : Failure) : (s.noteFail c x).keeper = s.keeper := s.boundsNote_keeper c.p x.status x.detail.toNat x.dform
@[simp] theorem State.noteFail_power (s : State) (c : CmdId) (x : Failure) : (s.noteFail c x).power = s.power := s.boundsNote_power c.p x.status x.detail.toNat x.dform
@[simp] theorem State.noteFail_boot (s : State) (c : CmdId) (x : Failure) : (s.noteFail c x).boot = s.boot := s.boundsNote_boot c.p x.status x.detail.toNat x.dform
@[simp] theorem State.noteFail_mgmt (s : State) (c : CmdId) (x : Failure) : (s.noteFail c x).mgmt = s.mgmt := s.boundsNote_mgmt c.p x.status x.detail.toNat x.dform
@[simp] theorem State.noteFail_pins (s : State) (c : CmdId) (x : Failure) : (s.noteFail c x).pins = s.pins := s.boundsNote_pins c.p x.status x.detail.toNat x.dform
@[simp] theorem State.noteFail_timeSub (s : State) (c : CmdId) (x : Failure) : (s.noteFail c x).timeSub = s.timeSub := s.boundsNote_timeSub c.p x.status x.detail.toNat x.dform
@[simp] theorem State.noteFail_meSub (s : State) (c : CmdId) (x : Failure) : (s.noteFail c x).meSub = s.meSub := s.boundsNote_meSub c.p x.status x.detail.toNat x.dform
@[simp] theorem State.noteFail_ppsErr (s : State) (c : CmdId) (x : Failure) : (s.noteFail c x).ppsErr = s.ppsErr := s.boundsNote_ppsErr c.p x.status x.detail.toNat x.dform

/-! ### takeFlit -/

@[simp] theorem State.takeFlit_pending (s : State) (c : CmdId) : (s.takeFlit c).pending = s.pending := by unfold State.takeFlit; split <;> rfl
@[simp] theorem State.takeFlit_regs (s : State) (c : CmdId) : (s.takeFlit c).regs = s.regs := by unfold State.takeFlit; split <;> rfl
@[simp] theorem State.takeFlit_mem (s : State) (c : CmdId) : (s.takeFlit c).mem = s.mem := by unfold State.takeFlit; split <;> rfl
@[simp] theorem State.takeFlit_hostMem (s : State) (c : CmdId) : (s.takeFlit c).hostMem = s.hostMem := by unfold State.takeFlit; split <;> rfl
@[simp] theorem State.takeFlit_out (s : State) (c : CmdId) : (s.takeFlit c).out = s.out := by unfold State.takeFlit; split <;> rfl
@[simp] theorem State.takeFlit_heldEv (s : State) (c : CmdId) : (s.takeFlit c).heldEv = s.heldEv := by unfold State.takeFlit; split <;> rfl
@[simp] theorem State.takeFlit_heldLost (s : State) (c : CmdId) : (s.takeFlit c).heldLost = s.heldLost := by unfold State.takeFlit; split <;> rfl
@[simp] theorem State.takeFlit_evOpen (s : State) (c : CmdId) : (s.takeFlit c).evOpen = s.evOpen := by unfold State.takeFlit; split <;> rfl
@[simp] theorem State.takeFlit_funcs (s : State) (c : CmdId) : (s.takeFlit c).funcs = s.funcs := by unfold State.takeFlit; split <;> rfl
@[simp] theorem State.takeFlit_vfEnable (s : State) (c : CmdId) : (s.takeFlit c).vfEnable = s.vfEnable := by unfold State.takeFlit; split <;> rfl
@[simp] theorem State.takeFlit_jobs (s : State) (c : CmdId) : (s.takeFlit c).jobs = s.jobs := by unfold State.takeFlit; split <;> rfl
@[simp] theorem State.takeFlit_mes (s : State) (c : CmdId) : (s.takeFlit c).mes = s.mes := by unfold State.takeFlit; split <;> rfl
@[simp] theorem State.takeFlit_lanes (s : State) (c : CmdId) : (s.takeFlit c).lanes = s.lanes := by unfold State.takeFlit; split <;> rfl
@[simp] theorem State.takeFlit_holders (s : State) (c : CmdId) : (s.takeFlit c).holders = s.holders := by unfold State.takeFlit; split <;> rfl
@[simp] theorem State.takeFlit_grants (s : State) (c : CmdId) : (s.takeFlit c).grants = s.grants := by unfold State.takeFlit; split <;> rfl
@[simp] theorem State.takeFlit_yielded (s : State) (c : CmdId) : (s.takeFlit c).yielded = s.yielded := by unfold State.takeFlit; split <;> rfl
@[simp] theorem State.takeFlit_gcs (s : State) (c : CmdId) : (s.takeFlit c).gcs = s.gcs := by unfold State.takeFlit; split <;> rfl
@[simp] theorem State.takeFlit_gcIn (s : State) (c : CmdId) : (s.takeFlit c).gcIn = s.gcIn := by unfold State.takeFlit; split <;> rfl
@[simp] theorem State.takeFlit_exchs (s : State) (c : CmdId) : (s.takeFlit c).exchs = s.exchs := by unfold State.takeFlit; split <;> rfl
@[simp] theorem State.takeFlit_exchDone (s : State) (c : CmdId) : (s.takeFlit c).exchDone = s.exchDone := by unfold State.takeFlit; split <;> rfl
@[simp] theorem State.takeFlit_parcels (s : State) (c : CmdId) : (s.takeFlit c).parcels = s.parcels := by unfold State.takeFlit; split <;> rfl
@[simp] theorem State.takeFlit_xallocs (s : State) (c : CmdId) : (s.takeFlit c).xallocs = s.xallocs := by unfold State.takeFlit; split <;> rfl
@[simp] theorem State.takeFlit_xsends (s : State) (c : CmdId) : (s.takeFlit c).xsends = s.xsends := by unfold State.takeFlit; split <;> rfl
@[simp] theorem State.takeFlit_recTypes (s : State) (c : CmdId) : (s.takeFlit c).recTypes = s.recTypes := by unfold State.takeFlit; split <;> rfl
@[simp] theorem State.takeFlit_chainIn (s : State) (c : CmdId) : (s.takeFlit c).chainIn = s.chainIn := by unfold State.takeFlit; split <;> rfl
@[simp] theorem State.takeFlit_changes (s : State) (c : CmdId) : (s.takeFlit c).changes = s.changes := by unfold State.takeFlit; split <;> rfl
@[simp] theorem State.takeFlit_pools (s : State) (c : CmdId) : (s.takeFlit c).pools = s.pools := by unfold State.takeFlit; split <;> rfl
@[simp] theorem State.takeFlit_buckets (s : State) (c : CmdId) : (s.takeFlit c).buckets = s.buckets := by unfold State.takeFlit; split <;> rfl
@[simp] theorem State.takeFlit_rgLast (s : State) (c : CmdId) : (s.takeFlit c).rgLast = s.rgLast := by unfold State.takeFlit; split <;> rfl
@[simp] theorem State.takeFlit_fabric (s : State) (c : CmdId) : (s.takeFlit c).fabric = s.fabric := by unfold State.takeFlit; split <;> rfl
@[simp] theorem State.takeFlit_power (s : State) (c : CmdId) : (s.takeFlit c).power = s.power := by unfold State.takeFlit; split <;> rfl
@[simp] theorem State.takeFlit_boot (s : State) (c : CmdId) : (s.takeFlit c).boot = s.boot := by unfold State.takeFlit; split <;> rfl
@[simp] theorem State.takeFlit_mgmt (s : State) (c : CmdId) : (s.takeFlit c).mgmt = s.mgmt := by unfold State.takeFlit; split <;> rfl
@[simp] theorem State.takeFlit_pins (s : State) (c : CmdId) : (s.takeFlit c).pins = s.pins := by unfold State.takeFlit; split <;> rfl
@[simp] theorem State.takeFlit_timeSub (s : State) (c : CmdId) : (s.takeFlit c).timeSub = s.timeSub := by unfold State.takeFlit; split <;> rfl
@[simp] theorem State.takeFlit_meSub (s : State) (c : CmdId) : (s.takeFlit c).meSub = s.meSub := by unfold State.takeFlit; split <;> rfl
@[simp] theorem State.takeFlit_ppsErr (s : State) (c : CmdId) : (s.takeFlit c).ppsErr = s.ppsErr := by unfold State.takeFlit; split <;> rfl

/-! ### issued -/

@[simp] theorem State.issued_pending (s : State) (c : CmdId) (n : Nat) : (s.issued c n).pending = s.pending := s.takeFlit_pending c
@[simp] theorem State.issued_regs (s : State) (c : CmdId) (n : Nat) : (s.issued c n).regs = s.regs := s.takeFlit_regs c
@[simp] theorem State.issued_mem (s : State) (c : CmdId) (n : Nat) : (s.issued c n).mem = s.mem := s.takeFlit_mem c
@[simp] theorem State.issued_hostMem (s : State) (c : CmdId) (n : Nat) : (s.issued c n).hostMem = s.hostMem := s.takeFlit_hostMem c
@[simp] theorem State.issued_out (s : State) (c : CmdId) (n : Nat) : (s.issued c n).out = s.out := s.takeFlit_out c
@[simp] theorem State.issued_heldEv (s : State) (c : CmdId) (n : Nat) : (s.issued c n).heldEv = s.heldEv := s.takeFlit_heldEv c
@[simp] theorem State.issued_heldLost (s : State) (c : CmdId) (n : Nat) : (s.issued c n).heldLost = s.heldLost := s.takeFlit_heldLost c
@[simp] theorem State.issued_evOpen (s : State) (c : CmdId) (n : Nat) : (s.issued c n).evOpen = s.evOpen := s.takeFlit_evOpen c
@[simp] theorem State.issued_funcs (s : State) (c : CmdId) (n : Nat) : (s.issued c n).funcs = s.funcs := s.takeFlit_funcs c
@[simp] theorem State.issued_vfEnable (s : State) (c : CmdId) (n : Nat) : (s.issued c n).vfEnable = s.vfEnable := s.takeFlit_vfEnable c
@[simp] theorem State.issued_jobs (s : State) (c : CmdId) (n : Nat) : (s.issued c n).jobs = s.jobs := s.takeFlit_jobs c
@[simp] theorem State.issued_mes (s : State) (c : CmdId) (n : Nat) : (s.issued c n).mes = s.mes := s.takeFlit_mes c
@[simp] theorem State.issued_lanes (s : State) (c : CmdId) (n : Nat) : (s.issued c n).lanes = s.lanes := s.takeFlit_lanes c
@[simp] theorem State.issued_holders (s : State) (c : CmdId) (n : Nat) : (s.issued c n).holders = s.holders := s.takeFlit_holders c
@[simp] theorem State.issued_grants (s : State) (c : CmdId) (n : Nat) : (s.issued c n).grants = s.grants := s.takeFlit_grants c
@[simp] theorem State.issued_yielded (s : State) (c : CmdId) (n : Nat) : (s.issued c n).yielded = s.yielded := s.takeFlit_yielded c
@[simp] theorem State.issued_gcs (s : State) (c : CmdId) (n : Nat) : (s.issued c n).gcs = s.gcs := s.takeFlit_gcs c
@[simp] theorem State.issued_gcIn (s : State) (c : CmdId) (n : Nat) : (s.issued c n).gcIn = s.gcIn := s.takeFlit_gcIn c
@[simp] theorem State.issued_exchs (s : State) (c : CmdId) (n : Nat) : (s.issued c n).exchs = s.exchs := s.takeFlit_exchs c
@[simp] theorem State.issued_exchDone (s : State) (c : CmdId) (n : Nat) : (s.issued c n).exchDone = s.exchDone := s.takeFlit_exchDone c
@[simp] theorem State.issued_parcels (s : State) (c : CmdId) (n : Nat) : (s.issued c n).parcels = s.parcels := s.takeFlit_parcels c
@[simp] theorem State.issued_xallocs (s : State) (c : CmdId) (n : Nat) : (s.issued c n).xallocs = s.xallocs := s.takeFlit_xallocs c
@[simp] theorem State.issued_xsends (s : State) (c : CmdId) (n : Nat) : (s.issued c n).xsends = s.xsends := s.takeFlit_xsends c
@[simp] theorem State.issued_recTypes (s : State) (c : CmdId) (n : Nat) : (s.issued c n).recTypes = s.recTypes := s.takeFlit_recTypes c
@[simp] theorem State.issued_chainIn (s : State) (c : CmdId) (n : Nat) : (s.issued c n).chainIn = s.chainIn := s.takeFlit_chainIn c
@[simp] theorem State.issued_changes (s : State) (c : CmdId) (n : Nat) : (s.issued c n).changes = s.changes := s.takeFlit_changes c
@[simp] theorem State.issued_pools (s : State) (c : CmdId) (n : Nat) : (s.issued c n).pools = s.pools := s.takeFlit_pools c
@[simp] theorem State.issued_buckets (s : State) (c : CmdId) (n : Nat) : (s.issued c n).buckets = s.buckets := s.takeFlit_buckets c
@[simp] theorem State.issued_rgLast (s : State) (c : CmdId) (n : Nat) : (s.issued c n).rgLast = s.rgLast := s.takeFlit_rgLast c
@[simp] theorem State.issued_fabric (s : State) (c : CmdId) (n : Nat) : (s.issued c n).fabric = s.fabric := s.takeFlit_fabric c
@[simp] theorem State.issued_power (s : State) (c : CmdId) (n : Nat) : (s.issued c n).power = s.power := s.takeFlit_power c
@[simp] theorem State.issued_boot (s : State) (c : CmdId) (n : Nat) : (s.issued c n).boot = s.boot := s.takeFlit_boot c
@[simp] theorem State.issued_mgmt (s : State) (c : CmdId) (n : Nat) : (s.issued c n).mgmt = s.mgmt := s.takeFlit_mgmt c
@[simp] theorem State.issued_pins (s : State) (c : CmdId) (n : Nat) : (s.issued c n).pins = s.pins := s.takeFlit_pins c
@[simp] theorem State.issued_timeSub (s : State) (c : CmdId) (n : Nat) : (s.issued c n).timeSub = s.timeSub := s.takeFlit_timeSub c
@[simp] theorem State.issued_meSub (s : State) (c : CmdId) (n : Nat) : (s.issued c n).meSub = s.meSub := s.takeFlit_meSub c
@[simp] theorem State.issued_ppsErr (s : State) (c : CmdId) (n : Nat) : (s.issued c n).ppsErr = s.ppsErr := s.takeFlit_ppsErr c

/-! ### pieceDone -/

@[simp] theorem State.pieceDone_pending (s : State) (c : CmdId) : (s.pieceDone c).pending = s.pending := s.takeFlit_pending c
@[simp] theorem State.pieceDone_regs (s : State) (c : CmdId) : (s.pieceDone c).regs = s.regs := s.takeFlit_regs c
@[simp] theorem State.pieceDone_mem (s : State) (c : CmdId) : (s.pieceDone c).mem = s.mem := s.takeFlit_mem c
@[simp] theorem State.pieceDone_hostMem (s : State) (c : CmdId) : (s.pieceDone c).hostMem = s.hostMem := s.takeFlit_hostMem c
@[simp] theorem State.pieceDone_out (s : State) (c : CmdId) : (s.pieceDone c).out = s.out := s.takeFlit_out c
@[simp] theorem State.pieceDone_heldEv (s : State) (c : CmdId) : (s.pieceDone c).heldEv = s.heldEv := s.takeFlit_heldEv c
@[simp] theorem State.pieceDone_heldLost (s : State) (c : CmdId) : (s.pieceDone c).heldLost = s.heldLost := s.takeFlit_heldLost c
@[simp] theorem State.pieceDone_evOpen (s : State) (c : CmdId) : (s.pieceDone c).evOpen = s.evOpen := s.takeFlit_evOpen c
@[simp] theorem State.pieceDone_funcs (s : State) (c : CmdId) : (s.pieceDone c).funcs = s.funcs := s.takeFlit_funcs c
@[simp] theorem State.pieceDone_vfEnable (s : State) (c : CmdId) : (s.pieceDone c).vfEnable = s.vfEnable := s.takeFlit_vfEnable c
@[simp] theorem State.pieceDone_jobs (s : State) (c : CmdId) : (s.pieceDone c).jobs = s.jobs := s.takeFlit_jobs c
@[simp] theorem State.pieceDone_mes (s : State) (c : CmdId) : (s.pieceDone c).mes = s.mes := s.takeFlit_mes c
@[simp] theorem State.pieceDone_lanes (s : State) (c : CmdId) : (s.pieceDone c).lanes = s.lanes := s.takeFlit_lanes c
@[simp] theorem State.pieceDone_holders (s : State) (c : CmdId) : (s.pieceDone c).holders = s.holders := s.takeFlit_holders c
@[simp] theorem State.pieceDone_grants (s : State) (c : CmdId) : (s.pieceDone c).grants = s.grants := s.takeFlit_grants c
@[simp] theorem State.pieceDone_yielded (s : State) (c : CmdId) : (s.pieceDone c).yielded = s.yielded := s.takeFlit_yielded c
@[simp] theorem State.pieceDone_gcs (s : State) (c : CmdId) : (s.pieceDone c).gcs = s.gcs := s.takeFlit_gcs c
@[simp] theorem State.pieceDone_gcIn (s : State) (c : CmdId) : (s.pieceDone c).gcIn = s.gcIn := s.takeFlit_gcIn c
@[simp] theorem State.pieceDone_exchs (s : State) (c : CmdId) : (s.pieceDone c).exchs = s.exchs := s.takeFlit_exchs c
@[simp] theorem State.pieceDone_exchDone (s : State) (c : CmdId) : (s.pieceDone c).exchDone = s.exchDone := s.takeFlit_exchDone c
@[simp] theorem State.pieceDone_parcels (s : State) (c : CmdId) : (s.pieceDone c).parcels = s.parcels := s.takeFlit_parcels c
@[simp] theorem State.pieceDone_xallocs (s : State) (c : CmdId) : (s.pieceDone c).xallocs = s.xallocs := s.takeFlit_xallocs c
@[simp] theorem State.pieceDone_xsends (s : State) (c : CmdId) : (s.pieceDone c).xsends = s.xsends := s.takeFlit_xsends c
@[simp] theorem State.pieceDone_recTypes (s : State) (c : CmdId) : (s.pieceDone c).recTypes = s.recTypes := s.takeFlit_recTypes c
@[simp] theorem State.pieceDone_chainIn (s : State) (c : CmdId) : (s.pieceDone c).chainIn = s.chainIn := s.takeFlit_chainIn c
@[simp] theorem State.pieceDone_changes (s : State) (c : CmdId) : (s.pieceDone c).changes = s.changes := s.takeFlit_changes c
@[simp] theorem State.pieceDone_pools (s : State) (c : CmdId) : (s.pieceDone c).pools = s.pools := s.takeFlit_pools c
@[simp] theorem State.pieceDone_buckets (s : State) (c : CmdId) : (s.pieceDone c).buckets = s.buckets := s.takeFlit_buckets c
@[simp] theorem State.pieceDone_rgLast (s : State) (c : CmdId) : (s.pieceDone c).rgLast = s.rgLast := s.takeFlit_rgLast c
@[simp] theorem State.pieceDone_fabric (s : State) (c : CmdId) : (s.pieceDone c).fabric = s.fabric := s.takeFlit_fabric c
@[simp] theorem State.pieceDone_power (s : State) (c : CmdId) : (s.pieceDone c).power = s.power := s.takeFlit_power c
@[simp] theorem State.pieceDone_boot (s : State) (c : CmdId) : (s.pieceDone c).boot = s.boot := s.takeFlit_boot c
@[simp] theorem State.pieceDone_mgmt (s : State) (c : CmdId) : (s.pieceDone c).mgmt = s.mgmt := s.takeFlit_mgmt c
@[simp] theorem State.pieceDone_pins (s : State) (c : CmdId) : (s.pieceDone c).pins = s.pins := s.takeFlit_pins c
@[simp] theorem State.pieceDone_timeSub (s : State) (c : CmdId) : (s.pieceDone c).timeSub = s.timeSub := s.takeFlit_timeSub c
@[simp] theorem State.pieceDone_meSub (s : State) (c : CmdId) : (s.pieceDone c).meSub = s.meSub := s.takeFlit_meSub c
@[simp] theorem State.pieceDone_ppsErr (s : State) (c : CmdId) : (s.pieceDone c).ppsErr = s.ppsErr := s.takeFlit_ppsErr c

/-! ### biteG -/

@[simp] theorem State.biteG_pending (s : State) (p : Part) (k : Nat) (g : W64) : (s.biteG p k g).pending = s.pending := s.raise_pending evPoisonConsumed (some p) g.toNat (Config.blockCode k)
@[simp] theorem State.biteG_mem (s : State) (p : Part) (k : Nat) (g : W64) : (s.biteG p k g).mem = s.mem := s.raise_mem evPoisonConsumed (some p) g.toNat (Config.blockCode k)
@[simp] theorem State.biteG_prot (s : State) (p : Part) (k : Nat) (g : W64) : (s.biteG p k g).prot = s.prot := s.raise_prot evPoisonConsumed (some p) g.toNat (Config.blockCode k)
@[simp] theorem State.biteG_evOpen (s : State) (p : Part) (k : Nat) (g : W64) : (s.biteG p k g).evOpen = s.evOpen := s.raise_evOpen evPoisonConsumed (some p) g.toNat (Config.blockCode k)
@[simp] theorem State.biteG_vfEnable (s : State) (p : Part) (k : Nat) (g : W64) : (s.biteG p k g).vfEnable = s.vfEnable := s.raise_vfEnable evPoisonConsumed (some p) g.toNat (Config.blockCode k)
@[simp] theorem State.biteG_jobs (s : State) (p : Part) (k : Nat) (g : W64) : (s.biteG p k g).jobs = s.jobs := s.raise_jobs evPoisonConsumed (some p) g.toNat (Config.blockCode k)
@[simp] theorem State.biteG_cmds (s : State) (p : Part) (k : Nat) (g : W64) : (s.biteG p k g).cmds = s.cmds := s.raise_cmds evPoisonConsumed (some p) g.toNat (Config.blockCode k)
@[simp] theorem State.biteG_mes (s : State) (p : Part) (k : Nat) (g : W64) : (s.biteG p k g).mes = s.mes := s.raise_mes evPoisonConsumed (some p) g.toNat (Config.blockCode k)
@[simp] theorem State.biteG_lanes (s : State) (p : Part) (k : Nat) (g : W64) : (s.biteG p k g).lanes = s.lanes := s.raise_lanes evPoisonConsumed (some p) g.toNat (Config.blockCode k)
@[simp] theorem State.biteG_holders (s : State) (p : Part) (k : Nat) (g : W64) : (s.biteG p k g).holders = s.holders := s.raise_holders evPoisonConsumed (some p) g.toNat (Config.blockCode k)
@[simp] theorem State.biteG_grants (s : State) (p : Part) (k : Nat) (g : W64) : (s.biteG p k g).grants = s.grants := s.raise_grants evPoisonConsumed (some p) g.toNat (Config.blockCode k)
@[simp] theorem State.biteG_yielded (s : State) (p : Part) (k : Nat) (g : W64) : (s.biteG p k g).yielded = s.yielded := s.raise_yielded evPoisonConsumed (some p) g.toNat (Config.blockCode k)
@[simp] theorem State.biteG_gcs (s : State) (p : Part) (k : Nat) (g : W64) : (s.biteG p k g).gcs = s.gcs := s.raise_gcs evPoisonConsumed (some p) g.toNat (Config.blockCode k)
@[simp] theorem State.biteG_gcIn (s : State) (p : Part) (k : Nat) (g : W64) : (s.biteG p k g).gcIn = s.gcIn := s.raise_gcIn evPoisonConsumed (some p) g.toNat (Config.blockCode k)
@[simp] theorem State.biteG_exchs (s : State) (p : Part) (k : Nat) (g : W64) : (s.biteG p k g).exchs = s.exchs := s.raise_exchs evPoisonConsumed (some p) g.toNat (Config.blockCode k)
@[simp] theorem State.biteG_exchDone (s : State) (p : Part) (k : Nat) (g : W64) : (s.biteG p k g).exchDone = s.exchDone := s.raise_exchDone evPoisonConsumed (some p) g.toNat (Config.blockCode k)
@[simp] theorem State.biteG_parcels (s : State) (p : Part) (k : Nat) (g : W64) : (s.biteG p k g).parcels = s.parcels := s.raise_parcels evPoisonConsumed (some p) g.toNat (Config.blockCode k)
@[simp] theorem State.biteG_xallocs (s : State) (p : Part) (k : Nat) (g : W64) : (s.biteG p k g).xallocs = s.xallocs := s.raise_xallocs evPoisonConsumed (some p) g.toNat (Config.blockCode k)
@[simp] theorem State.biteG_xsends (s : State) (p : Part) (k : Nat) (g : W64) : (s.biteG p k g).xsends = s.xsends := s.raise_xsends evPoisonConsumed (some p) g.toNat (Config.blockCode k)
@[simp] theorem State.biteG_recTypes (s : State) (p : Part) (k : Nat) (g : W64) : (s.biteG p k g).recTypes = s.recTypes := s.raise_recTypes evPoisonConsumed (some p) g.toNat (Config.blockCode k)
@[simp] theorem State.biteG_chainIn (s : State) (p : Part) (k : Nat) (g : W64) : (s.biteG p k g).chainIn = s.chainIn := s.raise_chainIn evPoisonConsumed (some p) g.toNat (Config.blockCode k)
@[simp] theorem State.biteG_changes (s : State) (p : Part) (k : Nat) (g : W64) : (s.biteG p k g).changes = s.changes := s.raise_changes evPoisonConsumed (some p) g.toNat (Config.blockCode k)
@[simp] theorem State.biteG_pools (s : State) (p : Part) (k : Nat) (g : W64) : (s.biteG p k g).pools = s.pools := s.raise_pools evPoisonConsumed (some p) g.toNat (Config.blockCode k)
@[simp] theorem State.biteG_buckets (s : State) (p : Part) (k : Nat) (g : W64) : (s.biteG p k g).buckets = s.buckets := s.raise_buckets evPoisonConsumed (some p) g.toNat (Config.blockCode k)
@[simp] theorem State.biteG_rgLast (s : State) (p : Part) (k : Nat) (g : W64) : (s.biteG p k g).rgLast = s.rgLast := s.raise_rgLast evPoisonConsumed (some p) g.toNat (Config.blockCode k)
@[simp] theorem State.biteG_fabric (s : State) (p : Part) (k : Nat) (g : W64) : (s.biteG p k g).fabric = s.fabric := s.raise_fabric evPoisonConsumed (some p) g.toNat (Config.blockCode k)
@[simp] theorem State.biteG_power (s : State) (p : Part) (k : Nat) (g : W64) : (s.biteG p k g).power = s.power := s.raise_power evPoisonConsumed (some p) g.toNat (Config.blockCode k)
@[simp] theorem State.biteG_boot (s : State) (p : Part) (k : Nat) (g : W64) : (s.biteG p k g).boot = s.boot := s.raise_boot evPoisonConsumed (some p) g.toNat (Config.blockCode k)
@[simp] theorem State.biteG_mgmt (s : State) (p : Part) (k : Nat) (g : W64) : (s.biteG p k g).mgmt = s.mgmt := s.raise_mgmt evPoisonConsumed (some p) g.toNat (Config.blockCode k)
@[simp] theorem State.biteG_pins (s : State) (p : Part) (k : Nat) (g : W64) : (s.biteG p k g).pins = s.pins := s.raise_pins evPoisonConsumed (some p) g.toNat (Config.blockCode k)
@[simp] theorem State.biteG_timeSub (s : State) (p : Part) (k : Nat) (g : W64) : (s.biteG p k g).timeSub = s.timeSub := s.raise_timeSub evPoisonConsumed (some p) g.toNat (Config.blockCode k)
@[simp] theorem State.biteG_meSub (s : State) (p : Part) (k : Nat) (g : W64) : (s.biteG p k g).meSub = s.meSub := s.raise_meSub evPoisonConsumed (some p) g.toNat (Config.blockCode k)
@[simp] theorem State.biteG_ppsErr (s : State) (p : Part) (k : Nat) (g : W64) : (s.biteG p k g).ppsErr = s.ppsErr := s.raise_ppsErr evPoisonConsumed (some p) g.toNat (Config.blockCode k)

end Sys2Proof.Machine
end

