-- ==== Sys2Proof/Laws/Memory.lean ====
section
/-! SUPPORT. The laws of memory: what a byte reads as after a write, and that every memory operation keeps the
canonical form, which reset memory has. -/

namespace Sys2Proof.Machine

/-! ## The canonical form of one memory -/

/-- Reset memory has the canonical form. -/
theorem Memory.reset_wf : Memory.reset.wf = true := rfl

/-- The canonical form of the memory is that of its three tables. -/
theorem Memory.wf_iff (m : Memory) : m.wf = true ↔
    tblWf memDefault m.cells = true ∧ tblWf (fun _ => SectorMeta.clean) m.sectors = true ∧
      tblWf (fun _ => TagState.none) m.tags = true := by
  simp [Memory.wf, and_assoc]

/-- Storing bytes of a sector keeps the canonical form. -/
theorem Memory.put_wf {m : Memory} (k i : Nat) (bs : List Byte) (md : SectorMeta) (h : m.wf = true) :
    (m.put k i bs md).wf = true := by
  obtain ⟨h1, h2, h3⟩ := m.wf_iff.1 h
  exact (Memory.wf_iff _).2 ⟨tblWf_put _ _ _ h1, tblWf_set _ _ _ h2, h3⟩

/-- Copying a sector into a spare row keeps the canonical form. -/
theorem Memory.respare_wf {m : Memory} (src dst : Nat) (h : m.wf = true) : (m.respare src dst).wf = true :=
  Memory.put_wf _ _ _ _ h

/-- A fold of steps that keep the canonical form keeps it. -/
theorem Memory.foldl_wf {α : Type} (f : Memory → α → Memory) (hf : ∀ m a, m.wf = true → (f m a).wf = true)
    (l : List α) {m : Memory} (h : m.wf = true) : (l.foldl f m).wf = true := by
  induction l generalizing m with
  | nil => exact h
  | cons a l ih => exact ih (hf m a h)

/-! ## What a byte reads as -/

/-- A byte of a sector reads as the byte stored there, and as before outside the bytes stored. -/
theorem Memory.put_get (m : Memory) (k i : Nat) (bs : List Byte) (md : SectorMeta) (a : Nat) :
    tblGet memDefault (m.put k i bs md).cells a =
      if k * 32 + i ≤ a ∧ a < k * 32 + i + bs.length then bs.getD (a - (k * 32 + i)) 0#8
      else tblGet memDefault m.cells a :=
  tblGet_put _ _ _ _ _

/-- The metadata of a sector after a store. -/
theorem Memory.put_meta (m : Memory) (k i : Nat) (bs : List Byte) (md : SectorMeta) (k' : Nat) :
    (m.put k i bs md).meta k' = if k' = k then md else m.meta k' :=
  tblGet_set _ _ _ _ _

/-- A whole sector reads back as the bytes stored. -/
theorem Memory.put_data (m : Memory) (k : Nat) (bs : List Byte) (md : SectorMeta) (h : bs.length = 32) :
    (m.put k 0 bs md).data k = bs := by
  have := tblRead_put memDefault m.cells (k * 32) bs
  rw [h] at this
  exact this

/-! ## The operations over the state -/

theorem State.promote_wf {s : State} (h : HbmLoc) (ue : Bool) (hw : s.mem.wf = true) :
    (s.promote h ue).mem.wf = true := by
  unfold State.promote
  split
  · simp only [State.raise_mem, State.setReg_mem]
    exact Memory.foldl_wf _ (fun m _ hm => Memory.respare_wf _ _ hm) _ hw
  · dsimp only
    split <;> simpa using hw

theorem State.trackCe_wf {s : State} (h : HbmLoc) (hw : s.mem.wf = true) : (s.trackCe h).mem.wf = true := by
  unfold State.trackCe
  extract_lets t t' s' ctl n
  by_cases hc : ((t' != t) && decide (Nat.max 1 (s.fld ctl 3 0) ≤ n) && s.bit ctl 4 && (s.remapOf h).isNone) = true
  · rw [if_pos hc]; exact State.promote_wf _ _ hw
  · rw [if_neg hc]; exact hw

@[simp] theorem State.trackWrite_mem (s : State) (h : HbmLoc) : (s.trackWrite h).mem = s.mem := by
  unfold State.trackWrite
  dsimp only
  split <;> rfl

@[simp] theorem State.eccLast_mem (s : State) (h : HbmLoc) (a b c : Nat) (p : Bool) :
    (s.eccLast h a b c p).mem = s.mem := rfl

theorem State.eccNote_wf {s : State} (h : HbmLoc) (sec : Nat) (c : EccClass) (p : Bool) (hw : s.mem.wf = true) :
    (s.eccNote h sec c p).mem.wf = true := by
  unfold State.eccNote
  cases c <;> dsimp only
  · exact hw
  · exact State.trackCe_wf _ (by simpa using hw)
  · simpa using hw
  · exact State.trackCe_wf _ (by simpa using hw)
  · split
    · exact State.promote_wf _ _ (by simpa using hw)
    · simpa using hw

theorem State.readSector_wf {s : State} (sec : Nat) (hw : s.mem.wf = true) : (s.readSector sec).2.mem.wf = true := by
  unfold State.readSector
  dsimp only
  split
  · exact hw
  · split
    · exact State.eccNote_wf _ _ _ _ hw
    · split
      · exact hw
      · split
        · simpa using Memory.put_wf _ _ _ _ hw
        · exact hw

theorem State.readFrom_wf (k : Nat) {s : State} (a n : Nat) (hw : s.mem.wf = true) :
    (State.readFrom k s a n).2.mem.wf = true := by
  induction k generalizing s a n with
  | zero => exact hw
  | succ k ih =>
    unfold State.readFrom
    split
    · exact hw
    · exact ih _ _ (State.readSector_wf _ hw)

/-- Reading memory keeps the canonical form. -/
theorem State.readMem_wf {s : State} (a n : Nat) (hw : s.mem.wf = true) : (s.readMem a n).2.mem.wf = true :=
  State.readFrom_wf _ _ _ hw

theorem State.writeSector_wf {s : State} (hit : Bool) (a : Nat) (bs : List PByte) (hw : s.mem.wf = true) :
    (s.writeSector hit a bs).mem.wf = true := by
  unfold State.writeSector
  dsimp only
  split
  · split
    · exact Memory.put_wf _ _ _ _ (by simpa using hw)
    · apply Memory.put_wf
      rw [State.trackWrite_mem]
      split
      · exact hw
      · exact State.readSector_wf _ hw
  · split <;> exact Memory.put_wf _ _ _ _ hw

theorem State.writeFrom_wf (k : Nat) {s : State} (hit : Bool) (a : Nat) (bs : List PByte) (hw : s.mem.wf = true) :
    (State.writeFrom k s hit a bs).mem.wf = true := by
  induction k generalizing s a bs with
  | zero => exact hw
  | succ k ih =>
    unfold State.writeFrom
    split
    · exact hw
    · exact ih _ _ (State.writeSector_wf _ _ _ hw)

/-- Writing memory keeps the canonical form. -/
theorem State.writeMem_wf {s : State} (a : Nat) (bs : List PByte) (hw : s.mem.wf = true) :
    (s.writeMem a bs).mem.wf = true := State.writeFrom_wf _ _ _ _ hw

/-- Setting a tag keeps the canonical form. -/
theorem State.setTag_wf {s : State} (g : Nat) (t : TagState) (hw : s.mem.wf = true) : (s.setTag g t).mem.wf = true := by
  obtain ⟨h1, h2, h3⟩ := Memory.wf_iff _ |>.1 hw
  exact (Memory.wf_iff _).2 ⟨h1, h2, tblWf_set _ _ _ h3⟩

/-- Clearing tags keeps the canonical form. -/
theorem State.untag_wf {s : State} (a n : Nat) (hw : s.mem.wf = true) : (s.untag a n).mem.wf = true := by
  unfold State.untag
  split
  · exact hw
  · obtain ⟨h1, h2, h3⟩ := Memory.wf_iff _ |>.1 hw
    exact (Memory.wf_iff _).2 ⟨h1, h2, tblWf_clear _ _ _ h3⟩

/-- An ordinary store keeps the canonical form. -/
theorem State.store_wf {s : State} (a : Nat) (bs : List PByte) (hw : s.mem.wf = true) : (s.store a bs).mem.wf = true :=
  State.writeMem_wf _ _ (State.untag_wf _ _ hw)

/-- A versioned write keeps the canonical form. -/
theorem State.vstoreLine_wf {s : State} (a : Nat) (v : BitVec 16) (bs : List PByte) (hw : s.mem.wf = true) :
    (s.vstoreLine a v bs).mem.wf = true := State.writeMem_wf _ _ (State.setTag_wf _ _ hw)

@[simp] theorem State.cacheLine_mem (s : State) (p a : Nat) (al full : Bool) : (s.cacheLine p a al full).mem = s.mem := by
  unfold State.cacheLine
  dsimp only
  split
  · rfl
  · split
    · rfl
    · split <;> rfl

@[simp] theorem State.cacheAccess_mem (s : State) (p a n : Nat) (w al : Bool) :
    (s.cacheAccess p a n w al).mem = s.mem := by
  unfold State.cacheAccess
  split
  · next h =>
    clear h
    generalize List.range _ = l
    induction l generalizing s with
    | nil => rfl
    | cons i l ih => rw [List.foldl_cons, ih]; simp
  · rfl

@[simp] theorem State.cacheDrop_mem (s : State) (p n : Nat) : (s.cacheDrop p n).mem = s.mem := rfl

/-- A refetch changes memory only as a read of the line does. -/
theorem State.refetch_wf {s : State} (p a : Nat) (hw : s.mem.wf = true) : (s.refetch p a).mem.wf = true := by
  unfold State.refetch
  dsimp only
  split
  · exact hw
  · split
    · split
      · rw [State.count_mem]
        exact State.readMem_wf _ _ hw
      · exact hw
    · exact hw

theorem State.loadLines_wf (k : Nat) {s : State} (p a n : Nat) (al : Bool) (hw : s.mem.wf = true) :
    (State.loadLines k s p a n al).2.mem.wf = true := by
  induction k generalizing s a n with
  | zero => exact hw
  | succ k ih =>
    unfold State.loadLines
    split
    · exact hw
    · dsimp only
      apply ih
      rw [State.cacheAccess_mem]
      split
      · exact State.refetch_wf _ _ hw
      · exact State.readMem_wf _ _ (State.refetch_wf _ _ hw)

@[simp] theorem State.network_mem (s : State) (a : Nat) (bs : List PByte) : (s.network a bs).2.mem = s.mem := by
  unfold State.network
  split
  · rfl
  · dsimp only
    split
    · simp
    · split <;> simp

theorem State.writeLines_wf (k : Nat) {s : State} (p a : Nat) (bs : List PByte) (hw : s.mem.wf = true) :
    (State.writeLines k s p a bs).mem.wf = true := by
  induction k generalizing s a bs with
  | zero => exact hw
  | succ k ih =>
    unfold State.writeLines
    dsimp only
    split
    · exact hw
    · apply ih
      apply State.writeFrom_wf
      split
      · exact hw
      · exact State.refetch_wf _ _ hw

/-- A partition's read keeps the canonical form. -/
theorem State.load_wf {s : State} (p a n : Nat) (hw : s.mem.wf = true) : (s.load p a n).2.mem.wf = true := by
  rw [State.load, State.network_mem]
  exact State.loadLines_wf _ _ _ _ _ hw

/-- A stationary load keeps the canonical form. -/
theorem State.loadNoAlloc_wf {s : State} (p a n : Nat) (hw : s.mem.wf = true) :
    (s.loadNoAlloc p a n).2.mem.wf = true := by
  rw [State.loadNoAlloc, State.network_mem]
  exact State.loadLines_wf _ _ _ _ _ hw

/-- A partition's store keeps the canonical form. -/
theorem State.storeP_wf {s : State} (p a : Nat) (bs : List PByte) (hw : s.mem.wf = true) :
    (s.storeP p a bs).mem.wf = true := by
  simp only [State.storeP, State.homeStore, State.cacheAccess_mem]
  exact State.writeLines_wf _ _ _ _ (State.untag_wf _ _ (by rwa [State.network_mem]))

/-- A controller's write keeps the canonical form. -/
theorem State.poke_wf {s : State} (a n v : Nat) (hw : s.mem.wf = true) : (s.poke a n v).mem.wf = true :=
  State.store_wf _ _ hw

end Sys2Proof.Machine
end

