-- ==== Sys2Proof/Laws/Regs.lean ====
section
/-! SUPPORT. What registers and commands read as after each shared operation. -/

namespace Sys2Proof.Machine

/-! ## Registers and fields -/

@[simp] theorem State.reg_setReg (s : State) (o : Nat) (v : W64) (o' : Nat) :
    (s.setReg o v).reg o' = if o' = o then v else s.reg o' := by
  simp [State.reg, State.setReg]

/-- A field's register after the field is set. -/
theorem State.reg_setFld (s : State) (o hi lo x o' : Nat) :
    (s.setFld o hi lo x).reg o' =
      if o' = o then BitVec.ofNat 64 (setBits (s.reg o).toNat hi lo x) else s.reg o' := by
  simp [State.setFld]

/-- Another register after a field is set. -/
theorem State.reg_setFld_other (s : State) (o hi lo x o' : Nat) (h : o' ≠ o) : (s.setFld o hi lo x).reg o' = s.reg o' := by
  simp [State.setFld, h]

theorem State.fld_setReg (s : State) (o : Nat) (v : W64) (o' hi lo : Nat) :
    (s.setReg o v).fld o' hi lo = if o' = o then bitsOf v.toNat hi lo else s.fld o' hi lo := by
  unfold State.fld; rw [State.reg_setReg]; split <;> rfl

theorem State.fld_setReg_other (s : State) (o : Nat) (v : W64) (o' hi lo : Nat) (h : o' ≠ o) :
    (s.setReg o v).fld o' hi lo = s.fld o' hi lo := by rw [State.fld_setReg, if_neg h]

/-- The field just set. -/
theorem State.fld_setFld_same (s : State) (o hi lo x : Nat) (h : lo ≤ hi) (h64 : hi < 64) :
    (s.setFld o hi lo x).fld o hi lo = x % 2 ^ (hi + 1 - lo) := by
  unfold State.fld
  rw [State.reg_setFld, if_pos rfl, BitVec.toNat_ofNat,
    Nat.mod_eq_of_lt (setBits_lt _ _ _ _ _ h h64 (s.reg o).isLt), bitsOf_setBits_same _ _ _ _ h]

/-- Another field of the same register. -/
theorem State.fld_setFld_apart (s : State) (o hi lo x hi' lo' : Nat) (h : lo ≤ hi) (h64 : hi < 64)
    (ha : hi < lo' ∨ hi' < lo) : (s.setFld o hi lo x).fld o hi' lo' = s.fld o hi' lo' := by
  unfold State.fld
  rw [State.reg_setFld, if_pos rfl, BitVec.toNat_ofNat,
    Nat.mod_eq_of_lt (setBits_lt _ _ _ _ _ h h64 (s.reg o).isLt), bitsOf_setBits_apart _ _ _ _ _ _ h ha]

/-- A field of another register. -/
theorem State.fld_setFld_other (s : State) (o hi lo x o' hi' lo' : Nat) (h : o' ≠ o) :
    (s.setFld o hi lo x).fld o' hi' lo' = s.fld o' hi' lo' := by
  unfold State.fld; rw [State.reg_setFld_other _ _ _ _ _ _ h]

theorem State.bit_eq (s : State) (o i : Nat) : s.bit o i = decide (s.fld o i i = 1) := by
  simp [State.bit, State.fld, bitOf, bitsOf]

theorem State.reg_count (s : State) (o n o' : Nat) :
    (s.count o n).reg o' = if o' = o then s.reg o + BitVec.ofNat 64 n else s.reg o' := by
  unfold State.count
  split
  · next h => subst h; split
              · next h => simp [h]
              · rfl
  · simp

@[simp] theorem State.reg_onCmd (s : State) (c : CmdId) (f : Cmd → Cmd) (o : Nat) : (s.onCmd c f).reg o = s.reg o := rfl
@[simp] theorem State.reg_emit (s : State) (x : Output) (o : Nat) : (s.emit x).reg o = s.reg o := rfl
@[simp] theorem State.reg_onJob (s : State) (p : Nat) (f : Job → Job) (o : Nat) : (s.onJob p f).reg o = s.reg o := rfl
@[simp] theorem State.reg_onFunc (s : State) (p : Nat) (f : FuncState → FuncState) (o : Nat) :
    (s.onFunc p f).reg o = s.reg o := rfl
@[simp] theorem State.reg_onKpart (s : State) (p : Nat) (f : KeeperPart → KeeperPart) (o : Nat) :
    (s.onKpart p f).reg o = s.reg o := rfl
@[simp] theorem State.reg_hostWrite (s : State) (a : Nat) (bs : List Byte) (o : Nat) :
    (s.hostWrite a bs).reg o = s.reg o := rfl

/-! ## Events write only the event rings' registers and the pending bit arrays -/

/-- No register below the function pages is one of them. -/
theorem not_eventReg_low {o : Nat} (h : o < 0x1000000) : ¬ eventReg o := by
  rintro ⟨f, h | h | ⟨_, i, _, h⟩⟩ <;> simp only [cmdEvTailOff, cmdEvLostOff, msixPbaOff] at h <;> omega

/-- No register of a function page's rings is one of them. -/
theorem not_eventReg_ring {f r k : Nat} (hr : r < 2) (hk : k < 0x40) : ¬ eventReg (0x1000000 + 0x100000 * f + 0x40 * r + k) := by
  rintro ⟨g, h | h | ⟨_, i, _, h⟩⟩ <;> simp only [cmdEvTailOff, cmdEvLostOff, msixPbaOff] at h <;> omega

/-- No mailbox register is one of them. -/
theorem not_eventReg_mbox {f k : Nat} (hk : k < 0x2000) : ¬ eventReg (0x1002000 + 0x100000 * f + k) := by
  rintro ⟨g, h | h | ⟨_, i, _, h⟩⟩ <;> simp only [cmdEvTailOff, cmdEvLostOff, msixPbaOff] at h <;> omega

theorem State.reg_msix (s : State) (f v o : Nat) (h : ¬ eventReg o) : (s.msix f v).reg o = s.reg o := by
  unfold State.msix
  split
  · next hf =>
    split
    · rfl
    · next hv =>
      have hp : o ≠ msixPbaOff f (v / 64) := fun e => h ⟨f, .inr (.inr ⟨hf, v / 64, by
        unfold msixVectors at hv; split at hv <;> omega, e⟩)⟩
      dsimp only
      split
      · rfl
      · exact State.reg_setFld_other _ _ _ _ _ _ hp
  · rfl

theorem State.reg_evPut (s : State) (f : Nat) (e : EventRec) (o : Nat) (h : ¬ eventReg o) :
    (s.evPut f e).reg o = s.reg o := by
  have hp : o ≠ cmdEvTailOff f := fun e => h ⟨f, .inl e⟩
  unfold State.evPut
  dsimp only
  split
  · rw [State.reg_msix _ _ _ _ h, State.reg_onFunc, State.reg_setFld_other _ _ _ _ _ _ hp, State.reg_hostWrite]
  · rw [State.reg_onFunc, State.reg_setFld_other _ _ _ _ _ _ hp, State.reg_hostWrite]

theorem State.reg_evFlush (s : State) (f o : Nat) (h : ¬ eventReg o) : (s.evFlush f).reg o = s.reg o := by
  unfold State.evFlush
  split
  · rw [State.reg_onFunc, State.reg_evPut _ _ _ _ h]
  · rfl

theorem State.reg_evDeliver (s : State) (f : Nat) (e : EventRec) (o : Nat) (h : ¬ eventReg o) :
    (s.evDeliver f e).reg o = s.reg o := by
  have hp : o ≠ cmdEvLostOff f := fun e => h ⟨f, .inr (.inl e)⟩
  unfold State.evDeliver
  dsimp only
  split
  · rfl
  · split
    · rw [State.reg_evPut _ _ _ _ h, State.reg_evFlush _ _ _ h]
    · rw [State.reg_onFunc, State.reg_count, if_neg hp, State.reg_evFlush _ _ _ h]

theorem State.reg_mgmtEvent (s : State) (e : EventRec) (o : Nat) : (s.mgmtEvent e).reg o = s.reg o := by
  unfold State.mgmtEvent
  simp only [List.foldl_cons, List.foldl_nil]
  (repeat' split) <;> rfl

theorem State.reg_evPf (s : State) (e : EventRec) (o : Nat) (h : ¬ eventReg o) : (s.evPf e).reg o = s.reg o := by
  unfold State.evPf
  split
  · exact State.reg_evDeliver _ _ _ _ h
  · split <;> rfl

/-- An event changes no register but those of the event rings and the pending bits. -/
theorem State.reg_raise (s : State) (code : Nat) (p : Option Part) (a b o : Nat) (h : ¬ eventReg o) :
    (s.raise code p a b).reg o = s.reg o := by
  unfold State.raise
  dsimp only
  split
  · rw [State.reg_evPf _ _ _ h, State.reg_evDeliver _ _ _ _ h]
  · rw [State.reg_mgmtEvent, State.reg_evPf _ _ _ h]

/-! ## Module and job states -/

theorem State.reg_enterMod (s : State) (m o : Nat) (h : ¬ eventReg o) (hm : o ≠ modStateOff) :
    (s.enterMod m).reg o = s.reg o := by
  unfold State.enterMod
  split
  · rfl
  · rw [State.reg_raise _ _ _ _ _ _ h, State.reg_setFld_other _ _ _ _ _ _ hm]

theorem State.reg_syncMod (s : State) (o : Nat) (h : ¬ eventReg o) (hm : o ≠ modStateOff) : s.syncMod.reg o = s.reg o := by
  unfold State.syncMod
  split
  · exact State.reg_enterMod _ _ _ h hm
  · rfl

theorem State.reg_setJobState (s : State) (p : Part) (j o : Nat) (h : ¬ eventReg o) (hm : o ≠ modStateOff)
    (hj : o ≠ cmdJobStateOff p.val) : (s.setJobState p j).reg o = s.reg o := by
  unfold State.setJobState
  rw [State.reg_syncMod _ _ h hm, State.reg_setFld_other _ _ _ _ _ _ hj]

/-! ## Commands -/

theorem State.cmd_eq (s t : State) (h : t.cmds = s.cmds) (c : CmdId) : t.cmd c = s.cmd c := by
  unfold State.cmd; rw [h]

/-- The commands after one of them is changed. -/
theorem State.cmd_onCmd (s : State) (c c' : CmdId) (f : Cmd → Cmd) (hf : ∀ x, (f x).id = x.id) :
    (s.onCmd c f).cmd c' = (s.cmd c').map fun x => if x.id = c then f x else x := by
  unfold State.cmd State.onCmd
  dsimp only
  induction s.cmds with
  | nil => rfl
  | cons x t ih =>
    have e : (if x.id = c then f x else x).id = x.id := by split <;> simp [hf]
    simp only [List.map_cons, List.find?_cons, e]
    cases x.id == c' <;> simp [ih]

theorem State.cmd_id {s : State} {c : CmdId} {x : Cmd} (h : s.cmd c = some x) : x.id = c := by
  have := List.find?_some h
  simpa using this

/-- The command that ends, no transfer having lost its header. -/
theorem State.cmd_endCmd (s : State) (c : CmdId) (st d : Nat) (b : Bool) (x : Cmd) (h : s.cmd c = some x)
    (hn : s.prot.netLost = false) :
    (s.endCmd c st d b).cmd c =
      some { x with phase := .ended, status := st, detail := BitVec.ofNat 64 d, dform := b, pending := 0 } := by
  unfold State.endCmd
  rw [if_neg (by simp [hn]), State.cmd_onCmd]
  · rw [State.cmd_eq s _ (by simp), h, Option.map_some, if_pos (State.cmd_id h)]
  · intro x; rfl

/-- The other commands. -/
theorem State.cmd_endCmd_other (s : State) (c c' : CmdId) (st d : Nat) (b : Bool) (h : c' ≠ c) :
    (s.endCmd c st d b).cmd c' = s.cmd c' := by
  unfold State.endCmd
  split <;>
  · rw [State.cmd_onCmd]
    · rw [State.cmd_eq s _ (by first | rfl | simp)]
      cases hx : s.cmd c' with
      | none => rfl
      | some x => rw [Option.map_some, if_neg]; rw [State.cmd_id hx]; exact h
    · intro x; rfl

/-- A command that ends with ST_OK, no transfer having lost its header, changes nothing else. -/
theorem State.done_eq (s : State) (c : CmdId) (hn : s.prot.netLost = false) :
    s.endCmd c stOk = s.onCmd c fun x =>
      { x with phase := .ended, status := stOk, detail := BitVec.ofNat 64 0, dform := false, pending := 0 } := by
  unfold State.endCmd State.boundsNote; simp [hn]

/-- What a command that has started is. -/
theorem State.starting_eq {s : State} {c : CmdId} {op : Nat} {x : Cmd} (h : s.starting c op = some x) :
    s.cmd c = some x ∧ x.phase = .started ∧ x.opcode = op := by
  unfold State.starting at h
  split at h
  · next hx => split at h
               · next hc => cases h; exact ⟨hx, hc⟩
               · cases h
  · cases h

end Sys2Proof.Machine
end

