-- ==== Sys2Proof/Laws/Micro.lean ====
section
/-! SUPPORT. The laws of micro-ops: a lane's registers and marks after a write, and what a micro-op that writes one
register does to the state. -/

namespace Sys2Proof.Machine

theorem Lane.reg_dst (l : Lane) (t i v : Nat) (m : Option Nat) (j : Nat) (hj : j < 16) :
    (l.dst t i v m).reg j = if j = i then BitVec.ofNat 64 (if t % 2 = 0 then v % 2 ^ 32 else v) else l.reg j := by
  unfold Lane.reg Lane.dst
  dsimp only
  by_cases h : j = i
  · subst h; simp [hj]
  · simp [h, Vector.getElem?_setIfInBounds_ne (Ne.symm h)]

theorem Lane.marks_dst (l : Lane) (t i v : Nat) (m : Option Nat) (j : Nat) :
    keyGet (l.dst t i v m).marks j = if j = i then m else keyGet l.marks j := by
  unfold Lane.dst
  cases m <;> simp

@[simp] theorem State.lane_setLane (s : State) (v w : Nat) (l : Lane) :
    (s.setLane v l).lane w = if w = v then l else s.lane w := by
  simp [State.lane, State.setLane]

theorem State.lane_eq (s t : State) (h : t.lanes = s.lanes) (v : Nat) : t.lane v = s.lane v := by
  unfold State.lane; rw [h]

@[simp] theorem State.lane_setFld (s : State) (o hi lo x v : Nat) : (s.setFld o hi lo x).lane v = s.lane v :=
  State.lane_eq _ _ rfl _

theorem laneStep_ready {f : OpSem} {v : Nat} {u : MicroOp} {l : Lane} {s : State} (h : l.stopped = false) :
    laneStep f v u l s = ({ (f v u l s).1 with opIx := (f v u l s).1.opIx + 1 }, (f v u l s).2) := by
  simp [laneStep, h]

theorem marked_none {l : Lane} {rs : List (Fin 16)} (h : ∀ i ∈ rs, keyGet l.marks i.val = none) : l.marked rs = none := by
  unfold Lane.marked
  rw [List.findSome?_eq_none_iff]
  exact h

theorem veOff_ne (v : VeIx) (p : Part) : veFlagsOff (v.val / 2) p.val ≠ veStatusOff (v.val / 2) (v.val % 2) := by
  unfold veFlagsOff veStatusOff
  have := p.isLt
  omega

/-- A micro-op that writes one register. -/
theorem microWrites_of {i : Instr} {s : State} {v : VeIx} {u : MicroOp} {f : OpSem} {c : Nat} {d : Fin 16} {t : Nat} {fl : Flags}
    (hi : exec i s = .next (s.microOp v u f))
    (hs : (s.lane v.val).stopped = false)
    (hf : f v.val u (s.lane v.val) s = raiseFlags v.val fl ((s.lane v.val).dst t d.val c none, s)) :
    MicroWrites i s v d (BitVec.ofNat 64 (if t % 2 = 0 then c % 2 ^ 32 else c)) fl := by
  refine ⟨_, hi, ?_⟩
  have hne := veOff_ne v (s.lane v.val).part
  unfold State.microOp
  dsimp only
  rw [laneStep_ready hs, hf]
  unfold raiseFlags State.veFlag
  dsimp only
  have hp : ((s.lane v.val).dst t d.val c none).part = (s.lane v.val).part := rfl
  rw [hp]
  have key : ∀ s' : State, s' = { s with regs := s'.regs } →
      (∀ o, o ≠ veFlagsOff (v.val / 2) (s.lane v.val).part.val → s'.reg o = s.reg o) →
      s'.reg (veFlagsOff (v.val / 2) (s.lane v.val).part.val) =
        s.reg (veFlagsOff (v.val / 2) (s.lane v.val).part.val) ||| fl.setWidth 64 →
      ∀ l' : Lane, l' = Lane.mk l'.regs l'.marks (s.lane v.val).elem (s.lane v.val).segm (s.lane v.val).pos ((s.lane v.val).opIx + 1)
        (s.lane v.val).hdr (s.lane v.val).part ((s.lane v.val).flags ||| fl) (s.lane v.val).leaves (s.lane v.val).loaded
        (s.lane v.val).drift (s.lane v.val).g4 (s.lane v.val).bitten (s.lane v.val).refused →
      (∀ j : Fin 16, l'.reg j = ((s.lane v.val).dst t d.val c none).reg j) →
      (∀ j : Fin 16, keyGet l'.marks j = keyGet ((s.lane v.val).dst t d.val c none).marks j) →
      let t' := (s'.setLane v.val l').setFld (veStatusOff (v.val / 2) (v.val % 2)) 5 0 (s.lane v.val).opIx
      LaneFrame s t' v (some d) fl ∧ (t'.lane v.val).reg d.val = BitVec.ofNat 64 (if t % 2 = 0 then c % 2 ^ 32 else c) ∧
        keyGet (t'.lane v.val).marks d.val = none := by
    intro s' h1 h2 h3 l' h4 h5 h6
    have hl : ∀ w, s'.lane w = s.lane w := fun w => State.lane_eq _ _ (by rw [h1]) w
    refine ⟨⟨?_, ?_, ?_, ?_, ?_, ?_⟩, ?_, ?_⟩
    · rw [h1]; rfl
    · intro o ho
      simp only [List.mem_cons, List.not_mem_nil, or_false, not_or] at ho
      rw [State.reg_setFld_other _ _ _ _ _ _ ho.1]
      exact h2 o ho.2
    · rw [State.reg_setFld_other _ _ _ _ _ _ hne]; exact h3
    · intro w hw
      simp [hw, hl]
    · simp only [State.lane_setFld, State.lane_setLane, if_true]; exact h4
    · intro j hj
      simp only [State.lane_setFld, State.lane_setLane, if_true, h5, h6, Lane.reg_dst _ _ _ _ _ _ j.isLt, Lane.marks_dst]
      have : j.val ≠ d.val := fun e => hj (by rw [Fin.ext e])
      simp [this]
    · simp [h5, Lane.reg_dst]
    · simp [h6, Lane.marks_dst]
  split
  · next h0 =>
    subst h0
    exact key s rfl (fun _ _ => rfl) (by simp) _ rfl (fun _ => rfl) (fun _ => rfl)
  · refine key (s.setReg _ _) rfl ?_ ?_ _ rfl (fun _ => rfl) (fun _ => rfl)
    · intro o ho; simp [ho]
    · simp

theorem raise0 (v : Nat) (ls : Lane × State) : raiseFlags v 0 ls = ls := by
  simp [raiseFlags, State.veFlag]

theorem intOp_eq {g : Nat → Nat → Nat → Nat} {v : VeIx} {u : MicroOp} {s : State} (h : LaneReady s v [u.a, u.b]) :
    intOp g v.val u (s.lane v.val) s = raiseFlags v.val 0 ((s.lane v.val).dst u.t.toNat u.d.val
      (g (if u.t.toNat % 2 = 0 then 32 else 64) ((s.lane v.val).src u.t.toNat u.a.val) ((s.lane v.val).src u.t.toNat u.b.val)
        % 2 ^ (if u.t.toNat % 2 = 0 then 32 else 64)) none, s) := by
  unfold intOp computing
  rw [marked_none h.2, raise0]

theorem int_writes {i : Instr} {g : Nat → Nat → Nat → Nat} {v : VeIx} {u : MicroOp} {s : State} (h : LaneReady s v [u.a, u.b])
    (hi : exec i s = .next (s.microOp v u (intOp g))) {x : W64}
    (hx : BitVec.ofNat 64 (if u.t.toNat % 2 = 0 then
        g 32 (((s.lane v.val).reg u.a).toNat % 2 ^ 32) (((s.lane v.val).reg u.b).toNat % 2 ^ 32) % 2 ^ 32
      else g 64 ((s.lane v.val).reg u.a).toNat ((s.lane v.val).reg u.b).toNat % 2 ^ 64) = x) :
    MicroWrites i s v u.d x 0 := by
  have := microWrites_of hi h.1 (intOp_eq h)
  rw [← hx]
  convert this using 2
  unfold Lane.src
  by_cases e : u.t.toNat % 2 = 0 <;> simp [e]

theorem toInt32 (a : BitVec 64) : sInt32 (a.toNat % 2 ^ 32) = (a.setWidth 32).toInt := by
  unfold sInt32
  rw [BitVec.toInt_eq_toNat_cond, BitVec.toNat_setWidth]
  split <;> split <;> omega

theorem toInt64 (a : BitVec 64) : sInt64 a.toNat = a.toInt := by
  unfold sInt64
  rw [BitVec.toInt_eq_toNat_cond]
  have := a.isLt
  split <;> split <;> omega

theorem ofInt64_toNat {w : Nat} (x : BitVec w) (hw : w ≤ 64) : ofInt64 x.toInt % 2 ^ w = x.toNat := by
  unfold ofInt64
  have h1 : ((x.toInt % 2 ^ 64).toNat : Int) = x.toInt % 2 ^ 64 := Int.toNat_of_nonneg (Int.emod_nonneg _ (by decide))
  have h2 : (x.toInt % 2 ^ 64) % 2 ^ w = x.toInt % 2 ^ w := Int.emod_emod_of_dvd _ (pow_dvd_pow 2 hw)
  have h3 : x.toInt % 2 ^ w = x.toNat := by
    rw [BitVec.toInt_eq_toNat_bmod]
    have h := Int.bmod_emod (x := (x.toNat : Int)) (m := 2 ^ w)
    push_cast at h ⊢
    rw [h]
    exact_mod_cast Nat.mod_eq_of_lt x.isLt
  zify
  rw [h1, h2, h3]

end Sys2Proof.Machine
end

