-- ==== Sys2Proof/Tests/Slice0.lean ====
section
/-! SUPPORT. Tests: one ill-formed term for each check of well-formedness, refused; values that the spec states; and for each
obligation a state and operands that meet the hypotheses of its clauses together. -/

open Sys2Proof Sys2Proof.Machine

namespace Sys2Proof.Tests

set_option Elab.async false

/-! ## Well-formedness: an ill-formed term for each check -/

/-- A packet with a payload of `n` bytes and LEN `len`. -/
def packet (op : BitVec 6) (len : BitVec 8) (n : Nat) : Packet :=
  { Packet.zero with op := op, len := len, payload := List.replicate n 0 }

/-- A micro-op of type `t` with no rounding override. -/
def mop (t : BitVec 2) (imm : W32) : MicroOp := ⟨t, 2, 0, 1, 3, false, 0, 0, imm⟩

theorem test_wf_len : (Instr.fabStore (packet 3 129 129)).wf = false := by decide
theorem test_wf_payload : (Instr.fabStore (packet 3 8 7)).wf = false := by decide
theorem test_wf_store : (Instr.fabStore (packet 3 8 8)).wf = true := by decide
theorem test_wf_pf_ring : (Instr.openJob ⟨0, 1, 0⟩).wf = false := by decide
theorem test_wf_frame_length : (Instr.routerSlot [⟨0, [0], 0, 0⟩]).wf = false := by decide
theorem test_wf_one_frame_per_port :
    (Instr.routerSlot [⟨0, List.replicate 168 0, 0, 0⟩, ⟨0, List.replicate 168 0, 0, 0⟩]).wf = false := by
  decide +kernel
theorem test_wf_type_of_iadd : (Instr.iadd 0 (mop 0 0)).wf = false := by decide
theorem test_wf_rounding : (Instr.add 0 { mop 0 0 with ovr := true, rnd := 6 }).wf = false := by decide
theorem test_wf_predicate : (Instr.cmp 0 (mop 2 7)).wf = false := by decide
theorem test_wf_unsigned_predicate_of_floats : (Instr.cmp 0 (mop 0 5)).wf = false := by decide
theorem test_wf_aligned : (Instr.registerWrite 0 4 true 0).wf = false := by decide
theorem test_wf_request_empty : (Instr.bar2Read 1 0 0).wf = false := by decide
theorem test_wf_request_long : (Instr.bar2Read 1 0 4097).wf = false := by decide
theorem test_wf_request_outside : (Instr.bar2Read 1 0xFFFFFFFFFF 2).wf = false := by decide
theorem test_wf_write_empty : (Instr.bar2Write 1 0 [] false).wf = false := by decide
theorem test_wf_no_records : (Instr.chainRecordArrival ⟨1, 0, 0⟩ 0 []).wf = false := by decide
theorem test_wf_nine_records :
    (Instr.chainRecordArrival ⟨1, 0, 0⟩ 0 (List.replicate 9 (List.replicate 32 0, false))).wf = false := by decide
theorem test_wf_record_length : (Instr.chainRecordArrival ⟨1, 0, 0⟩ 0 [([0], false)]).wf = false := by decide
theorem test_wf_rails : (Instr.capInterval ⟨[], 0, [0, 0, 0, 0], 0, []⟩).wf = false := by decide
theorem test_wf_partitions :
    (Instr.capInterval ⟨List.replicate 36 ⟨0, 0, 0⟩, 0, [0], 0, []⟩).wf = false := by decide
theorem test_wf_shares :
    (Instr.capInterval ⟨List.replicate 36 ⟨0, 0, 0⟩, 0, [0, 0, 0, 0], 0, [(0, [0], 0)]⟩).wf = false := by decide
theorem test_wf_bar2_size : (Instr.configurationRequest (.bar2Size 0 41)).wf = false := by decide
theorem test_wf_no_second_pf_ring : (Instr.ringFetch 0 1).wf = false := by decide
theorem test_wf_grant_twice : (Instr.regulatorGrant (.pcieOut) [(0, 1), (0, 2)]).wf = false := by decide
theorem test_wf_fingerprint : (Instr.perstDeassert (List.replicate 4097 0)).wf = false := by decide +kernel
theorem test_wf_sensors : (Instr.thermalReading []).wf = false := by decide
theorem test_wf_empty_message : (Instr.getVersion .pcie []).wf = false := by decide

/-! ## States that meet the hypotheses of the statements -/

/-- A state with these registers away from their reset values. -/
def st (regs : List (Nat × W64)) : State := { State.reset with regs := regs }

/-- A command of the first VF's work ring. -/
def cid : CmdId := ⟨1, 0, 5⟩

/-- A ring command with its parameter words, just started. -/
def cmdOf (op : Nat) (ps : List Nat) : Cmd :=
  { Cmd.fresh cid ((op :: 0 :: (ps ++ List.replicate (6 - ps.length) 0)).map (BitVec.ofNat 64)) false false 0 with
    phase := .started }

/-- A command that has issued its work, one piece outstanding. -/
def issuedOf (op : Nat) (ps : List Nat) : Cmd := { cmdOf op ps with phase := .issued, pending := 1 }

/-- The state in which that command is the only one held. -/
def withCmd (s : State) (x : Cmd) : State := { s with cmds := [x] }

/-- A running module: RUN, the first partition's job running, node 1, the VFs enabled. -/
def up : State := { st [(modStateOff, 5), (cmdJobStateOff 0, 1), (fabNodeOff, 1)] with vfEnable := true }

/-- The lane of VE 0 with four registers set. -/
def laneOf (s : State) (r0 r1 r2 r3 : W64) : State :=
  s.setLane 0 { s.lane 0 with regs := (((s.lane 0).regs.set 0 r0).set 1 r1).set 3 r2 |>.set 4 r3 }

/-- The partition's cache holds no byte of `[a, a + n)`. -/
def Cacheless (s : State) (p a n : Nat) : Prop := ∀ i, i < n → s.cacheSlot p (a + i) = none

theorem cacheless_lines_good {s : State} {p a n : Nat} (h : Cacheless s p a n) : s.linesGood p a n := by
  intro i hi key l w hk
  rw [h i hi] at hk
  cases hk

theorem test_meets_StepRunsFrontCommand : ({ up with pending := [.supplyLoss] }).pending = .supplyLoss :: [] := rfl

/-- 1.0, 2.0 and 3.0 in FP32. -/
def three : State := laneOf up 0x3F800000 0x40000000 0x40400000 0

theorem test_meets_IntegerOpsCompute : LaneReady up 0 [(mop 2 0).a, (mop 2 0).b] ∧ LaneReady up 0 [(mop 3 0).a, (mop 3 0).b] := by
  unfold LaneReady; decide

theorem test_meets_ArithmeticOpsRoundOnce :
    LaneReady three 0 [0, 1, 3] ∧ srcVal three 0 (mop 0 0) 0 = .fin false 1 ∧ srcVal three 0 (mop 0 0) 1 = .fin false 2 ∧
    srcVal three 0 (mop 0 0) 3 = .fin false 3 := by
  unfold LaneReady; decide +kernel

theorem test_meets_ArithmeticOpsRoundOnce_special :
    (srcVal (laneOf up 0x7FC00000 0 0 0) 0 (mop 0 0) 0).isNan = true ∧
    srcVal (laneOf up 0x7F800000 0xFF800000 0 0) 0 (mop 0 0) 0 = .inf false ∧
    srcVal (laneOf up 0x7F800000 0xFF800000 0 0) 0 (mop 0 0) 1 = .inf true ∧
    srcVal (laneOf up 0x3F800000 0xBF800000 0 0) 0 (mop 0 0) 1 = .fin true 1 ∧ srcVal up 0 (mop 0 0) 0 = .fin false 0 := by
  decide +kernel

theorem test_meets_ElementaryOpsRoundOnce :
    LaneReady up 0 [0] ∧ srcVal up 0 (mop 0 0) 0 = .fin false 0 ∧
    srcVal (laneOf up 0xBF800000 0 0 0) 0 (mop 0 0) 0 = .fin true 1 ∧
    srcVal (laneOf up 0x7F800000 0 0 0) 0 (mop 0 0) 0 = .inf false ∧
    srcVal (laneOf up 0xFF800000 0 0 0) 0 (mop 0 0) 0 = .inf true := by
  unfold LaneReady; decide +kernel

theorem test_meets_MovesComparesAndSigns :
    LaneReady three 0 [0, 1] ∧ fvLt true (srcVal three 0 (mop 0 0) 0) (srcVal three 0 (mop 0 0) 1) = true ∧
    (srcVal (laneOf up 0x3F800000 0x7FC00000 0 0) 0 (mop 0 0) 1).isNan = true := by
  unfold LaneReady; decide +kernel

theorem test_meets_ConversionOps :
    LaneReady three 0 [0, 1] ∧ (fpOf 0#2).decode (((three.lane 0).reg 0).setWidth 32 : W32).toNat = .fin false 1 := by
  unfold LaneReady; decide +kernel

/-- VE 0 with one FP32 stream at the start of the first partition's gallery. -/
def streaming : State := three.setLane 0 { three.lane 0 with
  hdr := { VHeader.empty with streams := [⟨BitVec.ofNat 64 galBase, 0, 0, 0, true, false, false, 0, 0xFFFF, 0⟩] } }

theorem test_meets_LoadAndStoreCopyTheElement :
    LaneReady streaming 0 [] ∧ ((streaming.lane 0).hdr.streamAt 0).mode = 0 ∧
    sameReg ((streaming.lane 0).hdr.streamAt 0).format 0 = true ∧ ((streaming.lane 0).hdr.streamAt 0).slot = 0xFFFF ∧
    streaming.elemAddr 0 (mop 0 0) = galBase ∧ streaming.refused 0 galBase 4 = none ∧ streaming.cleanAt galBase 4 ∧
    streaming.sigmaOf 0 0xFFFF = 0 ∧ streaming.calm ∧ Cacheless streaming 0 galBase 4 := by
  unfold LaneReady State.cleanAt State.calm Cacheless; decide +kernel

theorem test_meets_ReductionOpsAddALeaf : LaneReady three 0 [0] ∧ srcVal three 0 (mop 0 0) 0 = .fin false 1 := by
  unfold LaneReady; decide +kernel

theorem test_meets_PoisonBitesWhereAnOpComputes :
    let s := up.setLane 0 { up.lane 0 with marks := [(0, 64)] }
    (s.lane 0).stopped = false ∧ keyGet (s.lane 0).marks 0 = some 64 := by decide +kernel

/-! ### Rings, commands and jobs -/

theorem test_meets_SimpleAndRefusedCommands :
    (Begun (withCmd up (cmdOf 0 [])) cid 0 (cmdOf 0 []) ∧ ZeroFrom (cmdOf 0 []) 0) ∧
    (Begun (withCmd up (cmdOf 1 [0, 2])) cid 1 (cmdOf 1 [0, 2]) ∧ ZeroFrom (cmdOf 1 [0, 2]) 2) ∧
    (Begun (withCmd up (cmdOf 3 [2])) cid 3 (cmdOf 3 [2]) ∧ 2 ≤ (cmdOf 3 [2]).par 0) ∧
    (Begun (withCmd up (cmdOf 3 [1])) cid 3 (cmdOf 3 [1]) ∧ up.jobState cid.p ≠ jClosed) ∧
    (Begun (withCmd up (cmdOf 9 [])) cid 9 (cmdOf 9 []) ∧ up.modState ≠ mStandby) := by
  unfold Begun ZeroFrom State.calm; decide +kernel

theorem test_plain_registers : PlainReg 1 (cmdGateNormOff 0) ∧ PlainReg 1 (cmdGateStatusOff 0) := by
  refine ⟨⟨(regAt (cmdGateNormOff 0)).get (by decide +kernel), ?_⟩, ⟨(regAt (cmdGateStatusOff 0)).get (by decide +kernel), ?_⟩⟩ <;>
    decide +kernel

/-- READY, with every job closed. -/
def ready : State := st [(modStateOff, 4), (fabNodeOff, 1)]

/-- The first partition's job held by the host. -/
def heldUp : State :=
  { st [(modStateOff, 6), (cmdJobStateOff 0, 2)] with jobs := [(0, { Job.empty with holdByHost := true })] }

theorem test_meets_JobsOpenHoldReleaseAndClose :
    (Begun (withCmd ready (cmdOf 3 [1])) cid 3 (cmdOf 3 [1]) ∧ ZeroFrom (cmdOf 3 [1]) 1 ∧ ready.jobState cid.p = jClosed ∧
      ready.modState = mReady) ∧
    (Begun (withCmd heldUp (cmdOf 6 [])) cid 6 (cmdOf 6 []) ∧ heldUp.jobState cid.p = jHeld ∧
      (heldUp.job cid.p).holdByHost = true ∧ heldUp.modState = mHeld) ∧
    (Begun (withCmd up (cmdOf 5 [])) cid 5 (cmdOf 5 []) ∧ up.jobState cid.p = jRun ∧ up.modState = mRun) ∧
    (Begun (withCmd up (cmdOf 4 [])) cid 4 (cmdOf 4 []) ∧ ZeroFrom (cmdOf 4 []) 0 ∧ up.jobState cid.p ≠ jClosed) := by
  unfold Begun ZeroFrom State.calm; decide +kernel

/-- The module in STANDBY. -/
def standby : State := st [(modStateOff, 3), (fabNodeOff, 1)]

theorem test_meets_ModuleAndPowerStates :
    (Begun (withCmd standby (cmdOf 9 [])) cid 9 (cmdOf 9 []) ∧ standby.modState = mStandby ∧ standby.fld pwrStateOff 3 0 ≤ 3) ∧
    (Begun (withCmd ready (cmdOf 10 [])) cid 10 (cmdOf 10 []) ∧ ready.modState = mReady ∧ ∀ p, p < 4 → ready.jobState p = jClosed) ∧
    (let s := withCmd standby (cmdOf 11 [8])
     Begun s cid 11 (cmdOf 11 [8]) ∧ ZeroFrom (cmdOf 11 [8]) 1 ∧ s.legal (cmdOf 11 [8]) = true ∧ s.power.powerCmd = none) ∧
    (let s := { withCmd standby (issuedOf 11 [8]) with power := { Power.reset with powerCmd := some cid } }
     s.power.powerCmd = some cid ∧ s.cmd cid = some (issuedOf 11 [8]) ∧ s.fld pwrStateOff 7 4 ≠ 9 ∧ s.calm) ∧
    ((up.setFld pwrStateOff 7 4 9).fld pwrStateOff 7 4 = 9) := by
  unfold Begun ZeroFrom State.calm; decide +kernel

/-- The first VF's work ring is on, with one entry: a NOP of sequence 0. -/
def ringing : State := st [(modStateOff, 5), (cmdJobStateOff 0, 1), (cmdRingCfgOff 1 0, 0x80000000), (cmdRingTailOff 1 0, 1)]

theorem test_meets_RingRegistersWritten :
    up.mayPage 1 1 = true ∧ ((1 : W32) - BitVec.ofNat 32 (up.fld (cmdRingHeadOff 1 0) 31 0)).toNat ≤ 64 ∧
    64 < ((65 : W32) - BitVec.ofNat 32 (up.fld (cmdRingHeadOff 1 0) 31 0)).toNat := by decide +kernel

theorem test_meets_RingFetchConsumesInOrder :
    let words := wordsOf (ringing.hostRead 0 64)
    ringing.fetches 1 0 = true ∧ (ringing.reg (cmdRingBaseOff 1 0)).toNat % 2 = 0 ∧
    (words.getD 0 0).toNat / 2 ^ 32 = ringing.fld (cmdRingSeqOff 1 0) 31 0 ∧ ringing.cmd ⟨1, 0, 0⟩ = none ∧
    ringing.bit (kprCtrlOff 0) 0 = false ∧ ringing.refusal (Cmd.fresh ⟨1, 0, 0⟩ words false false (ringing.energyOf 0 words)) = none ∧
    (ringing.setReg (cmdRingSeqOff 1 0) 1).fetches 1 0 = true := by decide +kernel

theorem test_meets_CommandStartTakesEngines :
    let x := { cmdOf 0 [] with phase := .consumed }
    let s := withCmd ringing x
    let y := { cmdOf 0x21 [galBase, 1] with phase := .consumed }
    let t := withCmd ringing y
    s.cmd cid = some x ∧ s.ready x = true ∧ s.granted x = true ∧ s.mailboxFree x = true ∧
    t.cmd cid = some y ∧ t.ready y = true ∧ t.granted y = true ∧ t.mailboxFree y = true ∧ t.needs y = [96] := by decide +kernel

theorem test_meets_CompletionWritesTheRecord :
    let x := { cmdOf 0 [] with phase := .ended, status := stAbandoned }
    let s := withCmd up x
    s.cmd cid = some x ∧ x.phase = .ended ∧ x.status = stAbandoned ∧ x.cmplLocal = false ∧ x.word 1 % 16 = 0 := by
  decide +kernel

theorem test_meets_MailboxesAndEventRingRegisters :
    let s := up.setReg (cmdMboxOff 1 0) 2
    s.mayPage 1 1 = true ∧ s.fld (cmdMboxOff 1 0) 1 0 = 2 ∧ up.fld (cmdMboxOff 1 0) 1 0 ≠ 2 ∧
    up.bit (cmdEvCfgOff 0) 31 = false ∧ up.heldLost = 0 ∧ up.heldEv.length ≤ 8 := by decide +kernel

/-- The second partition owns a granule. -/
def granule : State := up.setReg (hbmOwnOff 0 1) 5

theorem test_meets_Bar2ReachesOwnMemory :
    up.inBar2 1 0xC000000000 = true ∧ (up.func 1).bar2 = 40 ∧ partOf 1 = some 0 ∧ up.refused 0 galBase 4 = none ∧
    up.cleanAt galBase 4 ∧ granule.refused 0 0x40000000 4 = some 0x40000000 ∧ granule.inBar2 1 0x40000000 = true ∧
    up.inBar2 1 0xC600000000 = true ∧ up.calm ∧ Cacheless up (up.bar2Part galBase) galBase 4 ∧
    firstPoison galBase (((up.writeMem galBase (List.replicate 8 (0, true))).readMem galBase 4).1) = some galBase := by
  unfold State.cleanAt State.calm Cacheless; decide +kernel

theorem test_meets_FunctionsResetAndConfigured : mStandby ≤ standby.modState ∧ partOf 2 = some 1 := by decide +kernel

/-! ### Time, power, reset and boot -/

theorem test_meets_TimePasses :
    up.pending = [] ∧ up.timeSub < 1000000 ∧ State.reset.modState < mBoot ∧
    (let s := up.setReg modPpsOff 0; mBoot ≤ s.modState ∧ s.bit modPpsOff 0 = false) ∧
    (up.bit modPpsOff 0 = true ∧ up.bit modPpsOff 16 = false ∧ (up.reg modTimeOff).toNat ≤ 2 ^ 64 - 10 ^ 9) ∧
    (up.setBit modPpsOff 16).bit modPpsOff 16 = true ∧
    (let s := st [(modStateOff, 2), (modPpsOff, 0)]
     mBoot ≤ s.modState ∧ s.modState < mStandby ∧ s.yielded = [] ∧ s.bit modPpsOff 0 = false) := by decide +kernel

/-- An interval in which every rail carries 1 A and the partitions share the estimate. -/
def sample : CapSample := ⟨List.replicate 36 ⟨1000, 100, 1000⟩, 10, [1, 2, 3, 4], 5, []⟩

theorem test_meets_PowerIsRegulated :
    mBoot ≤ up.modState ∧ Island.host ∉ up.power.stretched ∧ up.power.inRange = true ∧ up.bit pwrCalOff 31 = false ∧
    sample.rails.length = 36 ∧ sample.estPart.length = 4 ∧ sample.wf = true := by decide +kernel

theorem test_meets_StopsResetsAndFaults :
    mBoot ≤ up.modState ∧ up.modState = mRun ∧ (10 * up.fld pwrThermOff 31 24 : Int) ≤ 2000 ∧
    (10 * up.fld pwrThermOff 23 16 : Int) ≤ 10 * up.fld pwrThermOff 31 24 ∧ up.pins.powered = true ∧
    up.modState ≠ mOff ∧ up.hostUp 0 = true ∧ State.reset.modState = mReset := by decide +kernel

theorem test_meets_BootEndsInStandbyOrStops :
    State.reset.modState = mReset ∧ State.reset.boot.minDone = false ∧ State.reset.pins.perst = true ∧
    (st [(modStateOff, 2)]).modState = mBoot ∧ (st [(modStateOff, 2)]).slotCheck 0 ≠ 0 := by decide +kernel

theorem test_meets_FirmwareUpdateRollbackAndDaymark :
    up.hostUp 0 = true ∧ up.bit bootUpdCtrlOff 1 = false ∧ up.modState ≠ mStandby ∧ standby.modState = mStandby ∧
    (standby.setReg bootUpdAddrOff 1).fld bootUpdAddrOff 47 0 % 4096 ≠ 0 ∧
    (let s := { standby.setBit bootUpdCtrlOff 1 with boot := { Boot.reset with updSlot := some 1 } }
     s.boot.updSlot = some 1 ∧ s.boot.updImage.length ≤ 0x2000000) := by decide +kernel

/-! ### Registers, pools, regions, regulators and stored data -/

/-- The register at an offset, for the proofs that there is one. -/
def regHere (o : Nat) (h : (regAt o).isSome = true) : RegHit := (regAt o).get h

theorem test_meets_RegisterWritesFollowAccessCodes :
    (let h := regHere pwrCapOff (by decide +kernel)
     up.hostUp 0 = true ∧ regAt pwrCapOff = some h ∧ mayWrite 0 h = true ∧ mayWrite 1 h = false ∧ h.desc.width = 64 ∧
       ∃ f ∈ h.desc.flds, f.acc = .rw ∧ f.lo ≤ f.hi ∧ f.hi < 64 ∧ h.desc.flds.count f = 1 ∧
         ∀ g ∈ h.desc.flds, g.lo ≤ g.hi ∧ (g = f ∨ g.hi < f.lo ∨ f.hi < g.lo)) ∧
    regAt 0x3FFFFFC = none := by decide +kernel

/-- The first partition's pool 0 is on, with one buffer of class 0 in its list. -/
def pooled : State :=
  { st [(modStateOff, 5), (galPoolCtrlOff 0 0, 2), (galPoolSideOff 0 0, BitVec.ofNat 64 (galBase + 0x1000000)),
        (galPoolBaseOff 0 0 0, BitVec.ofNat 64 galBase), (galPoolSizeOff 0 0 0, 0x0000000100000001),
        (galPoolHeadOff 0 0 0, BitVec.ofNat 64 galBase), (galPoolFreeOff 0 0 0, 1)] with
    pools := [(0, { live := [1, 0, 0, 0], broken := [], init := none, pend := false })], vfEnable := true }

theorem test_meets_PoolsInitialiseGrantAndFree :
    up.mayPart 0 0 = true ∧ up.bit (galPoolCtrlOff 0 0) 0 = false ∧
    ({ pooled with pools := [(0, ⟨[1, 0, 0, 0], [], some true, false⟩)] }.pool 0 0).init = some true ∧
    ({ pooled with pools := [(0, ⟨[1, 0, 0, 0], [], some false, false⟩)] }.pool 0 0).init = some false ∧
    (let x := { pooled with pools := [(0, ⟨[1, 0, 0, 0], [], none, true⟩)] }.pool 0 0
     x.pend = true ∧ x.live.length = 4) ∧ pooled.cleanAt galBase 8 ∧ pooled.cleanAt (galBase + 0x1000000) 1 ∧
    pooled.bit (galPoolCtrlOff 0 0) 1 = true ∧ pooled.mayPart 1 0 = true ∧ pooled.bit (galPoolGrantOff 0 0) 63 = false ∧
    pooled.fld (galPoolHeadOff 0 0 0) 47 0 = galBase ∧ pooled.peek galBase 8 = 0 ∧
    pooled.poolFind 0 0 galBase = some (0, 0) ∧ pooled.poolFind 0 0 (galBase + 1) = none ∧
    (up.bit (galPoolGrantOff 0 0) 63 = false ∧ up.bit (galPoolCtrlOff 0 0) 1 = false) := by
  unfold State.cleanAt; decide +kernel

theorem test_meets_RegionsChangeOwner :
    up.mayMod 0 = true ∧ (up.changes.find? fun c => c.1 == RegionId.granule 0 1) = none ∧
    (let s := { up with changes := [(.granule 0 1, 5)] }
     (s.changes.find? fun c => c.1 == RegionId.granule 0 1) = some (.granule 0 1, 5) ∧ s.partRunning 1 = false) ∧
    (let s := { withCmd up { cmdOf 0 [] with phase := .issued } with changes := [(.gallery 0 1, 4)] }
     s.partRunning 0 = true) := by decide +kernel

theorem test_meets_RegulatorsGrantByClass :
    (let c := (resRegs .pcieOut 0).1
     up.bit c 16 = false ∧ (up.setBit c 16).bit c 16 = true ∧ (up.setBit c 16).bucket .pcieOut 0 < 1000000 * 3072 ∧
       0 * 3072 ≤ (up.setBit c 16).bucket .pcieOut 0 ∧ ((up.setBit c 16).setBit c 17).bit c 17 = true) ∧
    (let s := up.setFld (resRegs .pcieOut 0).1 19 18 1
     s.bit (resRegs .pcieOut 0).1 16 = false ∧ s.fld (resRegs .pcieOut 1).1 19 18 < s.fld (resRegs .pcieOut 0).1 19 18) := by
  decide +kernel

theorem test_meets_TestPortAndPatrol :
    (let s := up.setReg modChkAddrOff (BitVec.ofNat 64 galBase)
     s.mayMod 0 = true ∧ (0x80 : W32).getLsbD 7 = true ∧ s.chkTarget galBase = true ∧ s.fld modChkAddrOff 47 0 = galBase) ∧
    (up.setReg modChkAddrOff 1).chkTarget 1 = false ∧
    (let s := up.setReg (hbmScrubOff 0 0) 1
     s.fld (hbmScrubOff 0 0) 7 0 ≠ 0 ∧ s.patrolPos (.hbm 0 0) < 0x60000000) ∧
    (let s := up.setReg (galScrubOff 0) 1
     s.fld (galScrubOff 0) 7 0 ≠ 0 ∧ s.patrolPos (.gallery 0) < 0x1800000) := by decide +kernel

/-! ### Ports, the router and fabric operations -/

/-- Port 0 is UP, and the first bank sends node 2 there. -/
def linked : State :=
  { up with regs := [(modStateOff, 5), (cmdJobStateOff 0, 1), (fabNodeOff, 1), (fabPortStatusOff 0, 2),
      (fabPortCtrlOff 0, 1), (fabLlLocalOff 0 2, 0x80), (fabLlLocalOff 1 2, 0x80)] }

/-- Port 0 in a state with the record `x`. -/
def withPort (s : State) (state : W64) (x : PortState) : State :=
  { s.setReg (fabPortStatusOff 0) state with fabric := { s.fabric with ports := [(0, x)] } }

theorem test_meets_PortsAndRoutes :
    linked.mayMod 0 = true ∧ linked.fld (fabPortStatusOff 0) 1 0 = 2 ∧ up.fld (fabPortStatusOff 0) 1 0 = 0 ∧
    (let s := up.setBit (fabPortCtrlOff 0) 0
     s.bit (fabPortCtrlOff 0) 0 = true ∧ s.fld fabNodeOff 15 0 ≠ 0xFFFF ∧ s.fld pwrStateOff 3 0 ≠ 9 ∧ mStandby ≤ s.modState ∧
       s.fld (fabPortStatusOff 0) 1 0 = 0) ∧
    (let s := withPort up 1 PortState.down
     s.fld (fabPortStatusOff 0) 1 0 = 1 ∧ (s.portAt 0).trained = false) ∧
    (∀ peer : Bool, let s := withPort up 1 { PortState.down with trained := true, peerReady := peer }
     s.fld (fabPortStatusOff 0) 1 0 = 1 ∧ (s.portAt 0).trained = true ∧ (s.portAt 0).dirty = false ∧
       (s.portAt 0).peerReady = peer) ∧
    (let s := withPort up 1 { PortState.down with trained := true, dirty := true }
     s.fld (fabPortStatusOff 0) 1 0 = 1 ∧ (s.portAt 0).trained = true ∧ (s.portAt 0).dirty = true) ∧
    (let s := withPort up 2 { PortState.down with sinceLink := 6144, errors := List.replicate 32 0 }
     s.fld (fabPortStatusOff 0) 1 0 = 2 ∧ 6144 ≤ (s.portAt 0).sinceLink ∧ 32 ≤ (s.portAt 0).errors.length) ∧
    ((withPort up 2 { PortState.down with sinceLink := 6143, errors := List.replicate 31 0 }).portAt 0).sinceLink < 6144 ∧
    up.bit fabLlCtrlOff 3 = false ∧ standby.modState = mStandby := by decide +kernel

/-- Send half 0 to node 2, open. -/
def half : SendHalf := ⟨2, 0, 0, 0, 0, 0, 0, 64, 0, [], .open_, 0, none, 0, false⟩

theorem test_meets_PortsAndRoutes_slots :
    (let s := withPort up 2 { PortState.down with leaving := some 1 }
     mStandby ≤ s.modState ∧ s.nothingWaits ∧ s.fld (fabPortStatusOff 0) 1 0 = 2 ∧ (s.portAt 0).leaving = some 1 ∧
       (s.portAt 1).leaving = none) ∧
    (let s := { up with fabric := { Fabric.reset with send := [(0, { half with life := .lost })] } }
     s.mayMod 0 = true ∧ s.fabric.waiting = [] ∧ s.bit (kprCtrlOff 0) 0 = false ∧ half.node = 2) ∧
    (let x := { Takeover.fresh 3 2 false 0 none 2 false with route := some false }
     let s := { up.setFld fabLlCtrlOff 14 12 7 with
       keeper := { State.reset.keeper with parts := [(0, { KeeperPart.empty with takeovers := [x] })] } }
     (s.kpart 0).takeovers.find? (fun k => k.route.isSome) = some x ∧ x.mine = false ∧ s.fabric.waiting = [] ∧
       s.fabric.mcRuns = [] ∧ s.drained % 8 = 7 ∧ s.bit fabLlCtrlOff 3 = false ∧ up.drained % 8 ≠ 7) := by
  unfold State.nothingWaits; decide +kernel

/-- A request from node 2 to this module with `n` payload bytes. -/
def request (op : BitVec 6) (off n m : Nat) : Packet :=
  { Packet.zero with
    dst := 1, src := 2, op := op, offset := BitVec.ofNat 48 off, len := BitVec.ofNat 8 n,
    payload := List.replicate m 1 }

theorem test_meets_RouterMovesPackets :
    (let pk := { request 3 galBase 8 8 with dst := 2 }
     let a : Arrival := ⟨0, frameOf pk, 0, 0⟩
     mStandby ≤ linked.modState ∧ linked.fld (fabPortStatusOff a.port.val) 1 0 = 2 ∧
       linked.bit (fabPortCtrlOff a.port.val) 3 = false ∧ a.hdrParity ≠ 3 ∧ a.secParity = 0 ∧
       (linkDecode a.bytes).map (·.2) = some 0 ∧
       ((linkDecode a.bytes).map fun d => packetOf (d.1.take 160)) = some (pk, packetCheck pk) ∧
       ((linkDecode a.bytes).map fun d => checkOf pk ((d.1.drop 32).take 128)) = some (packetCheck pk) ∧ isMcast pk = false ∧
       linked.here pk.dst.toNat = false ∧ (linked.llPorts (linked.bankFor pk) 2).filter linked.portCarries = [0]) ∧
    linked.nothingWaits ∧ linked.bit fabLlCtrlOff 1 = false ∧ linked.here 1 = true ∧ linked.ejects = true := by
  unfold State.nothingWaits; decide +kernel

theorem test_meets_RouterMovesPackets_ports :
    (∀ q, linked.linkDue q = false) ∧ ∀ q, (linked.portAt q).leaving = none :=
  ⟨fun q => Bool.and_false (linked.portCarries q), fun _ => rfl⟩

/-- A multicast packet has waited 16 slots at the first injection port. -/
def casting : State :=
  { linked with
    regs := linked.regs ++ [(fabMcgMaskOff 1, 1)]
    fabric := { Fabric.reset with injq := [(0, [⟨{ request 8 galBase 8 8 with dst := 0xFFFF, mcg := 1 }, 16⟩])] } }

theorem test_meets_RouterMovesPackets_forced :
    (let s := withPort linked 2 { PortState.down with run := 2047 }
     s.portIs 0 = 2 ∧ 2047 ≤ (s.portAt 0).run) ∧
    (let x : InjPkt := ⟨{ request 8 galBase 8 8 with dst := 0xFFFF, mcg := 1 }, 16⟩
     casting.injQueue 0 = [x] ∧ (∀ l, l < 8 → l ≠ 0 → casting.injQueue l = []) ∧ casting.fabric.waiting = [] ∧ 16 ≤ x.wait ∧
       casting.injClear 0 [] x.pk = true ∧ casting.bit fabLlCtrlOff 1 = false ∧
       (casting.copies 1).filter (casting.copyFree ⟨[], List.replicate 8 0, none⟩ x.pk) ≠ []) := by
  decide +kernel

theorem test_meets_RouterMovesPackets_forced_ports :
    (∀ l, l ≠ 0 → casting.injQueue l = []) ∧ (∀ q, casting.linkDue q = false) ∧ ∀ q, (casting.portAt q).leaving = none := by
  refine ⟨fun l h => ?_, fun q => Bool.and_false (casting.portCarries q), fun _ => rfl⟩
  cases l with
  | zero => exact absurd rfl h
  | succ n => rfl

theorem test_meets_RequestsReadAndWrite :
    (∀ op ∈ ([0x00, 0x01, 0x03, 0x04] : List (BitVec 6)), let pk := request op galBase 128 (if op.toNat ≤ 1 then 0 else 128)
      Arrives linked pk op ∧ NewRequest linked pk ∧ pk.rsvd = 0 ∧ linked.refused 0 galBase 128 = none) ∧
    linked.splitDup 0 galBase = none ∧ linked.cleanAt galBase 128 ∧ Cacheless linked 0 galBase 128 := by
  unfold Arrives NewRequest State.cleanAt State.calm Cacheless; decide +kernel

theorem test_meets_RequestsActAtHome :
    (∀ op ∈ ([0x05, 0x06] : List (BitVec 6)), let pk := { request op galBase 8 8 with rtype := 12 }
      Arrives linked pk op ∧ NewRequest linked pk ∧ redType pk.rtype.toNat = some .uint64 ∧
      redAllowed 0 (some .uint64) galBase 8 = true ∧ linked.refused 0 galBase 8 = none) ∧
    linked.cleanAt galBase 8 ∧ Cacheless linked 0 galBase 8 := by
  unfold Arrives NewRequest State.calm State.cleanAt Cacheless; decide +kernel

/-- An XALLOC of class 0, and the pool at a module that a fabric reaches. -/
def alloc : Packet := { request 0x0C 0 8 8 with payload := natLe 8 0 }
def allocating : State := { pooled with regs := linked.regs ++ pooled.regs }

theorem test_meets_RequestsActAtHome_xalloc :
    Arrives allocating alloc 0x0C ∧ NewRequest allocating alloc ∧ (allocating.poolAlloc 0 0 0).2 = some (0, galBase) ∧
    (linked.poolAlloc 0 0 0).2 = none ∧ pkWord alloc 0 < 4 := by
  unfold Arrives NewRequest State.calm; decide +kernel

/-- An XCOMMIT of the buffer that an XALLOC granted. -/
def commit : Packet := { request 0x0E galBase 16 16 with payload := natLe 8 galBase ++ natLe 8 7 }
def committing : State := { linked with xallocs := [(galBase, 0)] }

theorem test_meets_RequestsActAtHome_xcommit :
    Arrives committing commit 0x0E ∧ NewRequest committing commit ∧ pkWord commit 0 = galBase ∧
    (committing.halfFor commit).commitReady commit.seq = true ∧ keyGet committing.xallocs galBase = some 0 ∧
    committing.refused 0 galBase 1 = none ∧ committing.exchDone = [] ∧ committing.cleanAt (galBase + 4) 12 := by
  unfold Arrives NewRequest State.calm State.cleanAt; decide +kernel

theorem test_meets_RequestsActAtHome_gcommit_close :
    (let pk := { request 0x0F galBase 32 32 with payload := List.replicate 32 0 }
     Arrives linked pk 0x0F ∧ NewRequest linked pk ∧ pkWord pk 2 < 2 ^ 34 ∧ pkWord pk 3 = 0 ∧
       (linked.halfFor pk).commitReady pk.seq = true) ∧
    (let pk := request 0x12 0 0 0
     Arrives linked pk 0x12 ∧ NewRequest linked pk) := by
  unfold Arrives NewRequest State.calm; decide +kernel

/-- The module with one receive half, that of the request. -/
def served (pk : Packet) (h : RecvHalf) : State :=
  { linked with fabric := { Fabric.reset with recv := [(recvKey pk, h)] } }

theorem test_meets_RequestsRefusedOrRepeated :
    (let pk := { request 3 galBase 8 8 with part := 1 }
     Arrives linked pk 3 ∧ NewRequest linked pk ∧ linked.refused 1 galBase 8 = some galBase) ∧
    (let pk := { request 3 galBase 8 8 with rsvd := 1 }
     Arrives linked pk 3 ∧ NewRequest linked pk ∧ pk.rsvd ≠ 0) ∧
    (let pk := request 3 galBase 8 8
     let h : RecvHalf := ⟨0, 100, 1, [], false, [], [], false⟩
     keyGet (served pk h).fabric.recv (recvKey pk) = some h ∧ 64 ≤ (h.top - pk.seq).toNat ∧
       2 ^ 23 ≤ (pk.seq - h.top).toNat ∧ Arrives (served pk h) pk 3) := by
  unfold Arrives NewRequest State.calm; decide +kernel

theorem test_meets_RequestsRefusedOrRepeated_again :
    (let pk := request 3 galBase 8 8
     let h : RecvHalf := ⟨0, 0, 1, [], false, [⟨0, 0, []⟩], [], false⟩
     RepeatedRequest (served pk h) pk h ∧ Arrives (served pk h) pk 3 ∧
       h.codes.find? (fun x => x.seq == pk.seq) = some ⟨0, 0, []⟩) ∧
    (∀ rs ∈ ([[], [⟨0, 0, clean [1, 2, 3, 4, 5, 6, 7, 8]⟩]] : List (List Retained)),
     let pk := request 6 galBase 8 8
     let h : RecvHalf := ⟨0, 0, 1, rs, false, [], [], false⟩
     RepeatedRequest (served pk h) pk h ∧ Arrives (served pk h) pk 6 ∧
       h.replies.find? (fun x => x.seq == pk.seq) = rs.head?) := by
  unfold Arrives RepeatedRequest State.calm; decide +kernel

theorem test_meets_RequestsRefusedOrRepeated_broken :
    ∀ q ∈ [(true, false), (false, true)], let pk := request 3 galBase 8 8
     let h : RecvHalf := ⟨0, 0, 1, [], q.1, [], [], q.2⟩
     keyGet (served pk h).fabric.recv (recvKey pk) = some h ∧ Arrives (served pk h) pk 3 := by
  unfold Arrives; decide +kernel

theorem test_meets_ReservedOperationCodesAreCounted :
    (let pk := request 0x0B galBase 8 8
     pk.op.toNat = 0x0B ∧ linked.ejects = true ∧ linked.here pk.dst.toNat = true) ∧ State.reset.ejects = false ∧
    linked.here 2 = false := by decide +kernel

theorem test_meets_MulticastAtMembers :
    linked.calm ∧ linked.cleanAt galBase 128 ∧ Cacheless linked 0 galBase 128 ∧
    (∀ op ∈ ([8, 9] : List (BitVec 6)), let pk := { request op galBase 128 128 with dst := 0xFFFF, mcg := 1 }
     let m := McRecv.fresh pk (pkGroup pk)
     linked.ejects = true ∧ (linked.mcHalfOf pk.src (pkGroup pk) pk.part).getD m = m ∧ linked.here pk.src.toNat = false ∧
       linked.refused 0 galBase 128 = none ∧ linked.splitDup 0 galBase = none ∧ m.flush = none) ∧
    (∀ n ∈ [0, 1], let pk := { request 10 0 8 8 with dst := 0xFFFF, mcg := 1, payload := natLe 8 n }
     let m := { McRecv.fresh pk (pkGroup pk) with flush := some pk }
     let s := { linked with fabric := { Fabric.reset with mcRecv := [m] } }
     s.mcHalfOf pk.src (pkGroup pk) pk.part = some m ∧ (n ≤ m.count ↔ n = 0) ∧ pkWord pk 0 = n ∧ m.src = pk.src ∧
       m.grp = pkGroup pk ∧ m.part = pk.part ∧ m.answer = none) ∧
    (let pk := { request 10 0 8 8 with dst := 0xFFFF, mcg := 1, payload := natLe 8 1 }
     let m := { McRecv.fresh pk (pkGroup pk) with answer := some (pk.seq, true, 1) }
     let s := { linked with fabric := { Fabric.reset with mcRecv := [m] } }
     (s.mcHalfOf pk.src (pkGroup pk) pk.part).getD m = m ∧ m.answer = some (pk.seq, true, 1)) := by
  unfold State.calm State.cleanAt Cacheless; decide +kernel

/-- A request of the command outstanding on send half 0 to node 2. -/
def asked (op : BitVec 6) (cont : Cont) : Req :=
  { pk := { Packet.zero with dst := 2, src := 1, op := op, offset := BitVec.ofNat 48 galBase, len := 8 }, cmd := some cid,
    ix := 0, cont := cont, lantern := 0, stripe := none, resends := 0, bounces := 0, backoff := false }

/-- The reply to it. -/
def reply (op : BitVec 6) (m : Nat) : Packet :=
  { Packet.zero with dst := 1, src := 2, op := op, len := BitVec.ofNat 8 m, payload := List.replicate m 0 }

/-- The state in which that request alone is outstanding, with one piece of the command left. -/
def asking (r : Req) : State :=
  { withCmd linked (issuedOf 0x13 []) with fabric := { Fabric.reset with flying := [r] } }

theorem test_meets_RepliesEndRequests :
    (let r := asked 0 (.toLocal galBase)
     ReplyMeets (asking r) (reply 2 8) 2 r ∧ (asking r).noPull ∧ (asking r).cleanAt galBase 8 ∧
       Cacheless (asking r) 0 galBase 8) ∧
    (let r := asked 6 .none; ReplyMeets (asking r) (reply 7 8) 7 r) ∧
    (let r := asked 3 .none; ReplyMeets (asking r) (reply 0x10 0) 0x10 r) ∧
    (let r := asked 0x0C (.xalloc 0)
     let x : XSend := ⟨0, cid, ⟨0, 2, 0⟩, 2, 0, 7, [1], [false], none, 0⟩
     ReplyMeets { asking r with xsends := [(0, x)] } (reply 0x0D 8) 0x0D r ∧ linked.lostTo 2 0 = false ∧
       x.poison.length = x.data.length ∧ linked.here 2 = false ∧
       linked.llPorts linked.injBank 2 ≠ []) ∧
    (let r := { asked 0x0A (.mflush 0) with cmd := none }
     let q : McRun := ⟨0, 1, 0, 0, some cid, 0, 0, [], true, [2], 0, []⟩
     let s := asking r
     let s := { s with fabric := { s.fabric with mcRuns := [q] } }
     s.flushRun (reply 0x10 8) = some q.id ∧ s.ejects = true ∧ s.here (reply 0x10 8).dst.toNat = true ∧
       q.members = [(reply 0x10 8).src] ∧ pkWord (reply 0x10 8) 0 % 2 = 0 ∧ s.fabric.waiting = [] ∧ s.halvesGood) ∧
    linked.answering (reply 2 8) = none ∧ linked.noPull := by
  unfold ReplyMeets State.noPull State.cleanAt State.halvesGood Cacheless; decide +kernel

theorem test_one_piece_left : OnePieceLeft (asking (asked 3 .none)) cid :=
  ⟨by unfold State.calm; decide +kernel, issuedOf 0x13 [], by decide +kernel⟩


theorem test_meets_FabricTimeouts :
    (let r := asked 3 .none
     let s := asking { r with resends := 3 }
     (asking r).flyingReq ⟨0, 0⟩ = some r ∧ r.resends < 3 ∧ s.flyingReq ⟨0, 0⟩ = some { r with resends := 3 } ∧ s.noPull ∧
       s.halvesGood ∧ s.fabric.waiting = []) ∧
    (let r := { asked 0 (.toLocal galBase) with resends := 3 }
     (asking r).flyingReq ⟨0, 0⟩ = some r ∧ r.pk.op = 0 ∧ r.pk.len ≠ 0 ∧ (asking r).calm ∧ (asking r).cleanAt galBase 8 ∧
       Cacheless (asking r) 0 galBase 8) ∧
    (let s := { (linked.setReg modTimeOff 0xFFFFFFFFFF) with fabric := { Fabric.reset with send := [(0, half)] } }
     keyGet s.fabric.send 0 = some half ∧ half.idleFor s.now s.idleNs = true ∧ half.idleFor linked.now linked.idleNs = false ∧
       s.halvesGood ∧ s.llPorts s.injBank half.node.toNat ≠ [] ∧ s.draining 2 = false) ∧
    (let r := { asked 3 .none with backoff := true, pk := { (asked 3 .none).pk with code := 4 } }
     let s := { withCmd linked (issuedOf 0x13 []) with fabric := { Fabric.reset with waiting := [r], send := [(0, half)] } }
     s.fld fabOpCtrlOff 15 0 ≠ 0 ∧ CanLaunch s { r with backoff := false } 0 half) ∧
    half.room 0x12 = true ∧ linked.gcOpen 0 0 0 = false ∧ linked.fld fabGcCtrlOff 15 0 ≠ 0 ∧
    keyGet ({ linked with xallocs := [(galBase, 0)] }).xallocs galBase = some 0 ∧ linked.fld (suExchTmoOff 0 0) 15 0 ≠ 0 := by
  unfold State.noPull CanLaunch State.halvesGood State.calm State.cleanAt Cacheless; decide +kernel

/-! ### Flags, copies, steps and the gate -/

/-- A global address at this module (node 1) and at node 2. -/
def here (a : Nat) : Nat := 2 ^ 48 + a
def there (a : Nat) : Nat := 2 * 2 ^ 48 + a

/-- A send half to node 2 for a request on the stripe of its offset. -/
def withHalf (s : State) : State := { s with fabric := { s.fabric with send := [(0, half)] } }

theorem test_meets_FlagsAreTestedAndSignalled :
    (let x := cmdOf 0x11 [galBase, 0, 0, 5]
     Fresh x ∧ Begun (withCmd up x) cid 0x11 x ∧ ZeroFrom x 4 ∧ up.refusedGal 0 galBase 8 = none ∧
       (withCmd up x).cleanAt galBase 8) ∧
    Cacheless up 0 galBase 8 ∧ up.calm ∧
    (let x := cmdOf 0x12 [here galBase, 7, 1]
     let s := withCmd linked x
     Begun s cid 0x12 x ∧ ZeroFrom x 3 ∧ s.here (x.par 0 / 2 ^ 48) = true ∧ x.par 0 / 2 ^ 48 ≠ 0xFFFF ∧
       s.refused 0 galBase 8 = none ∧ s.splitDup 0 galBase = none ∧ s.fabric = Fabric.reset) := by
  unfold Fresh Begun ZeroFrom State.cleanAt State.calm Cacheless; decide +kernel

theorem test_meets_FlagsAreTestedAndSignalled_elsewhere :
    let x := cmdOf 0x12 [there galBase, 7, 0]
    let s := withHalf (withCmd linked x)
    Begun s cid 0x12 x ∧ s.fabric.waiting = [] ∧
      CanLaunch s (cmdReq cid 0 0 .none (pkWith (pkTo 0x03 0 0 (there galBase)) (clean (natLe 8 7)))) 0 half := by
  unfold Begun State.calm CanLaunch State.halvesGood; decide +kernel

theorem test_flag_poisoned :
    (up.writeMem galBase (List.replicate 8 (0, true))).byteRead galBase = [(0, true)] := by decide +kernel

theorem test_meets_CopiesAndConversions :
    (let x := cmdOf 0x13 [here galBase, here (galBase + 128), 8, 0]
     let s := withCmd linked x
     Begun s cid 0x13 x ∧ ZeroFrom x 4 ∧ s.here 1 = true ∧ s.refused 0 galBase 8 = none ∧ s.cleanAt galBase 8 ∧
       s.refused 0 (galBase + 128) 8 = none ∧ s.cleanAt (galBase + 128) 8 ∧ s.hasYielded cid = false ∧ s.fabric.waiting = []) ∧
    Cacheless linked 0 galBase 256 ∧ (cmdOf 0x13 [here galBase, there galBase, 8, 3]).par 3 % 4 = 3 := by
  unfold Begun ZeroFrom State.cleanAt State.calm Cacheless; decide +kernel

theorem test_meets_CopiesAndConversions_elsewhere :
    (let x := cmdOf 0x13 [here galBase, there galBase, 8, 0]
     let s := withHalf (withCmd linked x)
     Begun s cid 0x13 x ∧
       CanLaunch s (cmdReq cid 0 (s.dmaLan cid) .none (pkWith (pkTo 0x03 0 0 (there galBase)) (s.bytesRead galBase 8))) 0 half) := by
  unfold Begun CanLaunch State.calm State.halvesGood; decide +kernel

/-- Put fields of the given widths into memory at offsets from `a`. -/
def fields (s : State) (a : Nat) (fs : List (Nat × Nat × Nat)) : State :=
  fs.foldl (fun s (o, n, v) => s.poke (a + o) n v) s

/-- A conversion of one FP32 element to FP16, beside its source. -/
def converting : State :=
  fields linked galBase [(0, 8, galBase + 0x100), (8, 8, galBase + 0x140), (16, 4, 1), (20, 4, 1), (24, 4, 4), (28, 4, 2),
    (32, 1, 0x30), (33, 2, 0xFFFF), (35, 2, 0xFFFF)]

theorem test_meets_CopiesAndConversions_convert :
    let d := ConvDesc.ofRaw (converting.peek galBase 64)
    d.ok (converting.ownNode 0) = true ∧ d.comp = false ∧ d.blk = false ∧ d.df ≠ 6 ∧ d.fmt.isInt = false ∧ d.ssl = 0xFFFF ∧
      d.dsl = 0xFFFF ∧ d.rows = 1 ∧ d.cols = 1 ∧ converting.refused 0 (d.src % 2 ^ 48) d.sfmt.bytes = none ∧
      converting.refused 0 (d.dst % 2 ^ 48) d.fmt.bytes = none ∧
      converting.cleanAt galBase 128 ∧ Cacheless converting 0 galBase 384 ∧ converting.localPtr 0 galBase = some galBase := by
  unfold State.cleanAt Cacheless; decide +kernel

/-- A STEP_PLAN of step 1 with both limits 1.0, and its plan. -/
def planCmd : Cmd := cmdOf 0x10 [1, 0, 0x3F8000003F800000, galBase, 64]
def plan : Plan := ⟨1, 0, 0, 0x3F800000, 0x3F800000, galBase, 64, []⟩

/-- The first partition's job with the plan in force. -/
def planned : State := { up with jobs := [(0, { Job.empty with plan := some plan })] }

theorem test_meets_StepPlansGatesAndClose :
    (let s := withCmd up planCmd
     Begun s cid 0x10 planCmd ∧ Fresh planCmd ∧ ZeroFrom planCmd 5 ∧ s.localPtr 0 (planCmd.par 3) = some galBase ∧
       limitsOk 0x3F800000 0x3F800000 = true ∧ s.refusedGal 0 galBase 64 = none ∧
       (s.planBlock galBase 64).toOption = some (planCounts (natLe 64 0), []) ∧ (s.job 0).plan = none ∧ s.keeperOn 0 = false) ∧
    (withCmd planned planCmd).job 0 ≠ Job.empty ∧
    (let cl : Closing := ⟨false, plan, [0, 0, 0, 0], cid⟩
     let s := { withCmd up (issuedOf 0x10 []) with jobs := [(0, { Job.empty with plan := some plan, closing := some cl })] }
     (s.job 0).closing = some cl ∧ (s.job 0).plan = some plan ∧ (s.cmd cl.cmd).isSome = true ∧
       s.keeperOn 0 = false ∧ s.calm ∧ ∀ x ∈ s.cmds, x.id = cl.cmd) ∧ (withCmd up planCmd).cleanAt galBase 64 ∧
    slotValid 0x1000000 = true := by
  unfold Begun Fresh ZeroFrom State.calm State.cleanAt; decide +kernel

theorem test_meets_StepPlansGatesAndClose_replay :
    let s := { up.setReg (cmdSlotBaseOff 0) (BitVec.ofNat 64 galBase) with
      jobs := [(0, { Job.empty with tripSeq := some 3, drain := [0] })] }
    (s.job 0).tripSeq = some 3 ∧ (s.job 0).drain = [0] ∧ s.slotAddr 0 0 = galBase ∧ s.cleanAt galBase 128 := by
  unfold State.cleanAt; decide +kernel

theorem test_meets_StepPlansGatesAndClose_gate :
    let x := cmdOf 0x26 [galBase]
    let s := fun (v : Nat) (trip : Bool) =>
      (withCmd { planned with jobs := [(0, { Job.empty with plan := some plan, stepTrip := trip })] } x).poke galBase 4 v
    let sq := fun v => Fmt.fp32.decode (leNat (plain ((s v false).bytesRead galBase 4)))
    Begun (s 0 false) cid 0x26 x ∧ ((s 0 false).job 0).gate = none ∧ (s 0 false).cleanAt galBase 4 ∧
      sq 0x7F800000 = .inf false ∧ sq 0x40800000 = .fin false 4 ∧ sq 0 = .fin false 0 ∧
      ((s 0 true).job 0).stepTrip = true ∧ limitsOk 0x40400000 0x3F800000 = true ∧
      Cacheless (s 0 false) 0 galBase 4 ∧ (s 0 false).keeperOn 0 = false := by
  unfold Begun State.cleanAt State.calm Cacheless; decide +kernel


/-! ### Matrix, vector and update programs -/

/-- RUN_GROUPED's entry of one matrix product, at the start of the gallery. -/
def grouped : State :=
  fields linked galBase [(0, 4, 1), (4, 4, 1), (8, 4, 1), (0x18, 8, galBase + 0x1000), (0x20, 8, galBase + 0x2000), (0x50, 4, 32768),
    (0x54, 4, 2), (0x5C, 4, 4), (0x68, 2, 0x0022), (0x6A, 2, 0xFFFF), (0x70, 2, 0xFFFF), (0x72, 2, 0xFFFF), (0x74, 2, 0xFFFF),
    (0x76, 2, 0xFFFF)]

/-- RUN_GROUPED of that entry on engine 0. -/
def gx : Cmd := cmdOf 0x20 [galBase, 1, 1]

theorem test_meets_MatrixCommandsRun :
    let s := withCmd grouped gx
    let r := s.peek galBase 128
    Begun s cid 0x20 gx ∧ Fresh gx ∧ ZeroFrom gx 4 ∧ s.localPtr 0 (gx.par 0) = some galBase ∧ gx.meMask = [0] ∧
      s.refusedGal 0 galBase 128 = none ∧ s.checkSlots 0 (GE.ofRaw 0 r).slots = .ok ∧ s.entryOk 0 true (GE.ofRaw 0 r) = true ∧
      (GE.ofRaw 0 r).sparse ≠ 2 ∧ 0 < (GE.ofRaw 0 r).m ∧ s.cleanAt galBase 128 ∧
      (GE.ofRaw 0 r).slots.all (fun k => s.slotAddr 0 k / 32 == s.slotAddr 0 0xFFFF / 32) = true ∧
      s.cleanAt (s.slotAddr 0 0xFFFF) 128 := by
  unfold Begun Fresh ZeroFrom State.calm State.cleanAt; decide +kernel

/-- The state in which engine 0, held by the command, runs that entry's item. -/
def running : State :=
  match exec (.runGrouped cid) (withCmd grouped gx) with
  | .next t => { t with holders := [(0, cid)] }
  | _ => grouped

theorem test_meets_MatrixCommandsRun_engines :
    (∃ it, (running.me 0).queue = [it] ∧ it.cmd = cid ∧ keyGet running.holders 0 = some it.cmd ∧ (running.me 0).asked = 0 ∧
      (running.me 0).waiting = none ∧ (running.me 0).fail = none ∧ (running.me 0).acc = [] ∧ (running.me 0).ended = [] ∧
      running.engineFaulted 0 = false) ∧
    running.fld (meVersionTmoOff 0 0) 15 0 ≠ 0 ∧ running.bit (cmdPartRoleOff 0) 0 = false ∧
    (up.setBit (cmdPartRoleOff 0) 0).bit (cmdPartRoleOff 0) 0 = true := by
  refine ⟨⟨((running.me 0).queue.head?).get (by decide +kernel), ?_⟩, ?_⟩ <;> decide +kernel

/-- A command of the second VF that waits for the first vector engine, its partition's job running. -/
def primary : Cmd := { cmdOf 0x21 [galBase, 1] with id := ⟨2, 0, 5⟩, phase := .consumed }

/-- The first partition is a tender, whose command holds the first vector engine, or has yielded it. -/
def tending (yielded : Bool) (waits : List Cmd) : State :=
  let s := (up.setBit (cmdPartRoleOff 0) 0).setReg (cmdJobStateOff 1) 1
  { s with
    cmds := cmdOf 0x21 [galBase, 1] :: waits
    holders := if yielded then [] else [(96, cid)]
    yielded := if yielded then [(96, cid)] else [] }

theorem test_meets_MatrixCommandsRun_yields :
    (let s := tending false [primary]
     keyGet s.holders 96 = some cid ∧ s.bit (cmdPartRoleOff cid.p) 0 = true ∧ s.engineFaulted 96 = false ∧
       (s.cmds.any fun y => isWork y && s.ready y && !s.bit (cmdPartRoleOff y.id.p) 0 && (s.needs y).contains 96) = true) ∧
    (∀ waits ∈ [[], [primary]], let s := tending true waits
     keyGet s.holders 96 = none ∧ s.yielded = [(96, cid)] ∧ (s.cmd cid).isSome = true ∧
       (s.cmds.any fun y => isWork y && s.ready y && !s.bit (cmdPartRoleOff y.id.p) 0 && (s.needs y).contains 96) =
         !waits.isEmpty) := by decide +kernel

theorem test_meets_MatrixCommandsRun_more :
    (let it : Item := ⟨cid, [], 0, 0, 0, [], 0⟩
     let m : MeState := { running.me 0 with queue := [it], waiting := some 5 }
     let s := { withCmd up (issuedOf 0x20 [galBase, 1, 1]) with mes := [(0, m)] }
     (s.me 0).queue = [it] ∧ (s.me 0).waiting = some 5 ∧ s.fld (meVersionTmoOff 0 0) 15 0 ≠ 0 ∧ s.calm) ∧
    (let j : Join := ⟨0, [0, 1], 0, (0, 0)⟩
     let x := { issuedOf 0x20 [galBase, 1, 3] with joins := [j] }
     let s := withCmd up x
     s.cmd cid = some x ∧ s.pieceLeft cid 0 = false ∧ s.joinReady x 0 = true ∧ s.calm) ∧
    (let i0 : Item := ⟨cid, [], 0, 0, 0, [], 0⟩
     let i1 : Item := ⟨⟨2, 0, 5⟩, [], 0, 0, 0, [], 0⟩
     let s := { up.setBit (cmdPartRoleOff 0) 0 with
       mes := [(0, { running.me 0 with queue := [i0, i1] })], holders := [(0, cid)] }
     (s.me 0).queue = [i0, i1] ∧ keyGet s.holders 0 = some cid ∧ s.bit (cmdPartRoleOff i0.cmd.p) 0 = true ∧
       s.bit (cmdPartRoleOff i1.cmd.p) 0 = false ∧ s.engineFaulted 0 = false) := by
  unfold State.calm; decide +kernel

/-- A slot table, and one owned shard of the first partition with its update list of eight streams. -/
def sharded : State :=
  let s := { linked with regs := linked.regs ++ [(cmdSlotCountOff 0, 2), (cmdSlotBaseOff 0, BitVec.ofNat 64 (galBase + 0x10000)),
    (cmdShardCountOff 0, 1), (cmdShardBaseOff 0, BitVec.ofNat 64 (galBase + 0x20000))] }
  let s := fields s (galBase + 0x10000) [(3, 1, 0x21), (24, 1, 1), (56, 1, 1), (60, 1, 1), (128 + 2, 2, 0x4104)]
  let s := fields s (galBase + 0x20000) [(0, 4, 7), (4, 2, 1), (6, 2, 2), (10, 1, 7), (11, 1, 4), (14, 1, 1), (16, 8, 0x100000),
    (24, 8, 0x200000), (32, 4, 32768), (36, 1, 4), (40, 8, 0x300000), (48, 8, galBase + 0x30000)]
  let a := galBase + 0x30000
  let s := fields s a [(0, 8, 1), (12, 1, 1), (13, 1, 4), (0x140 + 7, 1, 0x10)]
  (List.range 8).foldl (fun s i => fields s a [(64 + 24 * i + 12, 1, 0x30)]) s

/-- The job of that partition with the plan in force and the step's gate opened. -/
def gated (g : Bool) : State :=
  { sharded with jobs := [(0, { Job.empty with plan := some plan, gate := if g then some ⟨1, 0, 0x3F800000, 0, 0⟩ else none })] }

theorem test_meets_VectorAndUpdateCommandsRun :
    let x := cmdOf 0x27 []
    let s := withCmd (gated true) x
    Begun s cid 0x27 x ∧ Fresh x ∧ ZeroFrom x 1 ∧ s.gatePending cid = false ∧ s.keeperOn 0 = false ∧
      (s.gateFor 0).toOption = some (0x3F800000, 0) ∧ (s.job 0).plan = some plan ∧ s.ownedShards 0 = [0] ∧
      (s.checkShards 0).1 = .ok ∧ s.cleanAt (s.shardAddr 0 0) 128 ∧ keyGet (s.kpart 0).recDone 7 = none ∧
      s.mayIssue x = true ∧ shQlen (s.shard 0 0) < shDelay (s.shard 0 0) := by
  unfold Begun Fresh ZeroFrom State.cleanAt State.calm; decide +kernel

/-- RUN_VECTOR of the list at the gallery's start. -/
def vx : Cmd := cmdOf 0x21 [galBase + 0x30000, 1]

theorem test_meets_VectorAndUpdateCommandsRun_list :
    (let s := { gated false with cmds := [{ cmdOf 0x26 [galBase] with id := ⟨1, 0, 4⟩ }, vx] }
     Begun s cid 0x21 vx ∧ s.gatePending cid = true ∧ ((s.vectorArgs vx).toOption.map fun l => l.1.hdr.update) = some true) ∧
    (let s := withCmd (gated true) vx
     s.gatePending cid = false ∧ s.mayIssue vx = true ∧ ((s.vectorArgs vx).toOption.map fun l => s.checkList 0 (l.1.withGate 0x3F800000 0)) = some .ok) ∧
    (let s := withCmd ((gated true).poke (galBase + 0x30000 + 13) 1 0) vx
     ((s.vectorArgs vx).toOption.map fun l => (l.1.hdr.update, s.checkList 0 l.1)) = some (false, .ok)) := by
  unfold Begun State.calm; decide +kernel

/-! ### Split reductions, weights, gradient channels -/

/-- A split reduction of two contributors, nodes 1 and 2, this module being contributor `index`. -/
def splitting (method index : Nat) : State :=
  fields linked galBase [(0, 4, 2), (4, 4, index), (8, 1, method), (0x10, 8, here (galBase + 0x1000)), (0x18, 8, galBase + 0x2000),
    (0x20, 8, there (galBase + 0x3000)), (0x2000, 2, 1), (0x2002, 2, 2)]

/-- SPLIT_REDUCE of it. -/
def sx : Cmd := cmdOf 0x22 [galBase, galBase + 0x4000]

theorem test_meets_SplitReductionsRun :
    let s := withCmd (splitting 2 0) sx
    let d := SplitDesc.ofRaw (s.peek galBase 64)
    Begun s cid 0x22 sx ∧ Fresh sx ∧ ZeroFrom sx 2 ∧ s.localPtr 0 (sx.par 0) = some galBase ∧
      s.localPtr 0 (sx.par 1) = some (galBase + 0x4000) ∧ s.splitOk 0 d = true ∧ s.splitChain 0 d = true ∧ d.index = 0 ∧
      s.refusedGal 0 (galBase + 0x4000) (32 * d.nrec) = none ∧ s.cleanAt (galBase + 0x4000) (32 * d.nrec) ∧
      s.refusedGal 0 (d.table % 2 ^ 48) (2 * d.ncon) = none ∧ s.splitNode d 1 = 2 ∧ Reachable s 2 0 ∧
      Cacheless s 0 (galBase + 0x4000) (32 * d.nrec) ∧ s.cleanAt (d.table % 2 ^ 48 + 2) 2 ∧ s.cleanAt galBase 64 ∧
      d.collect % 2 ^ 48 + d.slotBytes + 32 * d.nrec + d.ncon ≤ 2 ^ 48 := by
  unfold Begun Fresh ZeroFrom State.cleanAt Reachable State.calm State.halvesGood Cacheless; decide +kernel

theorem test_meets_SplitReductionsRun_start :
    (let s := withCmd (splitting 2 1) sx
     let d := SplitDesc.ofRaw (s.peek galBase 64)
     s.splitOk 0 d = true ∧ s.splitChain 0 d = true ∧ d.index = 1 ∧ s.chainHeld cid = none) ∧
    (let s := withCmd ((splitting 1 0).poke (galBase + 0x10) 8 (there galBase)) sx
     let d := SplitDesc.ofRaw (s.peek galBase 64)
     s.splitOk 0 d = true ∧ s.splitChain 0 d = false ∧ Reachable s (d.collect / 2 ^ 48) 0) := by
  unfold Reachable State.halvesGood; decide +kernel

/-- The state in which that command waits. -/
def folding (s : State) : State :=
  { withCmd s { sx with phase := .issued, pending := 1 } with recTypes := [(galBase + 0x4000, 0x38)] }

theorem test_meets_SplitReductionsRun_collect :
    let s := folding (splitting 1 0)
    let t := folding (((splitting 1 0).poke (galBase + 0x1000 + 64) 1 3).poke (galBase + 0x18) 8 (there galBase))
    let d := SplitDesc.ofRaw (t.peek galBase 64)
    (s.splitCmd cid).isSome = true ∧ (∃ i, i < d.ncon ∧ s.splitPresent d i = false) ∧ t.splitChain 0 d = false ∧ d.cast = false ∧
      t.here (d.collect / 2 ^ 48) = true ∧ (∀ i, i < d.ncon → t.splitPresent d i = true) ∧
      ((t.collectAll cid d (galBase + 0x4000)).1.toOption.map fun r => r.1.length) = some (32 * d.nrec) ∧
      Reachable t (d.result / 2 ^ 48) 0 ∧ t.calm ∧ d.nrec ≠ 0 ∧ t.cmds.all (fun x => t.mayIssue x && x.left == 0) = true ∧ t.fld (veSplitOff d.lan 0) 15 0 ≠ 0 ∧ s.splitPresent d 0 = false := by
  unfold Reachable State.halvesGood State.calm; decide +kernel

theorem test_meets_SplitReductionsRun_chain :
    let s := folding (fields (splitting 2 1) galBase [(0, 4, 3), (0x2004, 2, 2)])
    let d := SplitDesc.ofRaw (s.peek galBase 64)
    (s.splitCmd cid).isSome = true ∧ s.splitChain 0 d = true ∧ 0 < d.index ∧ d.index + 1 < d.ncon ∧ d.nrec = 1 ∧
      s.splitNode d 2 = 2 ∧ Reachable s 2 0 ∧ s.cleanAt (galBase + 0x4000) 32 ∧ Cacheless s 0 (galBase + 0x4000) 32 ∧
      s.cleanAt (d.table % 2 ^ 48 + 4) 2 := by
  unfold State.cleanAt Reachable State.halvesGood Cacheless; decide +kernel

theorem test_meets_WeightsLoadedAndDerived :
    (let x := cmdOf 0x23 [2 * 2 ^ 32]
     let s := withCmd sharded x
     Begun s cid 0x23 x ∧ ZeroFrom x 1 ∧ s.checkShard 0 0 = .ok ∧
       s.refused 0 (ringSlot (s.shard 0 0) 0) (shWcBytes (s.shard 0 0)) = none ∧ Reachable s 2 0 ∧
       loadReqs cid 0 0 2 (s.shard 0 0) ≠ []) ∧
    (let x := cmdOf 0x24 [0]
     let s := withCmd sharded x
     Begun s cid 0x24 x ∧ s.checkShard 0 0 = .ok ∧ shOwned (s.shard 0 0) = true ∧ s.fabric.mcRuns = [] ∧
       s.draining 0 = false ∧ s.cleanAt (s.shardAddr 0 0) 128 ∧ s.cleanAt (s.slotAddr 0 (shMslot (s.shard 0 0))) 128 ∧
       s.cleanAt (s.slotAddr 0 (shWslot (s.shard 0 0))) 128 ∧
       (s.derive 0 0 (shVersion (s.shard 0 0))).1.toOption.isSome = true ∧ (s.kpart 0).diag = false) := by
  unfold Begun ZeroFrom Reachable State.calm State.halvesGood State.cleanAt; decide +kernel

/-- One gradient channel's entry, this module at `pos` of a chain of `len` modules, and a plan that names the shard's version. -/
def scat (len pos : Nat) : State :=
  fields { sharded with jobs := [(0, { Job.empty with plan := some { plan with versions := [(7, 1)] } })] } galBase [(0, 4, 1), (64 + 2, 2, pos), (64 + 4, 2, len), (64 + 8, 8, 64), (64 + 0x10, 8, galBase + 0x1000),
    (64 + 0x18, 8, galBase + 0x3000), (64 + 0x20, 8, galBase + 0x4000), (64 + 0x38, 8, galBase + 0x5000), (0x3000, 2, 1), (0x3002, 2, 1)]

/-- REDUCE_SCATTER of it. -/
def gcx : Cmd := cmdOf 0x25 [galBase]

theorem test_meets_GradientChannelsRun :
    let s := withCmd (scat 1 0) gcx
    Begun s cid 0x25 gcx ∧ Fresh gcx ∧ ZeroFrom gcx 1 ∧ exPtrOk (s.ownNode 0) (gcx.par 0) = true ∧
      s.refusedGal 0 galBase 64 = none ∧ s.peek galBase 64 = 1 ∧ s.refusedGal 0 (galBase + 64) 64 = none ∧
      s.cleanAt galBase 128 ∧ (s.gcEntry cid 0 false (s.peek (galBase + 64) 64)).isSome = true ∧
      s.cleanAt (((s.gcEntry cid 0 false (s.peek (galBase + 64) 64)).map (·.chain)).getD 0) 2 := by
  unfold Begun Fresh ZeroFrom State.calm State.cleanAt; decide +kernel

/-- An entry of 64 elements at `pos` of a chain of `len` modules, the other of which is node 2. -/
def gcOf (s : State) (pos len : Nat) : Option GcEntry := s.gcEntry cid 0 false (s.peek (galBase + 64) 64) |>.map fun e =>
  { e with pos := pos, len := len }

theorem test_meets_GradientChannelsRun_chunks :
    let s := withCmd ((scat 1 0).poke (galBase + 0x3002) 2 2) { gcx with phase := .issued, pending := 1 }
    (((gcOf s 0 2).map fun e => ({ s with gcs := [(0, [e])] }, e)).any fun (t, e) =>
      t.gc 0 == [e] && e.next == 0 && e.count == none && !e.poisoned && decide (e.elements ≤ 16384) &&
        decide (e.stage + 32768 ≤ 2 ^ 48) && t.chainNode e 1 == 2 && e.acc == galBase + 0x1000) = true ∧
    (((gcOf s 1 2).map fun e => ({ s with gcs := [(0, [e])] }, e)).any fun (t, e) =>
      t.gcArrival e == none && decide (t.fld fabGcCtrlOff 15 0 ≠ 0)) = true ∧
    s.cleanAt (galBase + 0x1000) (4 * 64) ∧ Reachable s 2 0 ∧ Cacheless s 0 (galBase + 0x1000) (4 * 64) ∧ s.calm ∧
    keyGet s.holders 152 = none ∧ ({ s with holders := [(152, cid)] }).holders = [(152, cid)] := by
  unfold State.cleanAt Reachable State.halvesGood State.calm Cacheless; decide +kernel

/-! ### Exchanges -/

/-- An exchange of `t` tokens over the domain of nodes 1 and 2, with one expert that no module serves. -/
def exch (t : Nat) : State :=
  let s := { linked with jobs := planned.jobs }
  let s := fields s galBase [(0, 4, 5), (8, 8, 0x0002000100000020), (0x10, 4, t), (0x14, 4, t), (0x18, 2, 16), (0x1000, 2, 1),
    (0x1002, 2, 2), (0xC0, 8, 0x0FFFF0FFFF0FFFF0), (0xC8, 2, 0xFFFF)]
  let s := fields s galBase ([0x20, 0x30, 0x38, 0x40, 0x48, 0x50, 0x58, 0x60, 0x68].mapIdx fun i o => (o, 8, galBase + 0x1000 * i))
  fields s galBase ((List.range 5).flatMap fun i =>
    [(0x70 + 16 * i, 8, galBase + 0x10000 + 0x1000 * i), (0x78 + 16 * i, 8, 0xFFFF * 2 ^ 36)])

theorem test_meets_ExchangeCommandsStart :
    (∀ op ∈ [0x30, 0x31, 0x32, 0x33], let x := cmdOf op [galBase]
      let s := withCmd (exch 0) x
      Begun s cid op x ∧ Fresh x ∧ ((s.exLook 0 (x.par 0 % 2 ^ 48)).exArgs x).isOk = true ∧ s.hasYielded cid = false) ∧
    (let x := cmdOf 0x30 [galBase]
     let s := withCmd (exch 1) x
     ((s.exLook 0 (x.par 0 % 2 ^ 48)).exArgs x).isOk = true) ∧
    (exch 0).fabric.waiting = [] ∧ (exch 0).xsends = [] := by
  unfold Begun Fresh State.calm; decide +kernel

/-- The command's exchange in a direction, with the streams that have not come. -/
def openEx (dir : Fin 4) (missing : List StreamId) : Exch :=
  { part := 0, exchId := 5, plan := 0, dir := dir, cmd := cid, desc := galBase, missing := missing, arrived := [], rows := [], fill := [] }

/-- A stream of node 2 of one parcel, whose header stands at the gallery's third megabyte. -/
def parcelled (dir : Fin 4) (missing : List StreamId) : State :=
  let s := fields (withCmd (exch 1) (issuedOf 0x31 [galBase])) (galBase + 0x200000) [(0, 4, 5), (8, 2, 2), (10, 2, 0x20 + 8 * dir.val)]
  { s with exchs := [openEx dir missing], parcels := [⟨0, 5, galBase + 0x200000, 64⟩] }

theorem test_meets_ExchangesPackAndCombine :
    let st : Fin 4 → StreamId := fun dir => ⟨dir, 2, 0⟩
    let other : StreamId := ⟨0, 1, 0⟩
    (let s := parcelled 0 [st 0]
     s.exchOf cid = some (openEx 0 [st 0]) ∧ (s.streamIn 0 5 (st 0)).isSome = true ∧ s.determ 0 = false) ∧
    (let s := parcelled 0 [other]
     s.exchOf cid = some (openEx 0 [other]) ∧ (s.streamIn 0 5 (st 0)).isSome = true ∧ st 0 ∉ [other]) ∧
    (let s := parcelled 1 [st 1, ⟨1, 1, 0⟩]
     s.exchOf cid = some (openEx 1 [st 1, ⟨1, 1, 0⟩]) ∧ (s.streamIn 0 5 (st 1)).isSome = true) ∧
    (parcelled 0 [st 0]).fld (suExchTmoOff 0 0) 15 0 ≠ 0 ∧ (parcelled 0 [st 0]).calm := by
  unfold State.calm; decide +kernel

theorem test_meets_ExchangesPackAndCombine_combine :
    ∀ dir ∈ [(1 : Fin 4), 3],
    let s := { withCmd (exch 1) (issuedOf 0x31 [galBase]) with exchs := [openEx dir []] }
    let d := ExDesc.ofRaw (s.peek galBase 256)
    let words := (List.range 8).map fun r => s.peek (d.ptr 6 + r * 4) 4
    let k := if dir = 1 then 2 else 4
    s.exchOf cid = some (openEx dir []) ∧ d.t = 1 ∧ (d.tensor k).slot = 0xFFFF ∧ s.parcels = [] ∧
      words = List.replicate 8 0 ∧ s.cleanAt ((d.tensor k).row 0) (d.rowBytes (d.tensor k).fmt) ∧ s.cleanAt (d.ptr 6) 32 ∧
      Cacheless s 0 ((d.tensor k).row 0) (d.rowBytes (d.tensor k).fmt) := by
  unfold State.cleanAt Cacheless; decide +kernel

theorem test_no_choice_sums_to_zero :
    combineTok (ExDesc.ofRaw 0) (openEx 1 []) true (List.replicate 8 0) 0 = .sum [] := rfl

/-! ### The Keeper -/

/-- The shards' module with the Keeper on. -/
def kept : State := { sharded with regs := sharded.regs ++ [(kprCtrlOff 0, 1)] }

/-- The first partition's Keeper record in a state. -/
def keep (s : State) (k : KeeperPart) : State := { s with keeper := { s.keeper with parts := [(0, k)] } }

/-- A job held in phase 5, whose recovery from the loss of node 3 node 2 coordinates. -/
def resumable : State :=
  keep { kept with regs := (cmdJobStateOff 0, 2) :: (kprStatusOff 0, 0x28) :: kept.regs }
    { KeeperPart.empty with takeovers := [{ Takeover.fresh 3 2 false 0 none 1 true with spare := true }] }

theorem test_meets_KeeperCommandsRun :
    (let x := cmdOf 0x28 []
     let s := withCmd kept x
     let rs := (s.configRanges 0).filter fun r => decide (0 < r.2)
     Begun s cid 0x28 x ∧ ZeroFrom x 0 ∧ (∀ r ∈ rs, s.refused 0 r.1 r.2 = none ∧ s.cleanAt r.1 r.2) ∧ rs ≠ [] ∧
       (∀ i ∈ s.ownedShards 0, s.cleanAt (shList (s.shard 0 i) % 2 ^ 48 + 8) 8) ∧ s.keeperOn 0 = true ∧
       s.mirrorNode 0 = some 2 ∧ Reachable s 2 0 ∧ (s.kpart 0).diag = false) ∧
    ((keep kept { KeeperPart.empty with diag := true }).kpart 0).diag = true ∧
    sharded.keeperOn 0 = false ∧
    (let x := cmdOf 7 []
     let s := withCmd resumable x
     Begun s cid 7 x ∧ s.jobState 0 = jHeld ∧ s.phase 0 = 5 ∧ Reachable s 2 0) ∧
    kept.jobState 0 ≠ jHeld := by
  unfold Begun ZeroFrom Reachable State.calm State.halvesGood State.cleanAt; decide +kernel

/-- A held job whose journal, at the start of a granule, holds step 1. -/
def journaled : State :=
  let slots := recBytes jrSlots 1 0 []
  let plans := recBytes jrPlan 1 1 (clean (List.replicate 48 0))
  let s := { linked with regs := (cmdJobStateOff 0, 2) :: (kprCtrlOff 0, 1) :: (kprJrnlBaseOff 0, 0x400000) :: linked.regs }
  keep (s.writeMem 0x400000 (slots ++ plans))
    { KeeperPart.empty with jSteps := [(1, 0)], jRecs := [(0, slots.length), (slots.length, plans.length)] }

theorem test_meets_KeeperCommandsRun_replay :
    let x := cmdOf 8 [1]
    let s := withCmd journaled x
    let recs := (s.jrFrom 0 1).map fun y => s.jrRead 0 y.1 y.2
    Begun s cid 8 x ∧ ZeroFrom x 1 ∧ s.jobState 0 = jHeld ∧ s.phase 0 = 0 ∧ s.bit (kprStatusOff 0) 6 = false ∧
      s.slotCount 0 = 0 ∧ (∃ y ∈ recs, y.ty = jrSlots ∧ y.step = 1) ∧ (∃ y ∈ recs, y.ty = jrPlan ∧ y.step = 1) ∧
      (s.kpart 0).jLost = [] ∧ s.jrFrom 0 1 ≠ [] := by
  unfold Begun ZeroFrom State.calm; decide +kernel

/-- Node 1 with the Keeper on for the first partition: it watches and mirrors node 2. -/
def keeper (more : List (Nat × W64)) : State :=
  { linked with regs := more ++ [(kprCtrlOff 0, 1), (kprWatchOff 0, 0x10002), (kprMirOff 0 0, 0x10002), (kprMirOff 0 0 + 8, 0x400000),
      (kprMirOff 0 0 + 16, 0x8000)] ++ linked.regs }

/-- A Keeper message from node 2 about a node. -/
def message (kind sub step : Nat) (body : List Byte) : Packet :=
  { Packet.zero with
    dst := 1, src := 2, op := 0x14, tc := 3, len := BitVec.ofNat 8 (8 + body.length),
    payload := natLe 1 kind ++ [0] ++ natLe 2 sub ++ natLe 4 step ++ body }

theorem test_meets_KeeperMessagesHoldAndTake :
    (∀ kind ∈ [1, 2, 3, 4, 5, 6, 7, 8, 9, 10, 15, 16], KMessage (keeper []) (message kind 2 1 (List.replicate 16 0)) kind) ∧
    (keeper []).watches 2 = true ∧ linked.keeperOn 0 = false ∧ (keeper []).keeperOn 0 = true ∧
    (keeper []).kept.find? (fun q => (keeper []).mirrors q.val 2) = some 0 ∧ (keeper []).here 2 = false ∧
    (keeper []).llPorts (keeper []).injBank 2 ≠ [] ∧ (keeper []).jobState 0 = jRun ∧ linked.watches 2 = false := by
  unfold KMessage NewRequest State.calm; decide +kernel

theorem test_meets_KeeperMessagesHoldAndTake_acks :
    (let k : Takeover := { Takeover.fresh 3 1 true 0 none 2 true with acks := [1] }
     let s := keep (keeper []) { KeeperPart.empty with takeovers := [k] }
     s.leads 0 3 = some k ∧ ((s.members 0).all fun n => (k.acks ++ [2]).contains (BitVec.ofNat 16 n)) = true ∧ k.sent = false ∧
       s.bit fabLlCtrlOff 3 = false ∧ s.bit fabAliasOff 16 = false ∧ k.taker.toNat ≠ s.fabNode ∧ k.coord.toNat = s.fabNode) ∧
    (let s := (keeper [(kprJobCountOff 0, 1), (kprJobPtrOff 0, BitVec.ofNat 64 (galBase + 0x100))]).poke (galBase + 0x100) 2 4
     ((s.members 0).all fun n => [(1 : Node), 2].contains (BitVec.ofNat 16 n)) = false) ∧
    (let k : Takeover := { Takeover.fresh 3 1 true 0 none 2 true with swapDone := true }
     let s := keep (keeper []) { KeeperPart.empty with takeovers := [k] }
     s.leads 0 3 = some k ∧ k.spare = true ∧ k.spareDone = false ∧ k.swapDone = true) ∧
    (let s := keeper [(kprTakeOff 3, 2 ^ 32 + 2 ^ 16), (cmdJobStateOff 0, 0)]
     s.isSpareOf 3 = true ∧ s.jobState 0 = jClosed ∧ (s.kpart 0).pull = none ∧ s.keeperOn 0 = true) := by decide +kernel

theorem test_meets_KeeperMessagesHoldAndTake_take :
    (let pk := message 7 3 1 (natLe 2 1)
     KMessage (keeper []) pk 7 ∧ leNat ((kcBody pk).take 2) = (keeper []).fabNode ∧ pk.src.toNat ≠ 1 ∧ pk.src ≠ 3) ∧
    (let pk := message 7 3 1 (natLe 2 2)
     KMessage (keeper []) pk 7 ∧ leNat ((kcBody pk).take 2) ≠ (keeper []).fabNode ∧ (keeper []).bit fabAliasOff 16 = false ∧
       sameGroup 3 (keeper []).fabNode = true ∧ (keeper []).bit fabLlCtrlOff 3 = false ∧ sameGroup 64 (keeper []).fabNode = false) ∧
    (let pk := message 8 3 1 (natLe 8 4 ++ natLe 8 7)
     KMessage (keeper []) pk 8 ∧ BitVec.ofNat 16 (leNat ((kcBody pk).take 8)) ≠ pk.src ∧ pk.src ≠ 3) := by
  unfold KMessage NewRequest State.calm; decide +kernel

theorem test_meets_KeeperMessagesHoldAndTake_spare :
    (let k := { Takeover.fresh 3 2 false 0 none 1 true with spareDone := true }
     let s := keep (keeper [(kprStatusOff 0, 0x18)]) { KeeperPart.empty with takeovers := [k] }
     (s.kpart 0).takeovers.find? (fun k => !k.mine && k.spare && k.lost == 3) = some k ∧ s.here 2 = false ∧ s.phase 0 = 3 ∧
       (s.kpart 0).pull = none) ∧
    (let u : Pull := ⟨3, 2, none, 0, 1, false, [], 0, false, 0⟩
     let s := keep (keeper []) { KeeperPart.empty with pull := some u }
     (s.kpart 0).pull = some u ∧ u.lost = 3 ∧ u.left ≠ 0) ∧
    0 < ({ keeper [] with regs := (cmdShardCountOff 0, 1) :: (keeper []).regs }).shardCount 0 := by decide +kernel

/-- A mirror record of shard 7 at step 1: one item of 32 bytes, with its CRC. -/
def mirRec : List Byte :=
  let bs := natLe 4 7 ++ natLe 4 1 ++ [0, 0, 1] ++ List.replicate 53 0 ++ natLe 8 0x500000 ++ natLe 8 32 ++ List.replicate 32 1
  bs.take 24 ++ natLe 4 (crc32c bs).toNat ++ bs.drop 28

theorem test_meets_KeeperMessagesMirrorAndReplay :
    (let s := keep { journaled with regs := (keeper [(cmdJobStateOff 0, 2), (kprJrnlBaseOff 0, 0x400000)]).regs }
        { (journaled.kpart 0) with takeovers := [Takeover.fresh 3 2 false 0 none 1 true] }
     let pk := message 0x0A 3 1 []
     let recs := (s.jrFrom 0 1).map fun y => s.jrRead 0 y.1 y.2
     KMessage s pk 0x0A ∧ s.keeperOn 0 = true ∧ s.leads 0 3 = none ∧ s.jobState 0 = jHeld ∧ (s.job 0).holdByHost = false ∧
       (s.kpart 0).release = none ∧ (s.kpart 0).replan = false ∧ (s.kpart 0).jLost = [] ∧
       (∃ y ∈ recs, y.ty = jrSlots ∧ y.step = 1) ∧
       (∃ y ∈ recs, y.ty = jrPlan ∧ y.step = 1)) ∧
    (let s := (keeper []).writeMem 0x400000 (clean mirRec)
     let pk := message 0x0B 2 1 (natLe 4 7 ++ (mirRec.drop 24).take 4 ++ natLe 8 mirRec.length)
     let bs := (s.readMem 0x400000 mirRec.length).1
     KMessage s pk 0x0B ∧ s.stageFor 0 2 = some (0x400000, 0x8000) ∧ leNat (((kcBody pk).drop 8).take 8) = mirRec.length ∧
       s.cleanAt 0x400000 mirRec.length ∧ s.recordOk 0 (leNat ((kcBody pk).take 4)) (kcStep pk).toNat (leNat (((kcBody pk).drop 4).take 4)) (plain bs) = true ∧
       stageHalf 0x400000 0x8000 0 = 0x400000 ∧ stageHalf 0 0x8000 0 + mirRec.length ≤ 0x8000 ∧
       s.cleanAt (stageHalf 0x400000 0x8000 1) mirRec.length ∧
       mirParse (plain bs) = [(0x500000, 32, 80)] ∧ s.refused 0 0x500000 32 = none ∧ s.cleanAt 0x500000 32) ∧
    linked.stageFor 0 2 = none := by
  unfold KMessage NewRequest State.cleanAt State.calm; decide +kernel

theorem test_meets_KeeperMessagesMirrorAndReplay_rest :
    (∀ kind ∈ [0x0C, 0x0D, 0x0F, 0x10], KMessage (keeper []) (message kind 2 1 (natLe 8 7)) kind) ∧
    KMessage (keeper []) (message 0x0E 0 1 (natLe 8 90)) 0x0E ∧ Reachable (keeper []) 2 0 ∧
    (let s := keep (keeper []) { KeeperPart.empty with mirrored := [⟨2, 7, 1, 0, [(0x500000, 32)]⟩] }
     ((s.kpart 0).mirrored.find? fun m => m.owner == 2 && m.shard == 7).isSome = true ∧ s.cleanAt 0x500000 32 ∧
       s.keeper.restores = [] ∧ (storeLines 2 3 0 2 0x500000 (s.readMem 0x500000 32).1).length = 1) ∧
    (let s := keep (keeper [(kprSlowCtrlOff 0, 1), (kprSlowPeersOff 0, 4)]) { KeeperPart.empty with slow := [(1, 1, 90)] }
     s.bit (kprSlowCtrlOff 0) 0 = true ∧ maskPositions (s.slowMask 0) = [1, 2] ∧ s.position 0 = 1 ∧ s.groupNode 0 2 = 2 ∧
       (s.kpart 0).slow.filter (fun r => r.1 == 1) = [(1, BitVec.ofNat 16 (s.ownNode 0), 90)] ∧ (s.kpart 0).slowOwn = []) := by
  unfold KMessage NewRequest Reachable State.calm State.halvesGood State.cleanAt; decide +kernel

theorem test_meets_KeeperMessagesMirrorAndReplay_registers :
    (let pk := message 0x11 2 0 (natLe 8 pwrCapOff)
     KMessage (keeper []) pk 0x11 ∧ 16 ≤ pk.payload.length) ∧
    (let pk := message 0x12 2 0 (natLe 8 pwrCapOff ++ natLe 8 1)
     KMessage (keeper []) pk 0x12 ∧ 24 ≤ pk.payload.length ∧ ((regAt pwrCapOff).any fun h => h.desc.width = 64 ∧
       h.desc.base ∉ [0x8, 0x400, 0x30020, 0x40028, 0x200028, 0x200050, 0x200310, 0x200318, 0x201000, 0x430000, 0x441000,
         0x435008, 0x435808, 0x435810, 0x435820, 0x436040, 0x443080, 0x444000, 0x1000000, 0x1000008, 0x1000018, 0x1000020,
         0x1000100, 0x1000108, 0x1000110, 0x1001000, 0x1003000, 0x100800c]) = true) := by
  unfold KMessage NewRequest State.calm; decide +kernel

theorem test_meets_KeeperActsByItself :
    (let s := keeper []
     s.fabric.waiting = [] ∧ s.kept = [0] ∧ s.ejects = true ∧ s.wordNode (kprWatchOff 0) = some 2 ∧ s.watches 2 = true ∧
       sameGroup 64 s.fabNode = false ∧ sameGroup 2 s.fabNode = true) ∧
    (let s := keeper [(kprTakeOff 3, 2)]
     s.partnerOf 3 = 2 ∧ s.here 3 = false ∧ sameGroup 3 s.fabNode = true ∧
       ∀ q ∈ s.kept, s.mirrors q.val 3 = false ∧ s.mirrorNode q.val ≠ some 3) ∧
    (∀ done ∈ ([[], [(0, 64)]] : List (List (W32 × W64))),
     let s := keep (keeper []) { KeeperPart.empty with notices := [.poison 0 4 64], answered := done }
     s.jobState 0 = jRun ∧ (s.kpart 0).notices.find? (noticeNames (.poison 64)) = some (.poison 0 4 64) ∧
       s.noticeKey 0 (.poison 0 4 64) = some (0, 64) ∧ ((0, 64) ∈ (s.kpart 0).answered ↔ done ≠ []) ∧ s.calm) ∧
    (let s := keep (keeper []) { KeeperPart.empty with notices := [.datapath, .lost 64] }
     (s.kpart 0).notices.find? (noticeNames .datapath) = some .datapath ∧ s.noticeKey 0 .datapath = none ∧
       .lost 64 ∈ (s.kpart 0).notices) ∧
    (let x := Takeover.fresh 3 2 false 0 none 1 true
     let s := keep (keeper [(cmdJobStateOff 0, 2)]) { KeeperPart.empty with takeovers := [x] }
     s.held 0 = true ∧ (s.kpart 0).takeovers.filter (fun y => y.owed) = [x] ∧ x.mine = false ∧ s.here 2 = false ∧
       s.gateRecs 0 = []) ∧
    (let x := { Takeover.fresh 3 1 true 0 none 2 true with sent := true }
     let s := keep (keeper [(cmdJobStateOff 0, 2)]) { KeeperPart.empty with takeovers := [x] }
     (s.kpart 0).takeovers.find? (fun y => y.mine && y.spare && !y.spareDone) = some x ∧ x.coord.toNat = s.fabNode ∧
       s.jobState 0 = jHeld ∧ s.bit fabLlCtrlOff 3 = false) ∧
    (keeper [(kprStatusOff 0, 0x28)]).phase 0 = 5 ∧
    (let s := keep (keeper [(kprCtrlOff 0, 3)]) { KeeperPart.empty with retireAck := true }
     s.keeperOn 0 = true ∧ s.bit (kprCtrlOff 0) 1 = true ∧ (s.kpart 0).retireAck = true ∧ s.modState ≠ mFault) := by
  unfold State.calm; decide +kernel

theorem test_meets_KeeperActsByItself_replies :
    ∀ kind ∈ [0x0C, 0x03],
    let r := { asked 0x14 .kctl with cmd := none, pk := { message kind 2 1 [] with dst := 2, src := 1 } }
    let s := { keeper [] with
      fabric := { Fabric.reset with flying := [r] }, keeper := { State.reset.keeper with probes := [⟨2, none, []⟩] } }
    ReplyMeets s (reply 0x10 8) 0x10 r ∧ s.noPull ∧ kcPart r.pk = 0 ∧ kcKind r.pk = kind ∧
      s.keeper.probes = [⟨r.pk.dst, none, []⟩] ∧ (s.kpart 0).skipped = none ∧ s.bit (kprSlowStatusOff 0) 0 = false := by
  unfold ReplyMeets State.noPull State.halvesGood; decide +kernel

/-! ### Management, encodings and whole-machine facts -/

theorem test_meets_ManagementAnswers :
    standby.mgmtUp = true ∧ standby.mgmtRuns = false ∧ State.reset.mgmtUp = false ∧
    (let s := { standby with boot := { Boot.reset with mgmt := true, keyStore := some [1] } }
     s.mgmtRuns = true ∧ s.boot.keyStore = some [1]) ∧
    (regAt modStateOff).any (fun h => h.desc.scope == .mod) = true := by decide +kernel

theorem test_meets_PacketFramesRoundTrip :
    (packet 3 8 8).payload.length = (packet 3 8 8).len.toNat ∧ (packet 3 8 8).len.toNat ≤ 128 := by decide

theorem test_meets_CodesConvertToThemselves :
    Fmt.bf16.decode 0x3F80 = .fin false 1 ∧ Fmt.e4m3.decode 0x38 = .fin false 1 := by decide +kernel

theorem test_meets_PpsEdgesCounted : mBoot ≤ standby.modState := by decide +kernel

theorem test_meets_AutoSelectsByCrossover : (SplitDesc.ofRaw 2).method = 0 := by decide +kernel

theorem test_meets_MemoryStaysCanonical :
    State.reset.mem.wf = true ∧ (match step { up with pending := [.supplyLoss] } with | .next _ => true | _ => false) = true := by
  decide +kernel

end Sys2Proof.Tests
end

/-! ## Number formats: NaN codes and NaN sources (chapter 02) -/

namespace Sys2Proof.Machine

/-- R16: in a format with infinities, the all-ones exponent with a fraction other than 0 encodes a NaN. -/
theorem Fmt.decode_allOnes_frac_ne_zero {f : Fmt} {c : Nat} (hf : f.hasInf = true)
    (he : bitsOf c (f.bits - 2) f.frac = 2 ^ f.expBits - 1) (hfr : c % 2 ^ f.frac ≠ 0) :
    f.decode c = .nan (decide (f ≠ .e5m2) && !bitOf c (f.frac - 1)) := by
  simp [Fmt.decode, hf, he, hfr]

/-- The canonical NaN of a format with infinities is the code of a quiet NaN. -/
theorem Fmt.decode_nanCode_of_hasInf {f : Fmt} (hf : f.hasInf = true) : f.decode f.nanCode = .nan false := by
  cases f with
  | fp64 | fp32 | fp16 | bf16 | e5m2 => exact Fmt.decode_allOnes_frac_ne_zero rfl rfl (by decide)
  | _ => cases hf

/-- E4M3 has one NaN magnitude, the code with every bit below the sign set (R16). -/
theorem Fmt.decode_nanCode_e4m3 : Fmt.e4m3.decode Fmt.e4m3.nanCode = .nan false := rfl

/-- R19: a format without a negative zero takes the code that would be negative zero for its NaN. -/
theorem Fmt.decode_nanCode_of_not_hasNegZero {f : Fmt} (hf : f.hasNegZero = false) :
    f.decode f.nanCode = .nan false := by
  cases f with
  | g4 | mw16 => rfl
  | _ => cases hf

/-- The three ways in which the floating-point formats encode a NaN. -/
theorem Fmt.hasInf_or_e4m3_or_not_hasNegZero {f : Fmt}
    (hf : f ∈ [Fmt.fp64, .fp32, .fp16, .bf16, .e4m3, .e5m2, .g4, .mw16]) :
    f.hasInf = true ∨ f = .e4m3 ∨ f.hasNegZero = false := by
  simp only [List.mem_cons, List.not_mem_nil, or_false] at hf
  obtain rfl | rfl | rfl | rfl | rfl | rfl | rfl | rfl := hf <;> decide

/-- The canonical NaN of a floating-point format is one of its NaNs, and a quiet one. -/
theorem Fmt.decode_nanCode {f : Fmt} (hf : f ∈ [Fmt.fp64, .fp32, .fp16, .bf16, .e4m3, .e5m2, .g4, .mw16]) :
    f.decode f.nanCode = .nan false := by
  obtain hinf | rfl | hneg := Fmt.hasInf_or_e4m3_or_not_hasNegZero hf
  · exact Fmt.decode_nanCode_of_hasInf hinf
  · exact Fmt.decode_nanCode_e4m3
  · exact Fmt.decode_nanCode_of_not_hasNegZero hneg

/-- R28, R31: no rounding mode, scale, INF flag or random value enters the conversion of a NaN. -/
@[simp] theorem convert_nan_code (sig : Bool) (d : Fmt) (mode : Nat) (sigma xe : Int) (inf : Bool) (r : Nat) :
    (convert (.nan sig) d mode sigma xe inf r).code = d.nanCode := rfl

/-- R23: the E8M0 code 0xFF is the NaN scale. -/
@[simp] theorem scaleExp_255 : scaleExp 255 = none := rfl

@[simp] theorem decodeScaled_none (f : Fmt) (c : Nat) (sigma : Int) : decodeScaled f c sigma none = .nan false := rfl

/-- Settles O56: a conversion answers a NaN with the destination's canonical NaN alone, that code is a NaN in each of the
three ways of encoding one, and the block scale 0xFF hides the element's code. -/
theorem nanSourcesBecomeCanonical : Obligations.NanSourcesBecomeCanonical := by
  unfold Obligations.NanSourcesBecomeCanonical
  refine ⟨fun sig inf mode r sigma xe => ?_, fun f hf => ⟨false, Fmt.decode_nanCode hf⟩, fun f c sigma => ?_⟩
  · simp only [convert_nan_code]
    exact ⟨rfl, rfl, rfl, rfl, rfl, rfl, rfl, rfl⟩
  · rw [scaleExp_255, decodeScaled_none]

end Sys2Proof.Machine

/-! ## The register map: finding an element of an array of registers (chapter 15) -/

namespace Sys2Proof.Machine

/-- The offset of element `i` of an array has the index `i`, and what lies past the element's start is read against the
inner dimensions. -/
theorem matchDims_cons {n st i r : Nat} (ds : List (Nat × Nat)) (hi : i < n) (hr : r < st) :
    matchDims ((n, st) :: ds) (st * i + r) = (matchDims ds r).map (i :: ·) := by
  have hdiv : (st * i + r) / st = i := by
    rw [Nat.mul_add_div (by omega), Nat.div_eq_of_lt hr, Nat.add_zero]
  have hmin : Nat.min i (n - 1) = i := Nat.min_eq_left (by omega)
  have hrest : st * i + r - i * st = r := by rw [Nat.mul_comm st i, Nat.add_sub_cancel_left]
  simp only [matchDims, hdiv, hmin, hrest]

@[simp] theorem matchDims_nil_zero : matchDims [] 0 = some [] := rfl

/-- An offset at or past the end of a one-dimensional array is no element's. -/
theorem matchDims_single_past_end {n st o : Nat} (hn : 0 < n) (hst : 0 < st) (ho : st * n ≤ o) :
    matchDims [(n, st)] o = none := by
  have hdiv : n ≤ o / st := (Nat.le_div_iff_mul_le hst).2 (by rwa [Nat.mul_comm])
  have hmin : Nat.min (o / st) (n - 1) = n - 1 := Nat.min_eq_right (by omega)
  have hlast : (n - 1) * st + st = st * n := by
    rw [← Nat.succ_mul, Nat.succ_eq_add_one, Nat.sub_add_cancel hn, Nat.mul_comm]
  have hrest : o - (n - 1) * st ≠ 0 := by omega
  simp only [matchDims, hmin, if_neg hrest, Option.map_none]

/-- A row whose array has an element at the offset is the register found. -/
theorem findReg_cons_of_match {d : RegDesc} {off : Nat} {ixs : List Nat} (ds : List RegDesc) (hb : d.base ≤ off)
    (hm : matchDims d.dims (off - d.base) = some ixs) : findReg (d :: ds) off = some ⟨d, ixs⟩ := by
  simp only [findReg, if_neg (Nat.not_lt.2 hb), hm]

/-- A row whose array has no element at the offset is passed over. -/
theorem findReg_cons_of_no_match {d : RegDesc} {off : Nat} (ds : List RegDesc)
    (hm : matchDims d.dims (off - d.base) = none) : findReg (d :: ds) off = findReg ds off := by
  simp only [findReg, hm, ite_self]

/-- Every offset below the function pages is looked up in its block's rows: the offsets that the PF lacks lie in a page. -/
theorem regAt_low {off : Nat} (h : off < 0x1000000) : regAt off = findReg (blockRows off) off := by
  have hpf : pfAbsent off = false := by
    simp only [pfAbsent, Bool.or_eq_false_iff, Bool.and_eq_false_iff, decide_eq_false_iff_not]
    omega
  simp only [regAt, hpf, Bool.false_eq_true, if_false]

/-- R422: the second 0x1_0000 bytes of a lantern's registers are its VE block. -/
theorem blockRows_ve {n r : Nat} (hn : n < 8) (hr : r < 0x10000) :
    blockRows (0x410000 + 0x80000 * n + r) = regsVe := by
  have ho : (0x410000 + 0x80000 * n + r - 0x400000) % 0x80000 = 0x10000 + r := by omega
  simp only [blockRows, ho]
  iterate 7 rw [if_neg (by omega)]
  rw [if_pos (by omega), if_neg (by omega), if_pos (by omega)]

/-- At reset every register reads its reset value (R8). -/
@[simp] theorem State.reg_reset (o : Nat) : State.reset.reg o = regReset o := rfl

end Sys2Proof.Machine

/-! ## VE_SPLIT and the choice of a split reduction's method (chapter 05) -/

namespace Sys2Proof.Machine

/-- R121: VE_SPLIT lies at 0x40 in its lantern's VE block, one for each partition. -/
theorem regAt_veSplitOff {n p : Nat} (hn : n < 8) (hp : p < 4) :
    regAt (veSplitOff n p) = some ⟨regsVe[1]'(by decide), [n, p]⟩ := by
  have hlow : veSplitOff n p < 0x1000000 := by simp only [veSplitOff]; omega
  have hrows : blockRows (veSplitOff n p) = regsVe := by
    have hoff : veSplitOff n p = 0x410000 + 0x80000 * n + (0x40 + 0x8 * p) := by simp only [veSplitOff]; omega
    rw [hoff, blockRows_ve hn (by omega)]
  have hflags : matchDims [(8, 0x80000), (4, 0x8)] (veSplitOff n p - 0x410000) = none := by
    have hoff : veSplitOff n p - 0x410000 = 0x80000 * n + (0x40 + 0x8 * p) := by simp only [veSplitOff]; omega
    rw [hoff, matchDims_cons _ hn (by omega), matchDims_single_past_end (by omega) (by omega) (by omega), Option.map_none]
  have hsplit : matchDims [(8, 0x80000), (4, 0x8)] (veSplitOff n p - 0x410040) = some [n, p] := by
    have hoff : veSplitOff n p - 0x410040 = 0x80000 * n + (0x8 * p + 0) := by simp only [veSplitOff]; omega
    rw [hoff, matchDims_cons _ hn (by omega), matchDims_cons _ hp (by omega), matchDims_nil_zero, Option.map_some,
      Option.map_some]
  rw [regAt_low hlow, hrows]
  exact (findReg_cons_of_no_match _ hflags).trans
    (findReg_cons_of_match _ (by simp only [veSplitOff]; omega) hsplit)

/-- R121: VE_SPLIT resets to CROSS 64 and TIMEOUT 500 ms. -/
theorem regReset_veSplitOff {n p : Nat} (hn : n < 8) (hp : p < 4) : regReset (veSplitOff n p) = 0x004001F4#64 := by
  simp only [regReset, regAt_veSplitOff hn hp]
  rfl

/-- R114: under AUTO, CHAIN is used exactly for more contributors than the crossover, the descriptor's own or, where that is
0, the collecting lantern's VE_SPLIT.CROSS. -/
theorem State.splitChain_of_auto {d : SplitDesc} (s : State) (p : Nat) (hauto : d.method = 0) :
    s.splitChain p d = decide ((if d.cross = 0 then s.fld (veSplitOff d.lan p) 31 16 else d.cross) < d.ncon) := by
  simp [State.splitChain, hauto]

/-- Settles O58: AUTO's test is a strict comparison, whose failure is NCON at most CROSS, and VE_SPLIT's row of the register
map gives CROSS its reset value. -/
theorem autoSelectsByCrossover : Obligations.AutoSelectsByCrossover := by
  unfold Obligations.AutoSelectsByCrossover
  refine ⟨fun s p d hauto => ?_, fun n p hn hp => ?_⟩
  · rw [State.splitChain_of_auto s p hauto, decide_eq_false_iff_not, Nat.not_lt]
  · rw [State.fld, State.reg_reset, regReset_veSplitOff hn hp]
    decide

end Sys2Proof.Machine

/-! ## What a write leaves of read-only registers (chapter 15) -/

namespace Sys2Proof.Machine

/-- R5: a field whose access code is RO keeps its bits when its register is written. -/
theorem fldWrite_of_ro {f : Fld} (old new acc : Nat) (hf : f.acc = .ro) : fldWrite old new f acc = acc := by
  simp only [fldWrite, hf]

/-- R5: a register all of whose fields are RO holds what it held. -/
theorem RegDesc.written_of_ro {d : RegDesc} (old new : Nat) (hd : ∀ f ∈ d.flds, f.acc = .ro) :
    d.written old new = old :=
  List.foldlRecOn d.flds _ (motive := (· = old)) rfl fun acc hacc f hf => (fldWrite_of_ro old new acc (hd f hf)).trans hacc

/-- A plain write of a register of RO fields changes no register. -/
theorem State.reg_writeFields_of_ro {h : RegHit} (s : State) (off v o : Nat) (hro : ∀ f ∈ h.desc.flds, f.acc = .ro) :
    (s.writeFields h off v).reg o = s.reg o := by
  rw [State.writeFields, RegDesc.written_of_ro _ v hro, State.reg_setReg, BitVec.ofNat_toNat, BitVec.setWidth_eq]
  split
  · next ho => rw [ho]
  · rfl

/-- A narrow access of a 64-bit register is ignored (R422). -/
theorem State.writeAt_narrow_of_wide {h : RegHit} {off : Nat} (s : State) (ok : RegHit → Bool) (v : Nat)
    (hreg : regAt off = some h) (hwide : h.desc.width = 64) : s.writeAt ok false off v = s := by
  simp [State.writeAt, hreg, hwide]

/-- A 64-bit access of a 64-bit register writes it, for a writer that passes the filter (R422). -/
theorem State.write64_of_wide {h : RegHit} {off : Nat} (s : State) (ok : RegHit → Bool) (v : Nat)
    (haligned : off % 8 = 0) (hreg : regAt off = some h) (hwide : h.desc.width = 64) :
    s.write64 ok off v = if ok h then s.writeReg h off v else s := by
  simp [State.write64, State.writeAt, haligned, hreg, hwide]

/-- A host write of a 64-bit register leaves the state alone or is the write of its whole value (R419, R422). -/
theorem State.hostWriteReg_of_wide {h : RegHit} {off : Nat} (s : State) (by_ : Func) (wide : Bool) (v : Nat)
    (haligned : off % 8 = 0) (hreg : regAt off = some h) (hwide : h.desc.width = 64) :
    s.hostWriteReg by_ off wide v = s ∨ s.hostWriteReg by_ off wide v = s.writeReg h off v := by
  cases hup : s.hostUp by_ with
  | false => exact .inl (by simp [State.hostWriteReg, hup])
  | true =>
    cases wide with
    | false => exact .inl (by simp [State.hostWriteReg, hup, State.writeAt_narrow_of_wide s _ _ hreg hwide])
    | true =>
      simp only [State.hostWriteReg, hup, Bool.not_true, Bool.false_eq_true, if_false, if_true,
        State.write64_of_wide s _ v haligned hreg hwide]
      split
      · exact .inr rfl
      · exact .inl rfl

end Sys2Proof.Machine

/-! ## MOD_PPS_EDGES (chapter 18) -/

namespace Sys2Proof.Machine

/-- MOD_PPS_EDGES in the register map: the last row of the MOD block (R542). -/
def modPpsEdgesHit : RegHit := ⟨⟨0x510, [], 0, 64, [⟨63, 0, .ro, 0⟩], .mod⟩, []⟩

theorem regAt_modPpsEdgesOff : regAt modPpsEdgesOff = some modPpsEdgesHit := by
  rw [regAt_low (by decide)]
  rfl

theorem modPpsEdgesHit_flds_ro : ∀ f ∈ modPpsEdgesHit.desc.flds, f.acc = .ro := by decide

theorem regReset_modPpsEdgesOff : regReset modPpsEdgesOff = 0 := by
  simp only [regReset, regAt_modPpsEdgesOff]
  rfl

/-- No write of MOD_PPS_EDGES has a meaning of its own. -/
theorem State.writeReg_modPpsEdges (s : State) (v : Nat) :
    s.writeReg modPpsEdgesHit modPpsEdgesOff v = s.writeFields modPpsEdgesHit modPpsEdgesOff v := rfl

/-- No host write changes MOD_PPS_EDGES. -/
theorem State.reg_hostWriteReg_modPpsEdges (s : State) (by_ : Func) (wide : Bool) (v : Nat) :
    (s.hostWriteReg by_ modPpsEdgesOff wide v).reg modPpsEdgesOff = s.reg modPpsEdgesOff := by
  obtain hsame | hwrite := s.hostWriteReg_of_wide by_ wide v (by decide) regAt_modPpsEdgesOff rfl
  · rw [hsame]
  · rw [hwrite, State.writeReg_modPpsEdges, State.reg_writeFields_of_ro _ _ _ _ modPpsEdgesHit_flds_ro]

/-- R537: the first edge's step writes MOD_TIME alone. -/
theorem State.reg_ppsStep_other (s : State) {o : Nat} (ho : o ≠ modTimeOff) : s.ppsStep.reg o = s.reg o := by
  rw [State.ppsStep, State.reg_setReg, if_neg ho]
  rfl

/-- R537: a later edge's record writes MOD_PPS alone. -/
theorem State.reg_ppsRecord_other (s : State) {o : Nat} (ho : o ≠ modPpsOff) : s.ppsRecord.reg o = s.reg o := by
  rw [State.ppsRecord, State.reg_setFld_other _ _ _ _ _ _ ho]
  rfl

/-- R542: an edge that the module sees, whether or not MOD_TIME follows it, adds 1 to the count. -/
theorem exec_ppsEdge_modPpsEdges (s : State) (hup : mBoot ≤ s.modState) :
    ∃ t, exec .ppsEdge s = .next t ∧ t.reg modPpsEdgesOff = s.reg modPpsEdgesOff + 1 := by
  have hcount : (s.count modPpsEdgesOff).reg modPpsEdgesOff = s.reg modPpsEdgesOff + 1 := by
    rw [State.reg_count, if_pos rfl]
    rfl
  have hpps : modPpsEdgesOff ≠ modPpsOff := by decide
  refine ⟨_, rfl, ?_⟩
  rw [if_neg (Nat.not_lt.2 hup), State.setBit, State.reg_setFld_other _ _ _ _ _ _ hpps, ← hcount]
  split
  · rfl
  · split
    · exact State.reg_ppsRecord_other _ hpps
    · exact State.reg_ppsStep_other _ (by decide)

/-- Settles O57: the register map's row makes MOD_PPS_EDGES a 64-bit read-only register with reset value 0, each of the
three things an edge can do to MOD_TIME leaves the count of the edge standing, and a host write of RO fields keeps them. -/
theorem ppsEdgesCounted : Obligations.PpsEdgesCounted := by
  unfold Obligations.PpsEdgesCounted
  refine ⟨⟨modPpsEdgesHit, regAt_modPpsEdgesOff, rfl, modPpsEdgesHit_flds_ro⟩, ?_, fun s hup => ?_, fun s by_ wide v => ?_⟩
  · exact regReset_modPpsEdgesOff
  · obtain ⟨t, hexec, hreg⟩ := exec_ppsEdge_modPpsEdges s hup
    exact ⟨t, hexec, (congrArg BitVec.toNat hreg).trans (BitVec.toNat_add _ _)⟩
  · exact ⟨_, rfl, s.reg_hostWriteReg_modPpsEdges by_ wide v.toNat⟩

end Sys2Proof.Machine
